-- ==== Sys2Proof/Word.lean ====
section
/-! DEFINITION. The machine's words: fixed-width bit strings, and nothing but their names (R2, R12). -/

namespace Sys2Proof

/-- A scalar register, a CSR or an address while it is computed (R12, R60). -/
abbrev Word := BitVec 64
/-- One byte of memory (R2). -/
abbrev Byte := BitVec 8
/-- A 16-bit instruction parcel (R81). -/
abbrev Parcel := BitVec 16
/-- A vector register or a bit tile (R12, R161). -/
abbrev V256 := BitVec 256
/-- A tile's image, or one chain of an accumulator: 1,024 bytes (R132, R138). -/
abbrev Image := BitVec 8192
/-- A matrix command record (R152). -/
abbrev Rec512 := BitVec 512

end Sys2Proof
end

