-- ==== Sys2Proof/Config.lean ====
section
/-! DEFINITION. What the spec leaves to the part at hand and states no value of. Every constant here is opaque: nothing
can be proved of its value, so a claim about the model holds whatever it is. -/

namespace Sys2Proof.Config

/-- The free values: each draw names one by the counter that `State.fresh` holds (entry 2). -/
opaque freeWord : Nat → Word

/-- MTVEC, MSTATUS and MSCRATCH as the M firmware of an image sets them at strand start (R36, R323; entry 22). -/
opaque mtvec : List Byte → Word
opaque mstatus : List Byte → Word
opaque mscratch : List Byte → Word

/-- Where the global image of a kernel's object stands, its first address and its length in bytes: by the address of the kernel
descriptor and the descriptor's bytes, for no record names it (R136; entry 12). -/
opaque imageSpan : Nat → List Byte → Nat × Nat
/-- The image as loaded, by the address of its kernel descriptor, where its bytes cannot be read (entry 12). -/
opaque globalImage : Nat → List Byte
/-- The size of the image's `.bss` and the routine lists of its kernel, by the same and the image's bytes (R136; entry 12). -/
opaque bssSize : Nat → List Byte → Word
opaque routineLists : Nat → List Byte → List Byte

/-- The version in the header of a firmware image, whose layout no rule gives (R323; entry 96). -/
opaque imageVersion : List Byte → Nat
/-- An XMSS signature by leaf index over a report (R325). -/
opaque xmssSign : Nat → List Byte → List Byte
/-- The digests that an attestation report holds (R325). -/
opaque imageDigest : List Byte → V256

/-- The wake word's address, which CONFIG WORDS reports (R307, R319); the event word is 8 bytes above it. -/
opaque wakeWord : Nat → Word

/-- What another module's home slice answers to a load or an atomic (R199; entry 62). -/
opaque peerData : Nat → Nat → Word
/-- What it answers to an instruction fetch of a line. -/
opaque peerLine : Nat → Nat → V256
/-- Whether that answer carries the tag of a release there (R192, R199; entry 62). -/
opaque peerTagged : Nat → Nat → Bool

/-- Whether the sum of two zeros of opposite sign is −0 in the mode RDN: R127 states no sign for it (entry 13). -/
opaque oppositeZerosRdn : Bool

/-- The rounding mode that a reserved RM of a pushed record stands for (entry 15). -/
opaque reservedRm : Nat → Nat

end Sys2Proof.Config
end

