-- ==== Sys2Proof/Syntax.lean ====
section
/-! DEFINITION. The instructions: one constructor for each row of spec/opcode_table.json. Rows 0 to 309 are the
encoded instructions of pages 0 to 6 (R98 to R105), with the operands their encodings admit and an absent RGX
already resolved (D = A, R85). Rows 310 to 416 are the machine's events: steps of another agent than a strand, which
no parcel encodes; the arguments of an event say which agent, message or launch it concerns. -/

namespace Sys2Proof

abbrev XReg := BitVec 5
abbrev VReg := BitVec 5
abbrev BReg := BitVec 3
abbrev TReg := BitVec 3
abbrev AReg := BitVec 2
abbrev KReg := BitVec 2
abbrev QReg := BitVec 3

/-- The order of a memory-form MOD (R88). -/
inductive Order where
  | plain | acquire | release | acqRel
  deriving DecidableEq, Repr

/-- The memory form of MOD (R88): scope code, order, hint code. -/
structure MemMod where
  scope : BitVec 3
  order : Order
  hint  : BitVec 2
  deriving DecidableEq, Repr

/-- An access without MOD: plain, hint normal (R88). -/
def MemMod.none : MemMod := ⟨0, .plain, 0⟩

/-- The mask form of MOD, or its absence (R89). -/
inductive MaskMod where
  | all
  | lanes (reg : XReg) (zero : Bool)
  deriving DecidableEq, Repr

/-- The element types of page 2 (R100), in the order of their codes 0 to 14. -/
inductive ETy where
  | i8 | i16 | i32 | i64 | n8 | n16 | n32 | n64 | e4 | e5 | bf | hf | f32 | f64 | cb4
  deriving DecidableEq, Repr

/-- A strand slot: module-wide core number (R11) and slot 0 to 3 (R12). -/
structure Sid where
  core : Nat
  slot : Nat
  deriving DecidableEq, Repr

/-- Where a saved strand is placed again (R39): its stage and rank, and the slot that receives it. -/
structure Place where
  stage : Nat
  rank  : Nat
  dest  : Sid
  deriving DecidableEq, Repr

/-- The head of a host command (R313): the work queue it arrives on, TAG and ORD. -/
structure HostHead where
  queue : Nat
  tag   : Nat
  ord   : Bool
  deriving DecidableEq, Repr

/-- What a command holds that no other event stands for: its first word, bit 8 (ORD) apart, and the subcode that a CONFIG
has (R313, R319). -/
structure OddCommand where
  op  : Nat
  sub : Nat
  deriving DecidableEq, Repr

/-- What a peer module's access does at this module's home slice (R199, R333). -/
inductive RemoteAcc where
  | load | store | swap | add | cas | and | or | xor | min | max | minu | maxu | fadd
  deriving DecidableEq, Repr

/-- An access of a strand of a peer module: the device of this module that it names, the partition-relative address, the
bytes that it writes or works with, their number, the operand of a comparison, and its order and scope. -/
structure RemoteReq where
  acc  : RemoteAcc
  vdev : Nat
  pra  : Nat
  size : Nat
  data : List Byte
  cmp  : Word
  mm   : MemMod
  deriving DecidableEq, Repr

/-- What arrives from a peer module, about a strand: an access of that strand of the peer; or the scope miss of the peer's
slice at an address, for a release of that strand of this module, with the scope of its tag and the scope needed (R199). -/
inductive PeerMsg where
  | access    (r : RemoteReq)
  | scopeMiss (scope need : BitVec 3) (pra : Nat)
  deriving DecidableEq, Repr

/-- What an access through the IEEE 1149.1 port reads of a frozen module (R328). -/
inductive DebugView where
  | xreg (who : Sid) (r : XReg)
  | vreg (who : Sid) (r : VReg)
  | breg (who : Sid) (r : BReg)
  | pc   (who : Sid)
  | csr  (who : Sid) (n : BitVec 14)
  | lm   (core off : Nat)
  | mem  (pa : Nat)
  | tile (core : Nat) (t : TReg) (word : Nat)
  | acc  (core : Nat) (a : AReg) (odd : Bool) (word : Nat)
  | book (core : Nat) (k : KReg)
  | queue (core : Nat) (q : QReg)
  | engine (core : Nat) (idx : Nat)
  | line (core pa : Nat)
  | fetched (core pa : Nat)
  | bar (core slot : Nat)
  | copier (core slot : Nat)
  | missEntry (core i : Nat)
  deriving DecidableEq, Repr

/-- The instructions and events of the machine. -/
inductive Instr where
  /-- add, R331. -/
  | add (a b d : XReg)
  /-- sub, R423. -/
  | sub (a b d : XReg)
  /-- and, R336. -/
  | and (a b d : XReg)
  /-- or, R394. -/
  | or (a b d : XReg)
  /-- xor, R479. -/
  | xor (a b d : XReg)
  /-- sll, R418. -/
  | sll (a b d : XReg)
  /-- srl, R418. -/
  | srl (a b d : XReg)
  /-- sra, R418. -/
  | sra (a b d : XReg)
  /-- mul, R390. -/
  | mul (a b d : XReg)
  /-- mulh, R390. -/
  | mulh (a b d : XReg)
  /-- mulhu, R390. -/
  | mulhu (a b d : XReg)
  /-- div, R359. -/
  | div (a b d : XReg)
  /-- divu, R359. -/
  | divu (a b d : XReg)
  /-- rem, R359. -/
  | rem (a b d : XReg)
  /-- remu, R359. -/
  | remu (a b d : XReg)
  /-- nop, R392. -/
  | nop
  /-- slt, R413. -/
  | slt (a b d : XReg)
  /-- sltu, R413. -/
  | sltu (a b d : XReg)
  /-- seq, R413. -/
  | seq (a b d : XReg)
  /-- sne, R413. -/
  | sne (a b d : XReg)
  /-- min, R384. -/
  | min (a b d : XReg)
  /-- max, R384. -/
  | max (a b d : XReg)
  /-- minu, R384. -/
  | minu (a b d : XReg)
  /-- maxu, R384. -/
  | maxu (a b d : XReg)
  /-- csel.z, R355. -/
  | cselZ (a b d : XReg)
  /-- csel.nz, R355. -/
  | cselNz (a b d : XReg)
  /-- clz, R354. -/
  | clz (a b : XReg)
  /-- ctz, R354. -/
  | ctz (a b : XReg)
  /-- popc, R354. -/
  | popc (a b : XReg)
  /-- rev8, R354. -/
  | rev8 (a b : XReg)
  /-- sext.w, R414. -/
  | sextW (a b : XReg)
  /-- zext.w, R414. -/
  | zextW (a b : XReg)
  /-- addi, R331. -/
  | addi (a d : XReg) (imm : BitVec 24)
  /-- andi, R336. -/
  | andi (a d : XReg) (imm : BitVec 24)
  /-- ori, R394. -/
  | ori (a d : XReg) (imm : BitVec 24)
  /-- xori, R479. -/
  | xori (a d : XReg) (imm : BitVec 24)
  /-- slli, R418. -/
  | slli (a d : XReg) (imm : BitVec 6)
  /-- srli, R418. -/
  | srli (a d : XReg) (imm : BitVec 6)
  /-- srai, R418. -/
  | srai (a d : XReg) (imm : BitVec 6)
  /-- slti, R413. -/
  | slti (a d : XReg) (imm : BitVec 24)
  /-- sltiu, R413. -/
  | sltiu (a d : XReg) (imm : BitVec 24)
  /-- muli, R390. -/
  | muli (a d : XReg) (imm : BitVec 24)
  /-- li, R378. -/
  | li (a : XReg) (imm : BitVec 24)
  /-- lsi, R378. -/
  | lsi (a d : XReg) (imm : BitVec 24)
  /-- seqi, R413. -/
  | seqi (a d : XReg) (imm : BitVec 24)
  /-- mini, R384. -/
  | mini (a d : XReg) (imm : BitVec 24)
  /-- maxi, R384. -/
  | maxi (a d : XReg) (imm : BitVec 24)
  /-- mort3, R386. -/
  | mort3 (a d : XReg) (shift : BitVec 5)
  /-- lb, R376. -/
  | lb (a b : XReg) (imm : BitVec 20) (mm : MemMod)
  /-- lbu, R376. -/
  | lbu (a b : XReg) (imm : BitVec 20) (mm : MemMod)
  /-- lh, R376. -/
  | lh (a b : XReg) (imm : BitVec 20) (mm : MemMod)
  /-- lhu, R376. -/
  | lhu (a b : XReg) (imm : BitVec 20) (mm : MemMod)
  /-- lw, R376. -/
  | lw (a b : XReg) (imm : BitVec 20) (mm : MemMod)
  /-- lwu, R376. -/
  | lwu (a b : XReg) (imm : BitVec 20) (mm : MemMod)
  /-- ld, R376. -/
  | ld (a b : XReg) (imm : BitVec 20) (mm : MemMod)
  /-- ldf, R179. -/
  | ldf (a b : XReg) (imm : BitVec 20) (mm : MemMod)
  /-- ldfe, R179. -/
  | ldfe (a b : XReg) (imm : BitVec 20) (mm : MemMod)
  /-- sb, R409. -/
  | sb (a b : XReg) (imm : BitVec 20) (mm : MemMod)
  /-- sh, R409. -/
  | sh (a b : XReg) (imm : BitVec 20) (mm : MemMod)
  /-- sw, R409. -/
  | sw (a b : XReg) (imm : BitVec 20) (mm : MemMod)
  /-- sd, R409. -/
  | sd (a b : XReg) (imm : BitVec 20) (mm : MemMod)
  /-- sdf, R178. -/
  | sdf (a b : XReg) (imm : BitVec 20) (mm : MemMod)
  /-- sfe, R178. -/
  | sfe (b : XReg) (imm : BitVec 20) (mm : MemMod)
  /-- bz, R344. -/
  | bz (a : XReg) (off : BitVec 28)
  /-- bnz, R344. -/
  | bnz (a : XReg) (off : BitVec 28)
  /-- beq, R340. -/
  | beq (a b : XReg) (off : BitVec 20)
  /-- bne, R340. -/
  | bne (a b : XReg) (off : BitVec 20)
  /-- blt, R340. -/
  | blt (a b : XReg) (off : BitVec 20)
  /-- bge, R340. -/
  | bge (a b : XReg) (off : BitVec 20)
  /-- bltu, R340. -/
  | bltu (a b : XReg) (off : BitVec 20)
  /-- bgeu, R340. -/
  | bgeu (a b : XReg) (off : BitVec 20)
  /-- jal, R371. -/
  | jal (a : XReg) (off : BitVec 28)
  /-- jalr, R372. -/
  | jalr (a b : XReg) (off : BitVec 24)
  /-- skip.z, R416. -/
  | skipZ (a : XReg) (n : BitVec 4)
  /-- skip.nz, R416. -/
  | skipNz (a : XReg) (n : BitVec 4)
  /-- skip.lt, R416. -/
  | skipLt (a : XReg) (n : BitVec 4)
  /-- skip.ge, R416. -/
  | skipGe (a : XReg) (n : BitVec 4)
  /-- loop, R380. -/
  | loop (a : XReg) (n : BitVec 4)
  /-- rep, R403. -/
  | rep (a : XReg) (n str : BitVec 4)
  /-- csrr, R356. -/
  | csrr (a : XReg) (csr : BitVec 14)
  /-- csrw, R356. -/
  | csrw (a : XReg) (csr : BitVec 14)
  /-- csrs, R356. -/
  | csrs (a : XReg) (csr : BitVec 14)
  /-- csrc, R356. -/
  | csrc (a : XReg) (csr : BitVec 14)
  /-- csrx, R356. -/
  | csrx (a d : XReg) (csr : BitVec 14)
  /-- trap, R429. -/
  | trap (imm : BitVec 28)
  /-- rti, R61. -/
  | rti
  /-- yield, R292. -/
  | yield
  /-- halt, R369. -/
  | halt
  /-- brk, R341. -/
  | brk (imm : BitVec 28)
  /-- fence, R366. -/
  | fence (scope : BitVec 3)
  /-- fence.i, R367. -/
  | fenceI
  /-- idle, R370. -/
  | idle
  /-- safe, R70. -/
  | safe (n : BitVec 16)
  /-- la, R373. -/
  | la (a : XReg) (off : BitVec 28)
  /-- fadd.s, R361. -/
  | faddS (a b d : XReg)
  /-- fsub.s, R361. -/
  | fsubS (a b d : XReg)
  /-- fmul.s, R361. -/
  | fmulS (a b d : XReg)
  /-- fdiv.s, R361. -/
  | fdivS (a b d : XReg)
  /-- fmin.s, R362. -/
  | fminS (a b d : XReg)
  /-- fmax.s, R362. -/
  | fmaxS (a b d : XReg)
  /-- fsqrt.s, R361. -/
  | fsqrtS (a b : XReg)
  /-- fma.s, R361. -/
  | fmaS (a b d : XReg)
  /-- fadd.d, R361. -/
  | faddD (a b d : XReg)
  /-- fsub.d, R361. -/
  | fsubD (a b d : XReg)
  /-- fmul.d, R361. -/
  | fmulD (a b d : XReg)
  /-- fdiv.d, R361. -/
  | fdivD (a b d : XReg)
  /-- fmin.d, R362. -/
  | fminD (a b d : XReg)
  /-- fmax.d, R362. -/
  | fmaxD (a b d : XReg)
  /-- fsqrt.d, R361. -/
  | fsqrtD (a b : XReg)
  /-- fma.d, R361. -/
  | fmaD (a b d : XReg)
  /-- feq.s, R363. -/
  | feqS (a b d : XReg)
  /-- flt.s, R363. -/
  | fltS (a b d : XReg)
  /-- fle.s, R363. -/
  | fleS (a b d : XReg)
  /-- feq.d, R363. -/
  | feqD (a b d : XReg)
  /-- flt.d, R363. -/
  | fltD (a b d : XReg)
  /-- fle.d, R363. -/
  | fleD (a b d : XReg)
  /-- fclass.s, R363. -/
  | fclassS (a b : XReg)
  /-- fclass.d, R363. -/
  | fclassD (a b : XReg)
  /-- fcvt.s.d, R364. -/
  | fcvtSD (a b : XReg)
  /-- fcvt.d.s, R364. -/
  | fcvtDS (a b : XReg)
  /-- fcvt.s.l, R364. -/
  | fcvtSL (a b : XReg)
  /-- fcvt.l.s, R364. -/
  | fcvtLS (a b : XReg)
  /-- fcvt.d.l, R364. -/
  | fcvtDL (a b : XReg)
  /-- fcvt.l.d, R364. -/
  | fcvtLD (a b : XReg)
  /-- fcvt.s.bf, R364. -/
  | fcvtSBf (a b : XReg)
  /-- fcvt.bf.s, R364. -/
  | fcvtBfS (a b : XReg)
  /-- fcvt.s.hf, R364. -/
  | fcvtSHf (a b : XReg)
  /-- fcvt.hf.s, R364. -/
  | fcvtHfS (a b : XReg)
  /-- fcvt.s.e4, R364. -/
  | fcvtSE4 (a b : XReg)
  /-- fcvt.e4.s, R364. -/
  | fcvtE4S (a b : XReg)
  /-- fcvt.s.e5, R364. -/
  | fcvtSE5 (a b : XReg)
  /-- fcvt.e5.s, R364. -/
  | fcvtE5S (a b : XReg)
  /-- fcvt.s.w, R364. -/
  | fcvtSW (a b : XReg)
  /-- fcvt.w.s, R364. -/
  | fcvtWS (a b : XReg)
  /-- fexp2, R368. -/
  | fexp2 (a b : XReg)
  /-- flog2, R368. -/
  | flog2 (a b : XReg)
  /-- frcp, R368. -/
  | frcp (a b : XReg)
  /-- frsq, R368. -/
  | frsq (a b : XReg)
  /-- fsin, R368. -/
  | fsin (a b : XReg)
  /-- fcos, R368. -/
  | fcos (a b : XReg)
  /-- ftanh, R368. -/
  | ftanh (a b : XReg)
  /-- flgst, R368. -/
  | flgst (a b : XReg)
  /-- vadd, R441. -/
  | vadd (ty : ETy) (a b d : VReg) (m : MaskMod)
  /-- vsub, R472. -/
  | vsub (ty : ETy) (a b d : VReg) (m : MaskMod)
  /-- vmul, R458. -/
  | vmul (ty : ETy) (a b d : VReg) (m : MaskMod)
  /-- vmin, R457. -/
  | vmin (ty : ETy) (a b d : VReg) (m : MaskMod)
  /-- vmax, R456. -/
  | vmax (ty : ETy) (a b d : VReg) (m : MaskMod)
  /-- vand, R442. -/
  | vand (ty : ETy) (a b d : VReg) (m : MaskMod)
  /-- vor, R462. -/
  | vor (ty : ETy) (a b d : VReg) (m : MaskMod)
  /-- vxor, R475. -/
  | vxor (ty : ETy) (a b d : VReg) (m : MaskMod)
  /-- vshl, R467. -/
  | vshl (ty : ETy) (a b d : VReg) (m : MaskMod)
  /-- vshr, R468. -/
  | vshr (ty : ETy) (a b d : VReg) (m : MaskMod)
  /-- vsra, R471. -/
  | vsra (ty : ETy) (a b d : VReg) (m : MaskMod)
  /-- vabs, R440. -/
  | vabs (ty : ETy) (a b : VReg) (m : MaskMod)
  /-- vneg, R461. -/
  | vneg (ty : ETy) (a b : VReg) (m : MaskMod)
  /-- vfma, R451. -/
  | vfma (ty : ETy) (a b d : VReg) (m : MaskMod)
  /-- vmulh, R459. -/
  | vmulh (ty : ETy) (a b d : VReg) (m : MaskMod)
  /-- vdiv, R448. -/
  | vdiv (ty : ETy) (a b d : VReg) (m : MaskMod)
  /-- vceq, R444. -/
  | vceq (ty : ETy) (a : XReg) (b c : VReg) (m : MaskMod)
  /-- vcne, R444. -/
  | vcne (ty : ETy) (a : XReg) (b c : VReg) (m : MaskMod)
  /-- vclt, R444. -/
  | vclt (ty : ETy) (a : XReg) (b c : VReg) (m : MaskMod)
  /-- vcle, R444. -/
  | vcle (ty : ETy) (a : XReg) (b c : VReg) (m : MaskMod)
  /-- vld, R453. -/
  | vld (ty : ETy) (a : VReg) (b : XReg) (imm : BitVec 20) (m : MaskMod)
  /-- vst, R453. -/
  | vst (ty : ETy) (a : VReg) (b : XReg) (imm : BitVec 20) (m : MaskMod)
  /-- vlds, R453. -/
  | vlds (ty : ETy) (a : VReg) (b d : XReg) (imm : BitVec 20) (m : MaskMod)
  /-- vsts, R453. -/
  | vsts (ty : ETy) (a : VReg) (b d : XReg) (imm : BitVec 20) (m : MaskMod)
  /-- vldx, R453. -/
  | vldx (ty : ETy) (a : VReg) (b : XReg) (d : VReg) (imm : BitVec 20) (m : MaskMod)
  /-- vstx, R453. -/
  | vstx (ty : ETy) (a : VReg) (b : XReg) (d : VReg) (imm : BitVec 20) (m : MaskMod)
  /-- vldsr, R454. -/
  | vldsr (ty : ETy) (a : VReg) (b : XReg) (imm : BitVec 20) (m : MaskMod)
  /-- vstsr, R454. -/
  | vstsr (ty : ETy) (a : VReg) (b : XReg) (imm : BitVec 20) (m : MaskMod)
  /-- vperm, R463. -/
  | vperm (ty : ETy) (a b d : VReg) (m : MaskMod)
  /-- vcompress, R445. -/
  | vcompress (ty : ETy) (a b : VReg) (m : MaskMod)
  /-- vexpand, R450. -/
  | vexpand (ty : ETy) (a b : VReg) (m : MaskMod)
  /-- vslideup, R470. -/
  | vslideup (ty : ETy) (a b : VReg) (d : XReg) (m : MaskMod)
  /-- vslidedn, R469. -/
  | vslidedn (ty : ETy) (a b : VReg) (d : XReg) (m : MaskMod)
  /-- vsel, R466. -/
  | vsel (ty : ETy) (a b d : VReg) (m : MaskMod)
  /-- vbcast, R443. -/
  | vbcast (ty : ETy) (a : VReg) (b : XReg) (m : MaskMod)
  /-- vxchg, R473. -/
  | vxchg (ty : ETy) (a b : VReg) (d : XReg) (m : MaskMod)
  /-- vmvxv, R460. -/
  | vmvxv (ty : ETy) (a : XReg) (b : VReg) (lane : BitVec 10) (m : MaskMod)
  /-- vmvvx, R460. -/
  | vmvvx (ty : ETy) (a : VReg) (b : XReg) (lane : BitVec 10) (m : MaskMod)
  /-- vred.add, R464. -/
  | vredAdd (ty : ETy) (a : XReg) (b : VReg) (m : MaskMod)
  /-- vred.max, R464. -/
  | vredMax (ty : ETy) (a : XReg) (b : VReg) (m : MaskMod)
  /-- vred.min, R464. -/
  | vredMin (ty : ETy) (a : XReg) (b : VReg) (m : MaskMod)
  /-- vcvt, R446. -/
  | vcvt (st dt : ETy) (a b : VReg) (m : MaskMod)
  /-- vexp2, R449. -/
  | vexp2 (ty : ETy) (a b : VReg) (m : MaskMod)
  /-- vlog2, R449. -/
  | vlog2 (ty : ETy) (a b : VReg) (m : MaskMod)
  /-- vrcp, R449. -/
  | vrcp (ty : ETy) (a b : VReg) (m : MaskMod)
  /-- vrsq, R449. -/
  | vrsq (ty : ETy) (a b : VReg) (m : MaskMod)
  /-- vtanh, R449. -/
  | vtanh (ty : ETy) (a b : VReg) (m : MaskMod)
  /-- vlgst, R449. -/
  | vlgst (ty : ETy) (a b : VReg) (m : MaskMod)
  /-- vrng, R259. -/
  | vrng (ty : ETy) (a : VReg) (b : XReg) (m : MaskMod)
  /-- tcfg, R139. -/
  | tcfg (a : XReg) (t : TReg) (c : XReg)
  /-- tcfgr, R139. -/
  | tcfgr (a : XReg) (t : TReg) (c : XReg)
  /-- trel, R141. -/
  | trel (r : BitVec 4)
  /-- tld, R143. -/
  | tld (t : TReg) (b c : XReg) (imm : BitVec 20) (mm : MemMod)
  /-- tst, R143. -/
  | tst (t : TReg) (b c : XReg) (imm : BitVec 20) (mm : MemMod)
  /-- tldt, R143. -/
  | tldt (t : TReg) (b c : XReg) (imm : BitVec 20) (mm : MemMod)
  /-- tldm, R144. -/
  | tldm (t : TReg) (b c d : XReg) (imm : BitVec 20) (mm : MemMod)
  /-- tmv.vr, R145. -/
  | tmvVr (t : TReg) (r p : BitVec 4) (m : MaskMod)
  /-- tmv.rv, R145. -/
  | tmvRv (t : TReg) (r p : BitVec 4) (m : MaskMod)
  /-- tmv.vc, R145. -/
  | tmvVc (t : TReg) (r p : BitVec 4) (m : MaskMod)
  /-- tmv.cv, R145. -/
  | tmvCv (t : TReg) (r p : BitVec 4) (m : MaskMod)
  /-- tzero, R146. -/
  | tzero (t : TReg)
  /-- tcomp.24, R155. -/
  | tcomp24 (t u : TReg)
  /-- tcomp.48, R155. -/
  | tcomp48 (t u : TReg)
  /-- ocmp.eq, R165. -/
  | ocmpEq (bd : BReg) (t u : TReg)
  /-- ocmp.ne, R165. -/
  | ocmpNe (bd : BReg) (t u : TReg)
  /-- ocmp.lt, R165. -/
  | ocmpLt (bd : BReg) (t u : TReg)
  /-- ocmp.le, R165. -/
  | ocmpLe (bd : BReg) (t u : TReg)
  /-- ocmp.gt, R165. -/
  | ocmpGt (bd : BReg) (t u : TReg)
  /-- ocmp.ge, R165. -/
  | ocmpGe (bd : BReg) (t u : TReg)
  /-- ocmp.unord, R165. -/
  | ocmpUnord (bd : BReg) (t u : TReg)
  /-- ocmp.ord, R165. -/
  | ocmpOrd (bd : BReg) (t u : TReg)
  /-- ocmp.teq, R165. -/
  | ocmpTeq (bd : BReg) (t u : TReg)
  /-- ocmp.tlt, R165. -/
  | ocmpTlt (bd : BReg) (t u : TReg)
  /-- ocmp.tle, R165. -/
  | ocmpTle (bd : BReg) (t u : TReg)
  /-- ocmp.tltx, R165. -/
  | ocmpTltx (bd : BReg) (t u : TReg)
  /-- ocmp.tgtx, R165. -/
  | ocmpTgtx (bd : BReg) (t u : TReg)
  /-- bt.and, R168. -/
  | btAnd (bd b1 b2 : BReg)
  /-- bt.or, R168. -/
  | btOr (bd b1 b2 : BReg)
  /-- bt.xor, R168. -/
  | btXor (bd b1 b2 : BReg)
  /-- bt.andn, R168. -/
  | btAndn (bd b1 b2 : BReg)
  /-- bt.comp, R168. -/
  | btComp (bd b1 b2 : BReg)
  /-- bt.not, R169. -/
  | btNot (bd bs : BReg)
  /-- bt.tr, R169. -/
  | btTr (bd bs : BReg)
  /-- bt.clos, R169. -/
  | btClos (bd bs : BReg)
  /-- bt.closr, R169. -/
  | btClosr (bd bs : BReg)
  /-- bt.id, R169. -/
  | btId (bd : BReg)
  /-- bt.zero, R169. -/
  | btZero (bd : BReg)
  /-- bt.popr, R170. -/
  | btPopr (a : VReg) (bs : BReg)
  /-- bt.popc, R170. -/
  | btPopc (a : VReg) (bs : BReg)
  /-- bt.mvbv, R170. -/
  | btMvbv (a : VReg) (bs : BReg)
  /-- bt.mvvb, R170. -/
  | btMvvb (bd : BReg) (b : VReg)
  /-- bt.ld, R171. -/
  | btLd (bd : BReg) (b : XReg) (imm : BitVec 20) (mm : MemMod)
  /-- bt.st, R171. -/
  | btSt (bd : BReg) (b : XReg) (imm : BitVec 20) (mm : MemMod)
  /-- tsv, R434. -/
  | tsv (r : BitVec 4) (b : XReg) (imm : BitVec 20)
  /-- trs, R434. -/
  | trs (r : BitVec 4) (b : XReg) (imm : BitVec 20)
  /-- mma.e4e4, R385. -/
  | mmaE4e4 (n : AReg) (t u : TReg) (sc : XReg)
  /-- mma.e4e5, R385. -/
  | mmaE4e5 (n : AReg) (t u : TReg) (sc : XReg)
  /-- mma.e5e4, R385. -/
  | mmaE5e4 (n : AReg) (t u : TReg) (sc : XReg)
  /-- mma.e5e5, R385. -/
  | mmaE5e5 (n : AReg) (t u : TReg) (sc : XReg)
  /-- mma.bfbf, R385. -/
  | mmaBfbf (n : AReg) (t u : TReg)
  /-- mma.hfhf, R385. -/
  | mmaHfhf (n : AReg) (t u : TReg)
  /-- mma.f32, R385. -/
  | mmaF32 (n : AReg) (t u : TReg)
  /-- mma.i8i8, R385. -/
  | mmaI8i8 (n : AReg) (t u : TReg) (sc : XReg)
  /-- mma.i8n8, R385. -/
  | mmaI8n8 (n : AReg) (t u : TReg) (sc : XReg)
  /-- mma.cbcb, R385. -/
  | mmaCbcb (n : AReg) (t u : TReg) (ka kb : KReg)
  /-- mma.cbe4, R385. -/
  | mmaCbe4 (n : AReg) (t u : TReg) (ka : KReg)
  /-- mma.cbbf, R385. -/
  | mmaCbbf (n : AReg) (t u : TReg) (ka : KReg)
  /-- mma.mx8, R385. -/
  | mmaMx8 (n : AReg) (t u : TReg) (sc : XReg)
  /-- mma.mx6, R385. -/
  | mmaMx6 (n : AReg) (t u : TReg) (sc : XReg)
  /-- mma.mx4, R385. -/
  | mmaMx4 (n : AReg) (t u : TReg) (sc : XReg)
  /-- mma.mxi8, R385. -/
  | mmaMxi8 (n : AReg) (t u : TReg) (sc : XReg)
  /-- smma.e4e4, R420. -/
  | smmaE4e4 (n : AReg) (t u : TReg) (sc : XReg)
  /-- smma.bfbf, R420. -/
  | smmaBfbf (n : AReg) (t u : TReg)
  /-- smma.i8i8, R420. -/
  | smmaI8i8 (n : AReg) (t u : TReg) (sc : XReg)
  /-- smma.cbcb, R420. -/
  | smmaCbcb (n : AReg) (t u : TReg) (ka kb : KReg)
  /-- mzero, R391. -/
  | mzero (n : AReg)
  /-- mdrain, R157. -/
  | mdrain (ty : ETy) (t : TReg) (n : AReg)
  /-- mdraint, R158. -/
  | mdraint (ty : BitVec 2) (t : TReg) (n : AReg) (u : TReg) (d : XReg)
  /-- mcb, R382. -/
  | mcb (k : KReg) (b : VReg)
  /-- msync, R389. -/
  | msync
  /-- mqs, R154. -/
  | mqs (a : XReg)
  /-- mpush, R387. -/
  | mpush (p : BitVec 4)
  /-- mdrain.mx, R159. -/
  | mdrainMx (t : TReg) (n : AReg) (d : XReg)
  /-- amoadd, R333. -/
  | amoadd (w32 : Bool) (a b d : XReg) (imm : BitVec 20) (mm : MemMod)
  /-- amoswap, R333. -/
  | amoswap (w32 : Bool) (a b d : XReg) (imm : BitVec 20) (mm : MemMod)
  /-- amocas, R333. -/
  | amocas (w32 : Bool) (a b d : XReg) (imm : BitVec 20) (mm : MemMod)
  /-- amoand, R333. -/
  | amoand (w32 : Bool) (a b d : XReg) (imm : BitVec 20) (mm : MemMod)
  /-- amoor, R333. -/
  | amoor (w32 : Bool) (a b d : XReg) (imm : BitVec 20) (mm : MemMod)
  /-- amoxor, R333. -/
  | amoxor (w32 : Bool) (a b d : XReg) (imm : BitVec 20) (mm : MemMod)
  /-- amomin, R333. -/
  | amomin (w32 : Bool) (a b d : XReg) (imm : BitVec 20) (mm : MemMod)
  /-- amomax, R333. -/
  | amomax (w32 : Bool) (a b d : XReg) (imm : BitVec 20) (mm : MemMod)
  /-- amominu, R333. -/
  | amominu (w32 : Bool) (a b d : XReg) (imm : BitVec 20) (mm : MemMod)
  /-- amomaxu, R333. -/
  | amomaxu (w32 : Bool) (a b d : XReg) (imm : BitVec 20) (mm : MemMod)
  /-- amofadd, R333. -/
  | amofadd (w32 : Bool) (a b d : XReg) (imm : BitVec 20) (mm : MemMod)
  /-- wait, R223. -/
  | wait (a b : XReg) (cond : BitVec 3) (imm : BitVec 20) (mm : MemMod)
  /-- bar.arr, R208. -/
  | barArr (a : XReg)
  /-- bar.wait, R208. -/
  | barWait (a : XReg)
  /-- bar.sync, R208. -/
  | barSync (a : XReg)
  /-- bar.cfg, R207. -/
  | barCfg (a b : XReg)
  /-- wbar.row, R211. -/
  | wbarRow
  /-- wbar.col, R211. -/
  | wbarCol
  /-- wbar.rc, R211. -/
  | wbarRc
  /-- send, R215. -/
  | send (a b : XReg)
  /-- recv, R216. -/
  | recv (a b : XReg)
  /-- sendv, R215. -/
  | sendv (a : VReg) (b : XReg)
  /-- recvv, R216. -/
  | recvv (a : VReg) (b : XReg)
  /-- recvt, R216. -/
  | recvt (a b d : XReg)
  /-- qw, R218. -/
  | qw (a : XReg) (q : QReg)
  /-- qr, R218. -/
  | qr (a : XReg) (q : QReg)
  /-- qtr, R218. -/
  | qtr (a : XReg) (q : QReg) (d : XReg)
  /-- sqenq, R222. -/
  | sqenq (a b : XReg) (imm : BitVec 20) (mm : MemMod)
  /-- sqdeq, R222. -/
  | sqdeq (a b : XReg) (imm : BitVec 20) (mm : MemMod)
  /-- prop.begin, R232. -/
  | propBegin
  /-- prop.end, R399. -/
  | propEnd (a b : XReg)
  /-- prop.pass, R397. -/
  | propPass
  /-- prop.serial, R398. -/
  | propSerial
  /-- prop.stat, R231. -/
  | propStat (a : XReg)
  /-- rng, R259. -/
  | rng (a b : XReg)
  /-- sstep, R262. -/
  | sstep
  /-- troupe.join, R41. -/
  | troupeJoin (a b : XReg)
  /-- troupe.split, R46. -/
  | troupeSplit
  /-- ce.w, R347. -/
  | ceW (a b : XReg)
  /-- ce.arm, R347. -/
  | ceArm (a b : XReg)
  /-- ce.stat, R349. -/
  | ceStat (a : XReg)
  /-- ce.stop, R350. -/
  | ceStop
  /-- launch, R277. -/
  | launch (a b : XReg)
  /-- shape, R284. -/
  | shape (a b : XReg)
  /-- piece.end, R395. -/
  | pieceEnd
  /-- INSTRUCTION_FETCH, R66. -/
  | instructionFetch (who : Sid) (va : Word)
  /-- CAROUSEL_PULL, R33. -/
  | carouselPull (core w : Nat)
  /-- CAROUSEL_STEAL, R34. -/
  | carouselSteal (core w : Nat)
  /-- PIECE_START, R36. -/
  | pieceStart (lnum stage idx : Nat)
  /-- AGE_LIMIT, R280. -/
  | ageLimit (lnum : Nat)
  /-- STRAND_RESUME, R39. -/
  | strandResume (lnum : Nat) (places : List Place)
  /-- PREEMPTION_REQUEST, R72. -/
  | preemptionRequest (who : Sid) (urgent : Bool)
  /-- PREEMPTION_DEADLINE, R72. -/
  | preemptionDeadline (who : Sid)
  /-- QUANTUM_EXPIRY, R281. -/
  | quantumExpiry (lnum : Nat)
  /-- ASYNC_TRAP_ENTRY, R64. -/
  | asyncTrapEntry (who : Sid)
  /-- BTO_TIMEOUT, R53. -/
  | btoTimeout (who : Sid)
  /-- GREEDY_RUN_LIMIT, R291. -/
  | greedyRunLimit (core : Nat)
  /-- INSTRUCTION_FORWARD, R43. -/
  | instructionForward (who : Sid)
  /-- FORWARD_CREDIT, R44. -/
  | forwardCredit (who : Sid)
  /-- DISSOLVING_MARKER, R46. -/
  | dissolvingMarker (who : Sid)
  /-- SFU_REQUEST_COMPLETE, R68. -/
  | sfuRequestComplete (core : Nat)
  /-- MATRIX_RECORD_START, R149. -/
  | matrixRecordStart (core : Nat)
  /-- MATRIX_RECORD_COMPLETE, R150. -/
  | matrixRecordComplete (core : Nat)
  /-- MATRIX_PUSH_STORE, R153. -/
  | matrixPushStore (who : Sid) (data : Rec512)
  /-- HELD_COUNT_WRITE, R75. -/
  | heldCountWrite (who : Sid) (slot : Nat) (val : Word)
  /-- TLB_INVALIDATE_ALL, R301. -/
  | tlbInvalidateAll (who : Sid)
  /-- TLB_INVALIDATE_PAGE, R301. -/
  | tlbInvalidatePage (who : Sid) (page : Word)
  /-- QBIND_WRITE, R220. -/
  | qbindWrite (who : Sid) (q : QReg) (val : Word)
  /-- REGISTER_WRITE, R5. -/
  | registerWrite (who : Sid) (csr : BitVec 14) (val : Word)
  /-- CE_CHUNK_PERFORMED, R348. -/
  | ceChunkPerformed (core : Nat)
  /-- CE_COMPLETION_WRITE, R348. -/
  | ceCompletionWrite (core : Nat)
  /-- PAGE_WALK, R299. -/
  | pageWalk (who : Sid) (va : Word)
  /-- BURST_SEND, R183. -/
  | burstSend (cluster : Nat)
  /-- SLICE_WRITE, R185. -/
  | sliceWrite (n : Nat)
  /-- SLICE_READ, R185. -/
  | sliceRead (core : Nat) (pa : Nat)
  /-- MEMORY_REPLY, R22. -/
  | memoryReply (n : Nat)
  /-- STORE_ACKNOWLEDGEMENT, R187. -/
  | storeAcknowledgement (n : Nat)
  /-- LM_PORT_ACCESS, R177. -/
  | lmPortAccess (n : Nat)
  /-- SCOPE_MISS_MESSAGE, R196. -/
  | scopeMissMessage (n : Nat)
  /-- MISS_ENTRY_TIMEOUT, R196. -/
  | missEntryTimeout (core n : Nat)
  /-- WIDENING_NOTICE, R196. -/
  | wideningNotice (n : Nat)
  /-- BARRIER_CONFIG, R207. -/
  | barrierConfig (n : Nat)
  /-- BARRIER_ARRIVAL, R208. -/
  | barrierArrival (n : Nat)
  /-- BARRIER_RELEASE, R209. -/
  | barrierRelease (n : Nat)
  /-- WIRE_PHASE_RELEASE, R211. -/
  | wirePhaseRelease (who : Sid)
  /-- CHANNEL_MESSAGE, R215. -/
  | channelMessage (n : Nat)
  /-- SEND_ACKNOWLEDGEMENT, R215. -/
  | sendAcknowledgement (n : Nat)
  /-- CHANNEL_SLICE_MOVE, R217. -/
  | channelSliceMove (who : Sid) (chan : Nat)
  /-- QUEUE_REFILL, R220. -/
  | queueRefill (core : Nat) (q : QReg)
  /-- REFILL_ARRIVAL, R220. -/
  | refillArrival (core : Nat) (q : QReg)
  /-- QUEUE_DRAIN, R220. -/
  | queueDrain (core : Nat) (q : QReg)
  /-- HELD_ENTRY_REENQUEUE, R202. -/
  | heldEntryReenqueue (n : Nat)
  /-- ROUND_BARRIER_COMPLETE, R237. -/
  | roundBarrierComplete (who : Sid)
  /-- REGION_RESOLUTION, R239. -/
  | regionResolution (who : Sid)
  /-- EXCHANGE_START, R270. -/
  | exchangeStart (lnum : Nat)
  /-- XFER_RECORD_PERFORMED, R267. -/
  | xferRecordPerformed (lnum r : Nat)
  /-- SUPERSTEP_RELEASE, R270. -/
  | superstepRelease (lnum : Nat)
  /-- LAUNCH_RECORD_ADMISSION, R275. -/
  | launchRecordAdmission (n : Nat)
  /-- DEPENDENCE_SATISFIED, R278. -/
  | dependenceSatisfied (lnum i : Nat)
  /-- SHAPE_DELIVERY, R287. -/
  | shapeDelivery (lnum : Nat)
  /-- PIECE_SQUASH, R287. -/
  | pieceSquash (lnum idx : Nat)
  /-- PROVISIONAL_STALL_TIMEOUT, R286. -/
  | provisionalStallTimeout (who : Sid)
  /-- LAUNCH_COMPLETION, R279. -/
  | launchCompletion (lnum : Nat)
  /-- CLUSTER_FUSE, R181. -/
  | clusterFuse (cluster : Nat)
  /-- CLUSTER_UNFUSE, R181. -/
  | clusterUnfuse (cluster : Nat)
  /-- IDLE_TIMEOUT, R304. -/
  | idleTimeout (vdev : Nat)
  /-- WAKE_WORD_WRITE, R307. -/
  | wakeWordWrite (vdev : Nat)
  /-- DEVICE_WAKE, R307. -/
  | deviceWake (vdev : Nat)
  /-- CLUSTER_RETIREMENT, R309. -/
  | clusterRetirement (cluster : Nat)
  /-- PAGE_RETIREMENT, R309. -/
  | pageRetirement (pa : Nat)
  /-- HOST_LAUNCH, R314. -/
  | hostLaunch (h : HostHead) (addr : Word)
  /-- HOST_COPY, R314. -/
  | hostCopy (h : HostHead) (src dst len : Word) (flags : Word) (done : Word)
  /-- COPY_COMPLETION, R315. -/
  | copyCompletion (n : Nat)
  /-- HOST_EVENT, R314. -/
  | hostEvent (h : HostHead) (lnum rank : Nat) (payload : Word)
  /-- HOST_SHAPE, R314. -/
  | hostShape (h : HostHead) (addr n : Word)
  /-- HOST_WAKE, R314. -/
  | hostWake (h : HostHead)
  /-- CREATE, R319. -/
  | create (h : HostHead) (ops : List Word)
  /-- DESTROY, R319. -/
  | destroy (h : HostHead) (vdev : Word)
  /-- MEMORY, R319. -/
  | memory (h : HostHead) (ops : List Word)
  /-- WAYS, R303. -/
  | ways (h : HostHead) (vdev mask : Word)
  /-- QUEUE, R319. -/
  | queue (h : HostHead) (ops : List Word)
  /-- ROOT, R319. -/
  | root (h : HostHead) (root : Word)
  /-- IDLET, R319. -/
  | idlet (h : HostHead) (time : Word)
  /-- RTREC, R319. -/
  | rtrec (h : HostHead) (addr : Word)
  /-- QUANTUM, R319. -/
  | quantum (h : HostHead) (time : Word)
  /-- PERSIST, R319. -/
  | persist (h : HostHead) (base : Word)
  /-- BOX, R319. -/
  | box (h : HostHead)
  /-- WORDS, R319. -/
  | words (h : HostHead)
  /-- FEATURES, R320. -/
  | features (h : HostHead) (lo hi : Word)
  /-- DOMAIN, R321. -/
  | domain (h : HostHead) (num table : Word)
  /-- GROUP, R322. -/
  | group (h : HostHead) (group mask ty op : Word)
  /-- ATTEST, R325. -/
  | attest (h : HostHead) (nonce report : Word)
  /-- FREEZE, R328. -/
  | freeze (h : HostHead)
  /-- RESTORE, R310. -/
  | restore (h : HostHead) (image : Word)
  /-- TVEC, R319. -/
  | tvec (h : HostHead) (addr : Word)
  /-- EVENT_WORD_WRITE, R318. -/
  | eventWordWrite (vdev : Nat) (val : Word)
  /-- COLLECTIVE_COMBINE, R322. -/
  | collectiveCombine (group : Nat)
  /-- COLLECTIVE_TIMEOUT, R322. -/
  | collectiveTimeout (group : Nat)
  /-- REMOTE_ACCESS, R199. -/
  | remoteAccess (src : Nat) (who : Sid) (lnum : Nat) (m : PeerMsg)
  /-- REMOTE_ACCESS_TIMEOUT, R321. -/
  | remoteAccessTimeout (who : Sid)
  /-- PORT_LINK_DOWN, R311. -/
  | portLinkDown (port : Nat)
  /-- COLD_RESET, R323. -/
  | coldReset
  /-- RECOVERY_IMAGE, R324. -/
  | recoveryImage (image : List Byte)
  /-- WATCHDOG_RESET, R327. -/
  | watchdogReset
  /-- FREEZE_PIN, R328. -/
  | freezePin
  /-- DEBUG_PORT_ACCESS, R328. -/
  | debugPortAccess (view : DebugView)
  /-- POWER_AT_RATING, R26. -/
  | powerAtRating (mw : Nat)
  /-- CLOCK_RECOVERY_TIMER, R26. -/
  | clockRecoveryTimer
  /-- SUPPLY_OR_JUNCTION_LIMIT, R26. -/
  | supplyOrJunctionLimit (kind : Nat)
  /-- PORT_LINK_UP, R311. -/
  | portLinkUp (port : Nat)
  /-- RESERVED_OP_COMMAND, R313. -/
  | reservedOpCommand (h : HostHead) (c : OddCommand)
  /-- BARRIER_ACKNOWLEDGEMENT, R205. -/
  | barrierAcknowledgement (n : Nat)
  deriving DecidableEq, Repr

end Sys2Proof
end

