-- ==== Sys2Proof/Machine/State.lean ====
section
/-! DEFINITION. The state of one NVX-T3M module as plain data, and its value right after module cold reset. Sparse parts
are association lists over Nat keys with the reset value of an unlisted key. -/

namespace Sys2Proof.Machine

/-- Bytes by address in rising order; an unlisted byte reads 0 (entry 4). -/
abbrev Memory := List Host.Cell

/-- Privilege modes (R56). -/
inductive Mode where
  | U | S | M
  deriving DecidableEq, Repr

/-- The registers that a trap into S, or into M, writes (R59, R61). `status` holds IE in [0], PIE in [1] and the
previous mode from [2] up (R62); PPEND is computed from the pending request. -/
structure Bank where
  tvec    : Word
  epc     : Word
  cause   : Word
  tval    : Word
  status  : Word
  scratch : Word
  deriving DecidableEq, Repr

/-- A loop frame (R381). -/
structure Frame where
  act    : Bool
  rep    : Bool
  creg   : BitVec 5
  stride : BitVec 4
  pass   : BitVec 5
  start  : Word
  stop   : Word
  deriving DecidableEq, Repr

/-- The CSRs that every strand holds, but for the trap banks (R59). -/
structure Csrs where
  fpc      : Word
  fflags   : Word
  bto      : Word
  issuepol : Word
  qbind    : Vector Word 8
  rgs      : Word
  rgspc    : Word
  rngkeylo : Word
  rngkeyhi : Word
  rngmode  : Word
  rngtab   : Word
  instret  : Word
  pcoord   : Word
  member   : Word
  stage    : Word
  launch   : Word
  shapep   : Word
  deriving DecidableEq, Repr

/-- A line of a region's read set: its address, the bytes a heavy region kept, whether its claim was placed and
whether a later write has marked it (R233, R242, R249). -/
structure RLine where
  line    : Nat
  seen    : V256
  claimed : Bool
  marked  : Bool
  deriving DecidableEq, Repr

/-- A strand's part in the proposal regions of its group (R225 to R247). `next` counts the rounds it has arrived for
and `barrier` those whose round barrier it has seen complete; `opened` says that its region of the round is open. -/
structure Region where
  grp     : Nat
  next    : Nat
  barrier : Nat
  opened  : Bool
  atEnd   : Bool
  alpha   : BitVec 32
  dest    : XReg
  ckX     : Vector Word 32
  ckV     : Vector V256 32
  reads   : List RLine
  wlines  : List (Nat × Bool)          -- write set: line, claim placed
  writes  : List Host.Cell
  event   : Option Word                -- what its buffered store leaves in the device's event word (R233, R318)
  back    : Bool                       -- resumed while suspended, and not yet at its `prop.end` again (R247)
  deriving DecidableEq, Repr

/-- A barrier token (R208), and the core where its strand arrived: the release of its phase reaches it there. `sent`: the
home has released the phase. -/
structure Token where
  id       : Word
  phase    : Bool
  released : Bool
  core     : Nat
  sent     : Bool
  deriving DecidableEq, Repr

/-- What a watched or tagged place is: a 32-byte line of memory, or an LM word (R195, R223). -/
inductive Target where
  | line (pa : Nat)
  | lm   (core off : Nat)
  deriving DecidableEq, Repr

/-- A release tag (R195). -/
structure Tag where
  module : Nat
  who    : Sid
  lnum   : Nat
  scope  : BitVec 3
  deriving DecidableEq, Repr

/-- A strand's entry in a watch table (R223, R224): the word, the condition and its operand, whether some write has
satisfied it, and the tag that stood at the word then (R477). -/
structure Watch where
  place : Target
  word  : Nat
  cond  : BitVec 3
  val   : Word
  sat   : Bool
  tag   : Option Tag
  deriving DecidableEq, Repr

/-- An entry that a slice has taken for a strand's `sqdeq` (R202): its descriptor, the bytes from that to the end of its
page, its place in the ring, and the entry. -/
structure SqEntry where
  desc : Nat
  room : Nat
  ring : Nat
  val  : Word
  deriving DecidableEq, Repr

/-- What ends a wait, where nothing else in the state tells (R53): a barrier token's phase; a wire phase, or the wires that
an arrival of a kind needs; a run of `vxchg`; a send's acknowledgement; a channel's message; a queue register's entry, or
room there; a slice queue's entry; a superstep; the copy engine; room for a round, the turn of a serial region, a region's
resolution. -/
inductive HeldFor where
  | other | token | wire | run | send | engine | fifth | serial | region
  | claim  (kind : Nat)
  | recv   (ch : Nat)
  | qRead  (q : Nat)
  | qWrite (q : Nat)
  | deq    (desc : Nat)
  | step   (n : Nat)
  deriving DecidableEq, Repr

/-- A strand's wait and what a blocked instruction has left behind (R7, R53, R202). -/
structure Sync where
  held    : Bool                       -- Wait() at the instruction at pc
  bounded : Bool                       -- a wait of R53
  sval    : Word                       -- what its time-out reports
  what    : HeldFor
  began   : Bool                       -- its first part is done
  waited  : Nat                        -- resident cycles held here
  kept    : List (Mode × Word × Nat)   -- the counts that pre-emptions keep, by mode, with the instruction (R54)
  insn    : List Parcel                -- the parcels of the instruction that has issued and holds
  marks   : List (Mode × Word)         -- interrupted marks, at most one for a mode
  token   : Option Token
  sendOut : Bool                       -- a send not yet acknowledged
  sqHeld  : List SqEntry               -- entries taken by slices for its sqdeq
  reply   : Option Word                -- what a port or slice has served the held instruction
  watch   : Option Watch
  wire    : Nat                        -- wire arrival: 0 none, 1 row, 2 column, 3 both
  wireRel : Bool
  xIn     : Option (Nat × V256)        -- vxchg arrival: run and operand
  xOut    : Option V256                -- what the completed exchange delivered
  joinN   : Option (Word × Word)       -- troupe.join arrival: its address and size; `reply` holds its outcome
  halted  : Bool                       -- `halt` retired, no trap taken since (R369)
  deriving DecidableEq, Repr

/-- A pending pre-emption request (R72). -/
structure Preempt where
  urgent : Bool
  age    : Nat
  ready  : Bool                        -- a superstep boundary has been reached since (R73)
  deriving DecidableEq, Repr

/-- How an instruction left a strand: the PC that it has set itself, and the next PC (R45). -/
structure Outcome where
  set  : Option Word
  next : Word
  deriving DecidableEq, Repr

/-- An instruction, with its outcome in the leader once it has retired there, or the dissolving marker, that a troupe leader
has sent over the strings (R43, R45, R46). -/
inductive Fwd where
  | insn (pc : Word) (parcels : List Parcel) (out : Option Outcome)
  | dissolve (pc : Word)
  deriving DecidableEq, Repr

/-- Troupe membership (R41 to R46). A follower's credits are what the leader counts of its free entries. -/
structure Troupe where
  size   : Nat
  lead   : Nat                         -- slot key of the leader
  onWire : List Fwd
  buf    : List Fwd
  credit : Nat
  owed   : Nat
  past   : Option (Word × Outcome)     -- what a follower has retired and its leader has not: where it stood, its outcome
  deriving DecidableEq, Repr

/-- What the launch engine knows of the strand in a slot (R31, R36, R225, R286). -/
structure Ident where
  vdev   : Nat
  lnum   : Nat
  stage  : Nat
  piece  : Nat
  member : Nat
  width  : Nat
  rank   : Nat
  lmBase : Nat
  lmSize : Nat
  ssArr  : Nat                         -- supersteps arrived for (R262)
  born   : Nat                         -- order in which strands became resident
  deriving DecidableEq, Repr

/-- A channel message that holds a slot of an inbound queue; `slice`: it stands at the receiving queue of a slice and not
yet in the core's channel store (R217). -/
structure Inbound where
  chan  : Nat
  val   : V256
  slice : Bool
  deriving DecidableEq, Repr

/-- A strand of a launch by its stage and rank (R28). -/
structure Rank where
  lnum  : Nat
  stage : Nat
  rank  : Nat
  deriving DecidableEq, Repr

/-- A strand slot (R12, R55). -/
structure Strand where
  live    : Bool
  x       : Vector Word 32
  v       : Vector V256 32
  b       : Vector V256 8
  pc      : Word
  mode    : Mode
  csr     : Csrs
  sBank   : Bank
  mBank   : Bank
  frameU  : Frame
  frameS  : Frame
  frameM  : Frame
  region  : Region
  sync    : Sync
  causes  : List (Nat × Word)          -- asynchronous causes raised, oldest first (R64)
  sPend   : List Word                  -- values of cause 5 that the firmware leaves pending in S (R62)
  preq    : Option Preempt
  troupe  : Troupe
  ident   : Ident
  inbound : List Inbound               -- channel messages in the order of their slots (R216)
  deriving DecidableEq, Repr

/-- An L1 line: line number, data, dirty mask, hint mark (R180, R182), and the strands whose stores are dirty there: an error
of the write-back reaches them, wherever they then stand (R67). -/
structure Line where
  line  : Nat
  data  : V256
  dirty : BitVec 32
  mark  : BitVec 2
  by_   : List Rank
  deriving DecidableEq, Repr

/-- A line of the write-combining buffer, in order of entry (R186): the slot from which it was stored, and the strand. -/
structure WLine where
  line : Nat
  data : V256
  mask : BitVec 32
  who  : Nat
  by_  : Rank
  deriving DecidableEq, Repr

/-- A TLB entry: device, page base, leaf level and leaf entry (R300). -/
structure Tlb where
  vdev  : Nat
  base  : Nat
  level : Nat
  leaf  : Word
  deriving DecidableEq, Repr

/-- A named barrier slot (R206). -/
structure Barrier where
  n     : Nat
  nx    : Nat
  arr   : Nat
  ph    : Bool
  lnum  : Nat
  cores : List Nat
  deriving DecidableEq, Repr

/-- A register as a matrix record names it (R150). -/
inductive MReg where
  | tile (t : TReg)
  | acc  (a : AReg)
  | book (k : KReg)
  | xreg (slot : Nat) (r : BitVec 5)
  deriving DecidableEq, Repr

/-- A queued record, and whether a push put it there, so that its start checks it (R153). -/
structure MRec where
  bits   : Rec512
  pushed : Bool
  deriving DecidableEq, Repr

/-- A write that a record makes at completion (R150). -/
inductive MWrite where
  | tile (t : TReg) (img : Image)
  | acc  (a : AReg) (e o : Image)
  | book (k : KReg) (v : V256)
  | xreg (r : BitVec 5) (v : Word)
  deriving DecidableEq, Repr

/-- The executing record: what it will write and the flags it will raise; `bad` is the SVAL of a failed check. -/
structure MRun where
  cmd    : MRec
  writes : List MWrite
  flags  : Word
  bad    : Option Word
  deriving DecidableEq, Repr

/-- The matrix engine (R149, R75): queue, executing record, held records by slot. -/
structure Matrix where
  queue : List MRec
  run   : Option MRun
  held  : Vector (List Rec512) 4
  deriving DecidableEq, Repr

/-- The copy engine (R345, R349). `flt`, `stop` and `prog` are a slot's FAULT, STOPPED and last PROG; `owner` and
`stat` are register 10; `priv` says that the transfer was armed outside U. -/
structure Copier where
  active : Vector Word 10
  shadow : Vector Word 10
  stat   : Nat
  owner  : Nat
  priv   : Bool
  flt    : Vector Bool 4
  stop   : Vector Bool 4
  prog   : Vector Nat 4
  due    : Bool                        -- the payload is done and the completion word still to write
  exch   : List Nat                    -- the launches whose exchanges use the engine (R348)
  pre    : Vector Nat 4                -- what the quiesce took from a slot: 1 a set being set up, 2 a running transfer (R74)
  deriving DecidableEq, Repr

/-- An entry of the miss register (R196). -/
structure Miss where
  place : Target
  who   : Sid
  tag   : Tag
  need  : BitVec 3
  age   : Nat
  deriving DecidableEq, Repr

/-- A request of `ldf` or `ldfe` waiting at an LM port (R179). -/
structure PortReq where
  off   : Nat
  who   : Sid
  empty : Bool
  deriving DecidableEq, Repr

/-- A core (R12). -/
structure Core where
  cycle   : Word
  town    : Word
  parked  : List (Nat × Rank)          -- whose the parked tiles (0 to 7) and accumulators (8 to 11) are (R78)
  tcfg    : Vector (BitVec 17) 8
  tiles   : Vector Image 8
  accE    : Vector Image 4
  accO    : Vector Image 4
  books   : Vector V256 4
  q       : Vector (List Word) 8
  qBusy   : Vector Bool 8              -- a refill or a drain is outstanding (R220)
  qWait   : Vector (List (Nat × Bool)) 8  -- slots blocked on a queue in order; true for a `qw` (R218)
  lm      : Memory
  empty   : List Nat                   -- LM words whose full/empty bit is empty (R178)
  lmTags  : List (Nat × Tag)
  port    : List PortReq
  l1      : List Line
  icache  : List (Nat × V256)          -- instruction-cache lines, most recent first
  rbuf    : Option (Nat × List (Word × List Parcel))  -- repetition buffer: whose body it holds, and the body (R12, R403)
  wbuf    : List WLine
  tlb     : List Tlb
  matrix  : Matrix
  ce      : Copier
  sfu     : List Nat                   -- slots of the queued requests (R68)
  bars    : List (Nat × Barrier)
  miss    : List Miss
  order   : List Nat                   -- issue order of the slots (R291)
  recent  : Option Nat
  run     : Nat
  log     : List Word                  -- error log (R66)
  deriving DecidableEq, Repr

/-- Messages between cores, slices and engines that are sent and not yet performed or delivered. A write is a strand's
`own` (a store to a page of type D or S), or one of the bytes that the core's strands share (what leaves L1 or the combining
buffer, misses with `na`, or has release order); `by_` names the strands that stored them. A barrier
message has the launch of its strand and when that became resident, a widening notice the tag that it widens. -/
inductive Msg where
  | write     (cells : List Host.Cell) (tag : Option Tag) (own : Bool) (by_ : List Rank)
  | lmWrite   (core : Nat) (cells : List Host.Cell) (bits : List (Nat × Bool)) (tag : Option Tag)
  | read      (line : Nat) (data : Option V256) (barS : List Sid) (barC : List Nat)
  | scopeMiss (m : Miss)
  | widen     (place : Target) (tag : Tag) (scope : BitVec 3)
  | barArr    (home slot lnum born : Nat)
  | barRel    (home slot : Nat) (phase : Bool) (core : Nat)
  | barCfg    (home slot cnt lnum born : Nat)
  | chan      (frm dest : Rank) (ch : Nat) (val : V256)
  | chanWait  (frm dest : Rank) (ch : Nat) (val : V256)   -- arrived, no slot free
  | refill    (q : Nat) (vals : List Word)
  | requeue   (vdev : Nat) (desc room : Nat) (val : Word)
  | remote    (pra : Nat)              -- an access to another module, not yet answered (R199, R321)
  deriving DecidableEq, Repr

/-- A message in flight. `done`: performed, its acknowledgement still to come (R187, R205). -/
structure Flight where
  src  : Sid
  msg  : Msg
  done : Bool
  deriving DecidableEq, Repr

/-- A parked dequeue or refill at a slice queue, in order of arrival (R222). -/
structure Parked where
  desc : Nat
  who  : Sid
  q    : Option Nat
  tag  : Option Tag                    -- what a dequeue with a release leaves
  room : Nat                           -- bytes from the descriptor to the end of its page
  by_  : Rank                          -- its strand
  deriving DecidableEq, Repr

/-- A byte that a provisional piece has written inside a retractable allocation (R286). -/
structure ProvByte where
  lnum  : Nat
  piece : Nat
  pa    : Nat
  deriving DecidableEq, Repr

/-- A claim of a piece on the wire set of some rows of a field (R210): plane and pending kind of each wire. -/
structure WireClaim where
  field  : Nat                         -- die × 8 + field
  lnum   : Nat
  stage  : Nat
  piece  : Nat
  rows   : List Nat
  plane  : List (Nat × Bool)           -- wire number: row r is r, column c is 16 + c
  deriving DecidableEq, Repr

/-- A grid word (R273). -/
structure Grid where
  gx : Nat
  gy : Nat
  gz : Nat
  wc : Nat
  deriving DecidableEq, Repr

/-- A dependence word (R273) and whether it has been satisfied (R278). -/
structure Dep where
  count  : Bool
  addr   : Word
  target : Nat
  pa     : Nat
  sat    : Bool
  deriving DecidableEq, Repr

/-- A retractable allocation (R273, R288): bytes per piece, the reserve at partition-relative address `pra`, and the
bytes mapped, a multiple of 64 KiB. -/
structure Alloc where
  base : Word
  per  : Nat
  resv : Nat
  en   : Bool
  pra  : Nat
  size : Nat
  deriving DecidableEq, Repr

/-- A transfer record (R265). -/
structure Xfer where
  kind  : Nat
  sstg  : Nat
  dstg  : Nat
  nw    : Nat
  srank : Nat
  drank : Nat
  soff  : Nat
  doff  : Nat
  per   : Nat
  ofs   : Nat
  gaddr : Word
  deriving DecidableEq, Repr

/-- A launch record's fields (R273). -/
structure LRec where
  nst    : Nat
  step   : Bool
  cores  : Bool
  rscope : Nat
  fuse   : Bool
  prio   : Nat
  dclass : Nat
  shp    : Bool
  kdesc  : Word
  keylo  : Word
  keyhi  : Word
  fpc    : Word
  pred   : Nat
  margin : Nat
  pol    : Nat
  g      : Nat
  shapew : Word
  done   : Word
  srec   : Word
  grids  : List Grid
  deriving DecidableEq, Repr

/-- A kernel descriptor's fields (R274). -/
structure KDesc where
  entries : List Word
  lmsz    : Nat
  srsz    : Nat
  priv    : Bool
  lmimg   : Word
  shimg   : Word
  chans   : List (Nat × Bool)          -- slots, 32-byte payload
  xfer    : List Xfer
  raw     : List Byte                  -- the bytes of the descriptor, of `.xfer` and of the global image (R136)
  xferRaw : List Byte
  image   : List Byte
  deriving DecidableEq, Repr

/-- Where a piece is (R33, R36, R37, R287): `placed` when its index is pulled and its members are still to start. -/
inductive PieceSt where
  | placed | running | saved | ended | squashed
  deriving DecidableEq, Repr

/-- A piece whose index has been handed out: the slots of its running members, in the order of the members until one has
ended, the LM bases they were given, and the members that have ended. -/
structure Piece where
  stage : Nat
  idx   : Nat
  st    : PieceSt
  at_   : List Sid
  lm    : List Nat
  gone  : List Nat
  deriving DecidableEq, Repr

/-- A carousel (R32): the indices still on it, as half-open runs in ascending order. -/
structure Carousel where
  stage : Nat
  die   : Nat
  runs  : List (Nat × Nat)
  deriving DecidableEq, Repr

/-- Where the host's command that submitted a launch came from. -/
structure Origin where
  queue  : Nat
  tag    : Nat
  serial : Nat                         -- the command's number in the order of arrival (R315)
  deriving DecidableEq, Repr

/-- A record at which an engine has stopped, with the trap that its strand takes; `told` once it has (R268). -/
structure Stopped where
  rec_  : Nat
  cause : Nat
  sval  : Word
  told  : Bool
  deriving DecidableEq, Repr

/-- The exchange of a superstep (R267, R268): the records still to perform and those at which an engine has stopped. -/
structure Exchange where
  todo    : List Nat
  stopped : List Stopped
  deriving DecidableEq, Repr

/-- A launch (R27 to R40, R273 to R288). -/
structure Launch where
  num       : Nat
  vdev      : Nat
  lrec      : LRec
  kd        : KDesc
  deps      : List Dep
  allocs    : List Alloc
  origin    : Option Origin
  runAt     : Option Nat               -- order in which it became runnable
  age       : Nat
  carousels : List Carousel
  pieces    : List Piece
  p         : Nat                      -- pieces of a shape launch (R285)
  shapePa   : Nat
  seen      : Option Nat               -- N at the write that delivered it (R284)
  delivered : Option Nat
  superstep : Nat
  exch      : Option Exchange
  status    : Nat
  val       : Word
  open_     : Bool                     -- co-resident: every piece resident, issue allowed (R38)
  aborted   : Bool                     -- the firmware or the MP has ended it (R62, R309)
  deriving DecidableEq, Repr

/-- A launch record on its way to the launch engine (R277, R315): the submitting strand or the host's command. -/
structure Submit where
  who    : Option Sid
  origin : Option Origin
  vdev   : Nat
  addr   : Word
  bytes  : List Byte
  deriving DecidableEq, Repr

/-- What the firmware keeps with a strand that it saves, beside the strand's own state (R72, R78): its LM, from the base of
its reservation, and the empty words there; the tiles and accumulators that it owned, with their images; its held
records; its copy-engine set with what the quiesce took and whether it was armed outside U, and its bits of `ce.stat`;
the code books and queue registers when no strand of its launch stayed on the core (R55). -/
structure Stash where
  lm     : Memory
  empty  : List Nat
  owned  : List Nat
  tcfg   : Vector (BitVec 17) 8
  tiles  : Vector Image 8
  accE   : Vector Image 4
  accO   : Vector Image 4
  held   : List Rec512
  copy   : Nat
  set    : Vector Word 10
  priv   : Bool
  ceBits : Bool × Bool × Nat
  books  : Option (Vector V256 4 × Vector (List Word) 8)
  deriving DecidableEq, Repr

/-- A saved strand (R39, R55, R72), the slot that it left, and what the firmware saved beside it; a runtime saves that by
its own instructions. The save area of R72 has no place in memory: the spec gives no address, and what stands in it stands in
`State.saved` (entry 109). -/
structure Saved where
  strand : Strand
  from_  : Sid
  kept   : Option Stash
  deriving DecidableEq, Repr

/-- Run state of a virtual device (R304). -/
inductive Power where
  | running | idle | boxed
  deriving DecidableEq, Repr

/-- A virtual device (R296). -/
structure VDev where
  num     : Nat
  level   : Nat
  index   : Nat
  nohole  : Bool
  hbase   : Nat
  hbound  : Nat
  lbase   : Nat
  lbound  : Nat
  root    : Word
  ways    : Word
  wclass  : Nat
  wbound  : Nat
  wcap    : Nat
  idlet   : Word
  rtrec   : Word
  tvec    : Word
  quantum : Word
  persist : List Word
  kept    : List Alloc                 -- allocations that outlive their launch (R288)
  power   : Power
  runtime : Nat                        -- launch number of its runtime
  waking  : Bool                       -- woken and its held commands not yet delivered (R307)
  evPend  : List (Rank × Word)         -- host interrupts that the E-die holds (R64)
  boxing  : Bool                       -- boxing has done its steps 1 and 2 and not yet gated the node (R306, R308)
  wakeSeq : Nat                        -- its place in the order of wake arrivals (R305)
  stowed  : Memory                     -- a boxed W2 device's HBM4E contents, in the second tier (R305, R306)
  moving  : Bool                       -- asked off a node with a hole: boxed once its strands have left (R309)
  deriving DecidableEq, Repr

/-- A node of the partition tree (R295): level, index, device of an assigned node. Only split-off leaves are listed. -/
structure Node where
  level : Nat
  index : Nat
  vdev  : Option Nat
  deriving DecidableEq, Repr

/-- A predictor entry (R285): device, kernel identity, entry, sizes oldest first. -/
structure Pred where
  vdev  : Nat
  kdesc : Word
  entry : Nat
  sizes : List Nat
  deriving DecidableEq, Repr

/-- A bound work queue (R312, R282). -/
structure WorkQueue where
  vdev   : Nat
  dclass : Nat
  width  : Nat
  count  : Nat
  ring   : Word
  events : Bool
  next   : Nat                         -- completions written to its ring (R316)
  deriving DecidableEq, Repr

/-- A completion (R316). -/
structure Completion where
  queue  : Nat
  tag    : Nat
  status : Nat
  lnum   : Nat
  val    : Word
  sig    : V256
  deriving DecidableEq, Repr

/-- A COPY that runs (R314, R315). -/
structure HCopy where
  head  : HostHead
  vdev  : Nat
  src   : Word
  dst   : Word
  len   : Nat
  flags : Word
  done  : Word
  part  : Option (List Byte)           -- its contribution to an all-reduce, once made (R322)
  serial : Nat
  deriving DecidableEq, Repr

/-- A collective group (R322). -/
structure Group where
  num   : Nat
  vdev  : Nat
  mask  : Word
  ty    : Nat
  op    : Nat
  deriving DecidableEq, Repr

/-- A host command that has arrived and not yet started: behind earlier commands (R315), or for a boxed or waking device
(R307). `words` holds OP, the CONFIG subcode, and the operands. -/
structure Waiting where
  head  : HostHead
  vdev  : Nat
  words : List Word
  preds : List Nat                     -- serials of the earlier commands that it waits for
  serial : Nat
  begun  : Bool                        -- it has started, and waits for a place that it writes
  deriving DecidableEq, Repr

/-- A record of the layout journal (R326). -/
structure Journal where
  seq    : Nat
  nodes  : List Node                   -- the changed nodes with their new assignment
  devs   : List VDev                   -- the devices that it sets
  gone   : List Nat                    -- the devices that it removes
  digest : V256
  done   : Bool
  head   : HostHead
  val    : Word
  serial : Nat
  deriving DecidableEq, Repr

/-- The hosts' side of the module (R312 to R322). -/
structure HostSide where
  queues : List (Nat × WorkQueue)
  comps  : List Completion             -- in the order written to the rings
  unsent : List Completion             -- made while no port's link was up (R311)
  copies : List HCopy
  events : List (Nat × Word)           -- what stands in the event words (R318)
  mem    : Memory                      -- host memory that commands name
  groups : List Group
  peers  : List (Nat × Word)
  links  : Vector Bool 16
  live   : List (Nat × Nat)            -- queue and serial of each command not yet completed
  waiting : List Waiting
  arrived : Nat                        -- commands that have arrived: the serial of the last
  serving : Nat                        -- serial of the command that is being served
  deriving DecidableEq, Repr

/-- The management processor and the power stage (R26, R320 to R328). -/
structure Mp where
  booted   : Bool
  recovery : Bool
  store    : List Byte                 -- firmware image in the non-volatile store
  root     : V256                      -- the root of the signatures, in fuses, and the seed of their hashes
  seed     : V256
  firmware : List Byte                 -- the image that runs, with the cores' M firmware
  version  : Nat
  features : Option (BitVec 128)       -- accepted by FEATURES
  module   : Nat
  leaf     : Nat
  seq      : Nat
  journal  : List Journal
  frozen   : Bool
  mhz      : Nat
  created  : Bool
  debug    : List Word                 -- what the 1149.1 port last read
  deriving DecidableEq, Repr

/-- What moves in a step (entry 2): a core; an event; software gives up a saved strand's slot (R39, R55, R72), ends a
launch, or delivers an error to S (R62); a device's runtime that has been restarted rewrites ROOT (R304; entry 121). -/
inductive Act where
  | core  (n : Nat)
  | event (i : Instr)
  | leave (who : Sid)
  | abort (lnum status : Nat)
  | redeliver (who : Sid)
  | reroot (vdev : Nat) (root : Word)
  deriving DecidableEq, Repr

/-- One turn: who moves, and the choices that the spec leaves to the hardware (entries 2, 5, 7). `post`: messages stay
in flight; `join`: a load joins a pending read (R184); `way`: index of a victim or of a choice; `dt`: core cycles that
pass; `stall`: slots whose scoreboard holds them; `err`: the physical line that its home slice finds uncorrectable in
this turn (R67); `icErr`: the line whose copy in the core's instruction cache is found uncorrectable (R66); `look`: the
waiting host command, by its serial, that the E-die looks at again. -/
structure Turn where
  act   : Act
  post  : Bool
  join  : Bool
  way   : Nat
  dt    : Nat
  stall : List Nat
  err   : Option Nat
  icErr : Option Nat
  look  : Option Nat
  deriving DecidableEq, Repr

/-- The instruction being executed, whose PCF is the strand's pc: its length in parcels and its first four parcels
(R61, R63), and the next PC when it sets one. -/
structure Latch where
  len     : Nat
  first   : Word
  target  : Option Word                -- PC that the instruction has set
  deriving DecidableEq, Repr

/-- The module. -/
structure State where
  sched    : List Turn
  turn     : Turn
  me       : Sid                       -- the executing strand
  latch    : Latch
  fresh    : Nat
  strands  : List (Nat × Strand)
  cores    : List (Nat × Core)
  mem      : Memory
  tags     : List (Nat × Tag)
  blocked  : List (Target × Sid × Bool)  -- places a held release write, or a held atomic (true), blocks (R195)
  flights  : List Flight
  parked   : List Parked
  prov     : List ProvByte
  wires    : List WireClaim
  clTlb    : List (Nat × List Tlb)
  fused    : List Nat
  retired  : List Nat
  badPages : List Nat
  tree     : List Node
  vdevs    : List VDev
  submits  : List Submit
  launches : List Launch
  nextNum  : Nat
  preds    : List Pred
  saved    : List Saved
  host     : HostSide
  mp       : Mp
  deriving DecidableEq, Repr

/-- Why a step can stop. -/
inductive Fault where
  /-- `rti` in M with the reserved value 3 in MSTATUS.MPP: raised by `rti`. No write reaches that value (R6, R62), so
  only states that no run reaches raise it; safe (entry 64). -/
  | reservedMode
  deriving DecidableEq, Repr

/-- Why a step can be refused. -/
inductive Refusal where
  /-- The instruction has no meaning yet: raised by `exec`; safe. -/
  | notModelled (mnemonic : String)
  deriving DecidableEq, Repr

/-! The values after module cold reset: the spec's where it gives one, else 0 and nothing held (entry 3). -/

def Bank.reset : Bank := ⟨0, 0, 0, 0, 0, 0⟩
def Frame.reset : Frame := ⟨false, false, 0, 0, 0, 0, 0⟩
def Csrs.reset : Csrs :=
  ⟨0, 0, 0x100000, 0, Vector.replicate 8 0, 0, 0, 0, 0, 0, 0, 0, 0, 0, 0, 0, 0⟩
def Region.reset : Region :=
  ⟨0, 0, 0, false, false, 0, 0, Vector.replicate 32 0, Vector.replicate 32 0, [], [], [], none, false⟩
def Sync.reset : Sync :=
  { held := false, bounded := false, sval := 0, what := .other, began := false, waited := 0, kept := [], insn := [], marks := [],
    token := none, sendOut := false, sqHeld := [], reply := none, watch := none, wire := 0, wireRel := false,
    xIn := none, xOut := none, joinN := none, halted := false }
def Troupe.reset : Troupe := ⟨0, 0, [], [], 4, 0, none⟩
def Ident.reset : Ident := ⟨0, 0, 0, 0, 0, 0, 0, 0, 0, 0, 0⟩

def Strand.reset : Strand where
  live := false
  x := Vector.replicate 32 0
  v := Vector.replicate 32 0
  b := Vector.replicate 8 0
  pc := 0
  mode := .U
  csr := Csrs.reset
  sBank := Bank.reset
  mBank := Bank.reset
  frameU := Frame.reset
  frameS := Frame.reset
  frameM := Frame.reset
  region := Region.reset
  sync := Sync.reset
  causes := []
  sPend := []
  preq := none
  troupe := Troupe.reset
  ident := Ident.reset
  inbound := []

def Barrier.reset : Barrier := ⟨0, 0, 0, false, 0, []⟩
def Matrix.reset : Matrix := ⟨[], none, Vector.replicate 4 []⟩
def Copier.reset : Copier :=
  ⟨Vector.replicate 10 0, Vector.replicate 10 0, 0, 0, false, Vector.replicate 4 false, Vector.replicate 4 false,
    Vector.replicate 4 0, false, [], Vector.replicate 4 0⟩

def Core.reset : Core where
  cycle := 0
  town := 0
  parked := []
  tcfg := Vector.replicate 8 0
  tiles := Vector.replicate 8 0
  accE := Vector.replicate 4 0
  accO := Vector.replicate 4 0
  books := Vector.replicate 4 0
  q := Vector.replicate 8 []
  qBusy := Vector.replicate 8 false
  qWait := Vector.replicate 8 []
  lm := []
  empty := []
  lmTags := []
  port := []
  l1 := []
  icache := []
  rbuf := none
  wbuf := []
  tlb := []
  matrix := Matrix.reset
  ce := Copier.reset
  sfu := []
  bars := []
  miss := []
  order := []
  recent := none
  run := 0
  log := []

def Turn.plain : Turn := ⟨.core 0, false, false, 0, 1, [], none, none, none⟩
def Latch.reset : Latch := ⟨0, 0, none⟩
def HostSide.reset : HostSide := ⟨[], [], [], [], [], [], [], [], Vector.replicate 16 true, [], [], 0, 0⟩
/-- The MP has run its ROM and offers features; none accepted yet, node (13, 0) free, clock 1,300 MHz (entry 61). -/
def Mp.reset : Mp := ⟨true, false, [], 0, 0, [], 0, none, 0, 0, 0, [], false, 1300, false, []⟩

/-- The module right after cold reset: no strand resident, no virtual device, nothing in memory. -/
def State.reset : State where
  sched := []
  turn := Turn.plain
  me := ⟨0, 0⟩
  latch := Latch.reset
  fresh := 0
  strands := []
  cores := []
  mem := []
  tags := []
  blocked := []
  flights := []
  parked := []
  prov := []
  wires := []
  clTlb := []
  fused := []
  retired := []
  badPages := []
  tree := [⟨13, 0, none⟩]
  vdevs := []
  submits := []
  launches := []
  nextNum := 1
  preds := []
  saved := []
  host := HostSide.reset
  mp := Mp.reset

end Sys2Proof.Machine
end

