-- ==== Sys2Proof/Machine/Bits.lean ====
section
/-! DEFINITION. Bit fields, byte order (R2) and keyed lists, as every part of the machine uses them. -/

namespace Sys2Proof.Machine

/-- Bits [lo + n - 1 : lo] of a word, as a number. -/
def field (w : BitVec m) (lo n : Nat) : Nat := (w.extractLsb' lo n).toNat

/-- `w` with bits [lo + n - 1 : lo] replaced by the low bits of `v`. -/
def setField (w : BitVec m) (lo n : Nat) (v : Nat) : BitVec m :=
  let mask : BitVec m := BitVec.ofNat m ((2 ^ n - 1) <<< lo)
  (w &&& ~~~mask) ||| (BitVec.ofNat m (v <<< lo) &&& mask)

def bit (b : Bool) : Nat := if b then 1 else 0
def bitW (b : Bool) : Word := if b then 1 else 0

/-- The low `n` bits, sign-extended to a word (R95). -/
def sext (n : Nat) (v : Nat) : Word := (BitVec.ofNat n v).signExtend 64

/-- `n` bytes of a number, the lowest first (R2). -/
def bytesOfNat : Nat → Nat → List Byte
  | 0, _ => []
  | n + 1, v => BitVec.ofNat 8 v :: bytesOfNat n (v / 256)

/-- The number that bytes hold, the lowest first (R2). -/
def natOfBytes : List Byte → Nat
  | [] => 0
  | b :: bs => b.toNat + 256 * natOfBytes bs

def wordOfBytes (bs : List Byte) : Word := BitVec.ofNat 64 (natOfBytes bs)

/-- Byte `i` of a bit string. -/
def byteAt (v : BitVec m) (i : Nat) : Byte := v.extractLsb' (8 * i) 8

/-- Replace byte `i` of a bit string. -/
def setByte (v : BitVec m) (i : Nat) (b : Byte) : BitVec m := setField v (8 * i) 8 b.toNat

/-- Bytes `i` to `i + n - 1` of a bit string. -/
def bytesAt (v : BitVec m) (i n : Nat) : List Byte := bytesOfNat n (v.toNat >>> (8 * i))

/-- The value of key `k` in an association list, `d` when it is not listed. -/
def getK (d : α) (k : Nat) : List (Nat × α) → α
  | [] => d
  | (j, a) :: rest => if j = k then a else getK d k rest

/-- Set the value of key `k`, keeping keys rising. -/
def setK (k : Nat) (a : α) : List (Nat × α) → List (Nat × α)
  | [] => [(k, a)]
  | (j, b) :: rest =>
    if j = k then (k, a) :: rest else if k < j then (k, a) :: (j, b) :: rest else (j, b) :: setK k a rest

/-- Replace the first element that satisfies `p`. -/
def replaceFirst (p : α → Bool) (f : α → α) : List α → List α
  | [] => []
  | a :: rest => if p a then f a :: rest else a :: replaceFirst p f rest

/-- Replace element `i` of a vector of a power-of-two length. -/
def vget {n k : Nat} (v : Vector α n) (i : BitVec k) (h : 2 ^ k = n) : α := v[i.toNat]'(h ▸ i.isLt)
def vset {n k : Nat} (v : Vector α n) (i : BitVec k) (a : α) (h : 2 ^ k = n) : Vector α n :=
  v.set i.toNat a (h ▸ i.isLt)

/-- Element `i` of a vector, its index taken modulo the length. -/
def vgetN {n : Nat} (v : Vector α (n + 1)) (i : Nat) : α := v[i % (n + 1)]'(Nat.mod_lt i (Nat.succ_pos n))
def vsetN {n : Nat} (v : Vector α (n + 1)) (i : Nat) (a : α) : Vector α (n + 1) :=
  v.set (i % (n + 1)) a (Nat.mod_lt i (Nat.succ_pos n))

/-! Memory as a canonical list of cells: addresses strictly rising, no entry 0, which is what an unlisted address reads as
(entry 4). -/

/-- Every listed address exceeds `lo`, addresses rise strictly and no byte is 0. -/
def cellsFrom (lo : Nat) : Memory → Bool
  | [] => true
  | (a, b) :: rest => lo ≤ a && b != 0 && cellsFrom (a + 1) rest

/-- The canonical form. -/
def Memory.wf (m : Memory) : Bool := cellsFrom 0 m

/-- What a byte of memory reads as. -/
def Memory.read : Memory → Nat → Byte
  | [], _ => 0
  | (a, b) :: rest, k => if a = k then b else if k < a then 0 else Memory.read rest k

/-- Write one byte, keeping the canonical form. -/
def Memory.write : Memory → Nat → Byte → Memory
  | [], k, v => if v = 0 then [] else [(k, v)]
  | (a, b) :: rest, k, v =>
    if a = k then (if v = 0 then rest else (k, v) :: rest)
    else if k < a then (if v = 0 then (a, b) :: rest else (k, v) :: (a, b) :: rest)
    else (a, b) :: Memory.write rest k v

/-- `n` bytes from address `a` up. -/
def Memory.readN (m : Memory) (a : Nat) : Nat → List Byte
  | 0 => []
  | n + 1 => m.read a :: Memory.readN m (a + 1) n

/-- Write bytes from address `a` up. -/
def Memory.writeN (m : Memory) (a : Nat) : List Byte → Memory
  | [] => m
  | b :: bs => Memory.writeN (m.write a b) (a + 1) bs

/-- Write listed cells, in their order. -/
def Memory.writeCells (m : Memory) : List Host.Cell → Memory
  | [] => m
  | (a, b) :: rest => Memory.writeCells (m.write a b) rest

/-- The number of `n` bytes at `a`. -/
def Memory.nat (m : Memory) (a n : Nat) : Nat := natOfBytes (m.readN a n)

/-- Bytes from address `a` up as cells. -/
def cellsAt (a : Nat) : List Byte → List Host.Cell
  | [] => []
  | b :: bs => (a, b) :: cellsAt (a + 1) bs

end Sys2Proof.Machine
end

