-- ==== Sys2Proof/WellFormed.lean ====
section
/-! DEFINITION. Which instructions an encoding can carry (R84 to R91), beyond what the widths of their fields already
say; and, for an event, which places of the module its arguments may name (R11, R12). -/

namespace Sys2Proof

/-- Page-2 type codes (R100). -/
def ETy.code : ETy → BitVec 4
  | .i8 => 0 | .i16 => 1 | .i32 => 2 | .i64 => 3 | .n8 => 4 | .n16 => 5 | .n32 => 6 | .n64 => 7
  | .e4 => 8 | .e5 => 9 | .bf => 10 | .hf => 11 | .f32 => 12 | .f64 => 13 | .cb4 => 14

/-- The type of a code; 15 is reserved (R100). -/
def ETy.ofCode (c : BitVec 4) : Option ETy :=
  match c.toNat with
  | 0 => some .i8 | 1 => some .i16 | 2 => some .i32 | 3 => some .i64 | 4 => some .n8 | 5 => some .n16
  | 6 => some .n32 | 7 => some .n64 | 8 => some .e4 | 9 => some .e5 | 10 => some .bf | 11 => some .hf
  | 12 => some .f32 | 13 => some .f64 | 14 => some .cb4 | _ => none

/-- Bits of an element; cb4 counts a byte of two codes (R100, R138). -/
def ETy.bits : ETy → Nat
  | .i8 => 8 | .n8 => 8 | .e4 => 8 | .e5 => 8 | .cb4 => 8
  | .i16 => 16 | .n16 => 16 | .bf => 16 | .hf => 16
  | .i32 => 32 | .n32 => 32 | .f32 => 32
  | .i64 => 64 | .n64 => 64 | .f64 => 64

/-- Lanes of a vector register (R436). -/
def ETy.lanes (t : ETy) : Nat := 256 / t.bits

def ETy.isSigned : ETy → Bool
  | .i8 => true | .i16 => true | .i32 => true | .i64 => true | _ => false

def ETy.isInt : ETy → Bool
  | .i8 => true | .i16 => true | .i32 => true | .i64 => true
  | .n8 => true | .n16 => true | .n32 => true | .n64 => true | _ => false

/-- The four formats of the vector arithmetic (R437). -/
def ETy.isFp : ETy → Bool
  | .bf => true | .hf => true | .f32 => true | .f64 => true | _ => false

def ETy.notCb (t : ETy) : Bool := t != .cb4

/-- Types of `vabs` and `vneg` (R437). -/
def ETy.isAbs (t : ETy) : Bool := t.isSigned || t.isFp

/-- Types of the vector special functions (R437). -/
def ETy.isSfu : ETy → Bool
  | .bf => true | .hf => true | .f32 => true | _ => false

/-- Types of `mdrain` (R157). -/
def ETy.isDrain : ETy → Bool
  | .f32 => true | .bf => true | .hf => true | .e4 => true | .e5 => true | .i32 => true | .i8 => true | _ => false

/-- Order plain names scope 0 (R88). -/
def MemMod.plainOk (m : MemMod) : Bool := m.order != .plain || m.scope == 0
/-- The orders a form that reads memory accepts (R88). -/
def MemMod.loadOk (m : MemMod) : Bool := m.plainOk && (m.order == .plain || m.order == .acquire)
/-- The orders a form that writes memory accepts (R88). -/
def MemMod.storeOk (m : MemMod) : Bool := m.plainOk && (m.order == .plain || m.order == .release)

/-- IMX parcels that a signed immediate of 20 bits and no base field needs (R84, R97). -/
def imxOf20 (v : BitVec 20) : Nat :=
  if v = 0 then 0 else if (v.truncate 10).signExtend 20 = v then 1 else 2

def Bool.count (b : Bool) : Nat := if b then 1 else 0

/-- A register number that needs the RGX high bit (R85). -/
def high (r : BitVec 5) : Bool := r.getLsbD 4

/-- At most four prefix parcels in all (R83): `k` others beside the IMX parcels of a 20-bit offset. -/
def fits (k : Nat) (imm : BitVec 20) : Bool := k + imxOf20 imm ≤ 4

def memFits (page rgx : Bool) (mm : MemMod) (imm : BitVec 20) : Bool :=
  fits (Bool.count page + Bool.count rgx + Bool.count (mm != MemMod.none)) imm

def vecFits (rgx : Bool) (m : MaskMod) (imm : BitVec 20) : Bool :=
  fits (1 + Bool.count rgx + Bool.count (m != MaskMod.all)) imm

def MaskMod.merging : MaskMod → Bool
  | .all => true
  | .lanes _ z => !z

def evenReg (r : BitVec n) : Bool := !r.getLsbD 0
def fourReg (r : BitVec n) : Bool := !r.getLsbD 0 && !r.getLsbD 1

def Sid.ok (w : Sid) : Bool := w.core < 8192 && w.slot < 4
def HostHead.ok (h : HostHead) : Bool := h.queue < 131072 && h.tag < 2 ^ 32

/-- A well-formed instruction: some legal chain encodes it, or it is an event of an existing part. -/
def Instr.wf : Instr → Bool
  | .mort3 _ _ k => k ≤ 20
  | .lb a b i mm | .lbu a b i mm | .lh a b i mm | .lhu a b i mm | .lw a b i mm | .lwu a b i mm
  | .ld a b i mm | .ldf a b i mm | .ldfe a b i mm => mm.loadOk && memFits false (high a || high b) mm i
  | .sb a b i mm | .sh a b i mm | .sw a b i mm | .sd a b i mm | .sdf a b i mm =>
    mm.storeOk && memFits false (high a || high b) mm i
  | .sfe b i mm => mm.storeOk && memFits false (high b) mm i
  | .skipZ _ n | .skipNz _ n | .skipLt _ n | .skipGe _ n => n != 0
  | .loop _ n => n != 0
  | .rep _ n s => n != 0 && n ≤ 8 && s != 0
  | .vadd t _ _ _ _ | .vsub t _ _ _ _ | .vmul t _ _ _ _ | .vmin t _ _ _ _ | .vmax t _ _ _ _ => t.isInt || t.isFp
  | .vand t _ _ _ _ | .vor t _ _ _ _ | .vxor t _ _ _ _ => t.notCb
  | .vshl t _ _ _ _ | .vshr t _ _ _ _ | .vsra t _ _ _ _ | .vmulh t _ _ _ _ => t.isInt
  | .vabs t _ _ _ | .vneg t _ _ _ => t.isAbs
  | .vfma t _ _ _ _ | .vdiv t _ _ _ _ => t.isFp
  | .vceq t _ _ _ _ | .vcne t _ _ _ _ | .vclt t _ _ _ _ | .vcle t _ _ _ _ => t.notCb
  | .vld _ a b i m | .vst _ a b i m => vecFits (high a || high b) m i
  | .vldsr t a b i m | .vstsr t a b i m => t.notCb && vecFits (high a || high b) m i
  | .vlds t _ _ _ i m | .vsts t _ _ _ i m => t.notCb && vecFits true m i
  | .vldx t _ _ _ i m | .vstx t _ _ _ i m => t.notCb && vecFits true m i
  | .vperm t _ _ _ _ => t.notCb
  | .vsel t _ _ _ m => t.notCb && m.merging
  | .vcompress t _ _ _ | .vexpand t _ _ _ => t.notCb
  | .vslideup t _ _ _ _ | .vslidedn t _ _ _ _ | .vxchg t _ _ _ _ => t.notCb
  | .vbcast t _ _ _ => t.notCb
  | .vmvxv t _ _ l _ | .vmvvx t _ _ l _ => t.notCb && l.toNat < t.lanes
  | .vredAdd t _ _ m | .vredMax t _ _ m | .vredMin t _ _ m => (t.isInt || t.isFp) && m.merging
  | .vcvt st dt _ _ _ => st.notCb && dt.notCb
  | .vexp2 t _ _ _ | .vlog2 t _ _ _ | .vrcp t _ _ _ | .vrsq t _ _ _ | .vtanh t _ _ _ | .vlgst t _ _ _ => t.isSfu
  | .vrng t _ b _ => (t == .i32 || t == .n32) && evenReg b
  | .trel r => r ≤ 11
  | .tld _ b c i mm | .tldt _ b c i mm => mm.loadOk && memFits true (high b || high c) mm i
  | .tst _ b c i mm => mm.storeOk && memFits true (high b || high c) mm i
  | .tldm _ _ _ _ i mm => mm.loadOk && memFits true true mm i
  | .btLd _ b i mm => mm.loadOk && memFits true (high b) mm i
  | .btSt _ b i mm => mm.storeOk && memFits true (high b) mm i
  | .tsv r b i | .trs r b i => r ≤ 11 && memFits true (high b) MemMod.none i
  | .mmaE4e4 _ _ _ s | .mmaE4e5 _ _ _ s | .mmaE5e4 _ _ _ s | .mmaE5e5 _ _ _ s
  | .mmaI8i8 _ _ _ s | .mmaI8n8 _ _ _ s => fourReg s
  | .mmaMx8 _ _ _ s | .mmaMx6 _ _ _ s | .mmaMx4 _ _ _ s | .mmaMxi8 _ _ _ s => fourReg s && s != 0
  | .mmaCbe4 _ _ u _ => evenReg u
  | .mmaCbbf _ _ u _ => fourReg u
  | .smmaE4e4 _ t u s | .smmaI8i8 _ t u s => evenReg t && evenReg u && fourReg s
  | .smmaBfbf _ t u => evenReg t && evenReg u
  | .smmaCbcb _ t u _ _ => evenReg t && evenReg u
  | .mdrain ty _ _ => ty.isDrain
  | .mdraint ty _ _ _ d => ty != 3 && fourReg d && d != 0
  | .mdrainMx _ _ d => fourReg d && d != 0
  | .amoadd _ a b d i mm | .amoswap _ a b d i mm | .amocas _ a b d i mm | .amoand _ a b d i mm
  | .amoor _ a b d i mm | .amoxor _ a b d i mm | .amomin _ a b d i mm | .amomax _ a b d i mm
  | .amominu _ a b d i mm | .amomaxu _ a b d i mm | .amofadd _ a b d i mm =>
    mm.plainOk && memFits true (high a || high b || d != a) mm i
  | .wait a b c i mm => c ≤ 5 && mm.loadOk && memFits true (high a || high b) mm i
  | .sqenq a b i mm | .sqdeq a b i mm => mm.plainOk && memFits true (high a || high b) mm i
  | .rng a b => evenReg b && a != b && a != b + 1
  | .instructionFetch w _ | .preemptionRequest w _ | .preemptionDeadline w | .asyncTrapEntry w | .btoTimeout w
  | .instructionForward w | .forwardCredit w | .dissolvingMarker w | .matrixPushStore w _ | .tlbInvalidateAll w
  | .tlbInvalidatePage w _ | .qbindWrite w _ _ | .registerWrite w _ _ | .pageWalk w _ | .wirePhaseRelease w
  | .channelSliceMove w _ | .roundBarrierComplete w | .regionResolution w | .provisionalStallTimeout w
  | .remoteAccessTimeout w => w.ok
  | .heldCountWrite w k _ => w.ok && k < 4
  | .carouselPull c _ | .carouselSteal c _ | .greedyRunLimit c | .sfuRequestComplete c | .matrixRecordStart c
  | .matrixRecordComplete c | .ceChunkPerformed c | .ceCompletionWrite c | .sliceRead c _ | .missEntryTimeout c _
  | .queueRefill c _ | .refillArrival c _ | .queueDrain c _ => c < 8192
  | .burstSend k | .clusterFuse k | .clusterUnfuse k | .clusterRetirement k => k < 512
  | .hostLaunch h _ | .hostCopy h _ _ _ _ _ | .hostEvent h _ _ _ | .hostShape h _ _ | .hostWake h | .create h _
  | .destroy h _ | .memory h _ | .ways h _ _ | .queue h _ | .root h _ | .idlet h _ | .rtrec h _ | .quantum h _
  | .persist h _ | .box h | .words h | .features h _ _ | .domain h _ _ | .group h _ _ _ _ | .attest h _ _
  | .freeze h | .restore h _ | .tvec h _ | .reservedOpCommand h _ => h.ok
  | .portLinkDown p | .portLinkUp p => p < 16
  | .strandResume _ ps => ps.all fun p => p.dest.ok
  | .add .. | .sub .. | .and .. | .or .. | .xor .. | .sll .. | .srl .. | .sra .. | .mul .. | .mulh ..
  | .mulhu .. | .div .. | .divu .. | .rem .. | .remu .. | .nop .. | .slt .. | .sltu .. | .seq .. | .sne ..
  | .min .. | .max .. | .minu .. | .maxu .. | .cselZ .. | .cselNz .. | .clz .. | .ctz .. | .popc .. | .rev8 ..
  | .sextW .. | .zextW .. | .addi .. | .andi .. | .ori .. | .xori .. | .slli .. | .srli .. | .srai ..
  | .slti .. | .sltiu .. | .muli .. | .li .. | .lsi .. | .seqi .. | .mini .. | .maxi .. | .bz .. | .bnz ..
  | .beq .. | .bne .. | .blt .. | .bge .. | .bltu .. | .bgeu .. | .jal .. | .jalr .. | .csrr .. | .csrw ..
  | .csrs .. | .csrc .. | .csrx .. | .trap .. | .rti .. | .yield .. | .halt .. | .brk .. | .fence ..
  | .fenceI .. | .idle .. | .safe .. | .la .. | .faddS .. | .fsubS .. | .fmulS .. | .fdivS .. | .fminS ..
  | .fmaxS .. | .fsqrtS .. | .fmaS .. | .faddD .. | .fsubD .. | .fmulD .. | .fdivD .. | .fminD .. | .fmaxD ..
  | .fsqrtD .. | .fmaD .. | .feqS .. | .fltS .. | .fleS .. | .feqD .. | .fltD .. | .fleD .. | .fclassS ..
  | .fclassD .. | .fcvtSD .. | .fcvtDS .. | .fcvtSL .. | .fcvtLS .. | .fcvtDL .. | .fcvtLD .. | .fcvtSBf ..
  | .fcvtBfS .. | .fcvtSHf .. | .fcvtHfS .. | .fcvtSE4 .. | .fcvtE4S .. | .fcvtSE5 .. | .fcvtE5S ..
  | .fcvtSW .. | .fcvtWS .. | .fexp2 .. | .flog2 .. | .frcp .. | .frsq .. | .fsin .. | .fcos .. | .ftanh ..
  | .flgst .. | .tcfg .. | .tcfgr .. | .tmvVr .. | .tmvRv .. | .tmvVc .. | .tmvCv .. | .tzero .. | .tcomp24 ..
  | .tcomp48 .. | .ocmpEq .. | .ocmpNe .. | .ocmpLt .. | .ocmpLe .. | .ocmpGt .. | .ocmpGe .. | .ocmpUnord ..
  | .ocmpOrd .. | .ocmpTeq .. | .ocmpTlt .. | .ocmpTle .. | .ocmpTltx .. | .ocmpTgtx .. | .btAnd .. | .btOr ..
  | .btXor .. | .btAndn .. | .btComp .. | .btNot .. | .btTr .. | .btClos .. | .btClosr .. | .btId ..
  | .btZero .. | .btPopr .. | .btPopc .. | .btMvbv .. | .btMvvb .. | .mmaBfbf .. | .mmaHfhf .. | .mmaF32 ..
  | .mmaCbcb .. | .mzero .. | .mcb .. | .msync .. | .mqs .. | .mpush .. | .barArr .. | .barWait ..
  | .barSync .. | .barCfg .. | .wbarRow .. | .wbarCol .. | .wbarRc .. | .send .. | .recv .. | .sendv ..
  | .recvv .. | .recvt .. | .qw .. | .qr .. | .qtr .. | .propBegin .. | .propEnd .. | .propPass ..
  | .propSerial .. | .propStat .. | .sstep .. | .troupeJoin .. | .troupeSplit .. | .ceW .. | .ceArm ..
  | .ceStat .. | .ceStop .. | .launch .. | .shape .. | .pieceEnd .. | .pieceStart .. | .ageLimit ..
  | .quantumExpiry .. | .sliceWrite .. | .memoryReply .. | .storeAcknowledgement .. | .lmPortAccess ..
  | .scopeMissMessage .. | .wideningNotice .. | .barrierConfig .. | .barrierArrival .. | .barrierRelease ..
  | .channelMessage .. | .sendAcknowledgement .. | .heldEntryReenqueue .. | .exchangeStart ..
  | .xferRecordPerformed .. | .superstepRelease .. | .launchRecordAdmission .. | .dependenceSatisfied ..
  | .shapeDelivery .. | .pieceSquash .. | .launchCompletion .. | .idleTimeout .. | .wakeWordWrite ..
  | .deviceWake .. | .pageRetirement .. | .copyCompletion .. | .eventWordWrite .. | .collectiveCombine ..
  | .collectiveTimeout .. | .remoteAccess .. | .coldReset .. | .recoveryImage .. | .watchdogReset ..
  | .freezePin .. | .debugPortAccess .. | .powerAtRating .. | .clockRecoveryTimer ..
  | .supplyOrJunctionLimit .. | .barrierAcknowledgement .. => true

end Sys2Proof
end

