-- ==== Sys2Proof/Machine/Ops.lean ====
section
/-! DEFINITION. The named operations over registers, and how an instruction ends: retired, held, or trapped. Taking an
exception and returning from one stand here (R56 to R65), with what every trap does beside them: the rollback of an
open region (R245), the cancellation of special-function requests (R69), the fate of a troupe (R45, R46). -/

namespace Sys2Proof

/-- The slot number of a strand slot, module-wide. -/
def Sid.key (w : Sid) : Nat := 4 * w.core + w.slot

/-- The strand slot of a slot number. -/
def Sid.ofKey (k : Nat) : Sid := ⟨k / 4, k % 4⟩

end Sys2Proof

namespace Sys2Proof.Machine

/-! ## Places of the module (R11, R294) -/

def dieOf (core : Nat) : Nat := core / 2048
/-- The field, numbered over the module. -/
def fieldOf (core : Nat) : Nat := core / 256
/-- The core's number within its field. -/
def inField (core : Nat) : Nat := core % 256
def rowOf (core : Nat) : Nat := inField core / 16
def colOf (core : Nat) : Nat := core % 16
def clusterOf (core : Nat) : Nat := fieldOf core * 16 + (rowOf core / 4) * 4 + colOf core / 4
/-- Core `i` of a cluster, by rows. -/
def coreOfCluster (c i : Nat) : Nat :=
  (c / 16) * 256 + ((c % 16) / 4 * 4 + i / 4) * 16 + ((c % 4) * 4 + i % 4)

/-! ## Access to the parts of the state -/

/-- A strand as its launch names it (R28). -/
def Strand.rankOf (t : Strand) : Rank := ⟨t.ident.lnum, t.ident.stage, t.ident.rank⟩

namespace State

def strandAt (s : State) (w : Sid) : Strand := getK Strand.reset w.key s.strands
def setStrand (s : State) (w : Sid) (t : Strand) : State := { s with strands := setK w.key t s.strands }
def coreAt (s : State) (n : Nat) : Core := getK Core.reset n s.cores
def setCore (s : State) (n : Nat) (c : Core) : State := { s with cores := setK n c s.cores }

/-- The strand of a slot. -/
def rankAt (s : State) (w : Sid) : Rank := (s.strandAt w).rankOf

/-- The executing strand. -/
def strand (s : State) : Strand := s.strandAt s.me
def withStrand (s : State) (f : Strand → Strand) : State := s.setStrand s.me (f s.strand)
/-- The executing strand's core. -/
def core (s : State) : Core := s.coreAt s.me.core
def withCore (s : State) (f : Core → Core) : State := s.setCore s.me.core (f s.core)
def modStrand (s : State) (w : Sid) (f : Strand → Strand) : State := s.setStrand w (f (s.strandAt w))
def modCore (s : State) (n : Nat) (f : Core → Core) : State := s.setCore n (f (s.coreAt n))

/-! ## Registers (R7, R12) -/

/-- X[r]; X[0] reads 0. -/
def x (s : State) (r : XReg) : Word := if r = 0 then 0 else vget s.strand.x r rfl
def v (s : State) (r : VReg) : V256 := vget s.strand.v r rfl
def b (s : State) (r : BReg) : V256 := vget s.strand.b r rfl

end State

/-- Write X[r]; a write to X[0] is discarded. -/
def Strand.setX (t : Strand) (r : XReg) (w : Word) : Strand := if r = 0 then t else { t with x := vset t.x r w rfl }
def Strand.setV (t : Strand) (r : VReg) (w : V256) : Strand := { t with v := vset t.v r w rfl }
def Strand.setB (t : Strand) (r : BReg) (w : V256) : Strand := { t with b := vset t.b r w rfl }
def Strand.modSync (t : Strand) (f : Sync → Sync) : Strand := { t with sync := f t.sync }
def Strand.modCsr (t : Strand) (f : Csrs → Csrs) : Strand := { t with csr := f t.csr }

namespace State

def setX (s : State) (r : XReg) (w : Word) : State := s.withStrand (·.setX r w)
def setV (s : State) (r : VReg) (w : V256) : State := s.withStrand (·.setV r w)
def setB (s : State) (r : BReg) (w : V256) : State := s.withStrand (·.setB r w)
def modCsr (s : State) (f : Csrs → Csrs) : State := s.withStrand (·.modCsr f)
def modSync (s : State) (f : Sync → Sync) : State := s.withStrand (·.modSync f)
/-- PCF: the strand's pc stands at the executing instruction until it retires (R61). -/
def pcf (s : State) : Word := s.strand.pc
/-- OR flags into FFLAGS (R125). -/
def raise (s : State) (f : Word) : State := s.modCsr fun c => { c with fflags := c.fflags ||| f }
/-- Set the next PC. -/
def jump (s : State) (t : Word) : State := { s with latch := { s.latch with target := some t } }
/-- Address after the executing instruction. -/
def after (s : State) : Word := s.pcf + BitVec.ofNat 64 (2 * s.latch.len)

/-- The launch and the device of a strand. -/
def launchOf (s : State) (w : Sid) : Option Launch :=
  s.launches.find? fun l => l.num == (s.strandAt w).ident.lnum
def launchNo (s : State) (n : Nat) : Option Launch := s.launches.find? fun l => l.num == n
def vdevNo (s : State) (n : Nat) : Option VDev := s.vdevs.find? fun d => d.num == n
def vdevOf (s : State) (w : Sid) : Option VDev := s.vdevNo (s.strandAt w).ident.vdev
def modLaunch (s : State) (n : Nat) (f : Launch → Launch) : State :=
  { s with launches := replaceFirst (fun l => l.num == n) f s.launches }
def modVdev (s : State) (n : Nat) (f : VDev → VDev) : State :=
  { s with vdevs := replaceFirst (fun d => d.num == n) f s.vdevs }

/-- The resident strands, by slot number. -/
def residents (s : State) : List (Nat × Strand) := s.strands.filter fun p => p.2.live

/-- The executing strand's launch is in step mode (R50). -/
def stepMode (s : State) : Bool := (s.launchOf s.me).any fun l => l.lrec.step

/-- In a compute phase: a strand of a step-mode launch that runs in U (R261). -/
def computePhase (s : State) : Bool := s.stepMode && s.strand.mode == .U

/-- A core lies in a device: in its node (R294, R296). -/
def inVdev (d : VDev) (core : Nat) : Bool := clusterOf core / 2 ^ (d.level - 4) == d.index && core < 8192
/-- A core lies in the executing strand's device and in no retired cluster (R175). -/
def reachable (s : State) (core : Nat) : Bool :=
  (s.vdevOf s.me).any (inVdev · core) && !s.retired.contains (clusterOf core)

end State

/-! ## Region state (R228) -/

def rgsState (rgs : Word) : Nat := field rgs 0 3
def rgsDrawn (rgs : Word) : Bool := rgs.getLsbD 3
def rgsHeavy (rgs : Word) : Bool := rgs.getLsbD 5
def rgsRound (rgs : Word) : Nat := field rgs 8 24
def rgsK (rgs : Word) : Nat := field rgs 32 32
def setRgsState (rgs : Word) (n : Nat) : Word := setField rgs 0 3 n

/-- In an open region: STATE is 1 or 4 (R235, R245). -/
def Strand.inRegion (t : Strand) : Bool := rgsState t.csr.rgs == 1 || rgsState t.csr.rgs == 4

/-- The strand's accesses are region accesses: its region is open and it runs in U (R233). -/
def Strand.regionAccess (t : Strand) : Bool := t.inRegion && t.mode == .U

/-- Roll an open region back to its checkpoint; `st` is the STATE it takes (R245). -/
def Strand.rollback (t : Strand) (st : Nat) : Strand :=
  { t with
    x := t.region.ckX
    v := t.region.ckV
    csr := { t.csr with rgs := setRgsState t.csr.rgs st }
    region := { t.region with atEnd := false, reads := [], wlines := [], writes := [], event := none } }

/-- The rollback of a trap: STATE 2, or 3 for a serial region or after a capacity trap (R243, R245). -/
def Strand.trapRollback (t : Strand) (cause : Nat) : Strand :=
  if t.inRegion then
    t.rollback (if rgsState t.csr.rgs == 4 || cause == 10 then 3 else 2)
  else t

/-! ## The generator and a region's draw (R236, R252 to R255) -/

/-- One round (R252) on counter words and key words. -/
def philoxRound (c : List Nat) (k0 k1 : Nat) : List Nat :=
  match c with
  | [c0, c1, c2, c3] =>
    let p := 0xD2511F53 * c0
    let q := 0xCD9E8D57 * c2
    [(q / 2 ^ 32) ^^^ c1 ^^^ k0, q % 2 ^ 32, (p / 2 ^ 32) ^^^ c3 ^^^ k1, p % 2 ^ 32]
  | _ => c

/-- Rounds with the key advanced before each but the first. -/
def philoxFrom (c : List Nat) (k0 k1 : Nat) : Nat → List Nat
  | 0 => c
  | n + 1 => philoxFrom (philoxRound c k0 k1) ((k0 + 0x9E3779B9) % 2 ^ 32) ((k1 + 0xBB67AE85) % 2 ^ 32) n

/-- The block of a key and a counter (R252). -/
def philox (k0 k1 : Nat) (c : List Nat) : List Nat := philoxFrom c k0 k1 10

/-- RNGMODE bits (R256). -/
def rngTable (m : Word) : Bool := m.getLsbD 0
def rngWte (m : Word) : Bool := m.getLsbD 2

namespace State

/-- Word `i` of table entry `j` in the strand's own LM (R255). -/
def tableAt (s : State) (j i : Nat) : Nat := (field s.strand.csr.rngtab 4 12 * 16 + 16 * j + 4 * i) % 2 ^ 16

/-- Word `i` of the block with counter `c`: computed, or read from the table (R254, R255). -/
def blockWord (s : State) (c : List Nat) (i : Nat) : Nat :=
  let r := s.strand.csr
  if rngTable r.rngmode then s.core.lm.nat (s.tableAt (c.headD 0 % 64) i) 4
  else (philox r.rngkeylo.toNat r.rngkeyhi.toNat c).getD i 0

/-- The draw of the executing strand's region (R236). -/
def regionDraw (s : State) : Nat :=
  let t := s.strand
  s.blockWord [t.ident.rank, rgsRound t.csr.rgs, t.ident.lnum, t.ident.stage * 256 + 1] 0

/-! ## Groups and keys (R225 to R227) -/

/-- Two strands are of one group. -/
def sameGroup (a b : Strand) : Bool :=
  a.live && b.live && a.ident.lnum == b.ident.lnum && a.ident.stage == b.ident.stage && a.region.grp == b.region.grp

/-- The strands of a group, resident or saved; one that has ended is none of them. -/
def groupOf (s : State) (t : Strand) : List Strand :=
  ((s.strands.map Prod.snd) ++ s.saved.map Saved.strand).filter (sameGroup t)

/-- Change every strand of a group. -/
def modGroup (s : State) (t : Strand) (f : Strand → Strand) : State :=
  { s with
    strands := s.strands.map fun (q : Nat × Strand) => if sameGroup t q.2 then (q.1, f q.2) else q
    saved := s.saved.map fun (v : Saved) => if sameGroup t v.strand then { v with strand := f v.strand } else v }

/-- The round of a strand. -/
def roundOf (t : Strand) : Nat := rgsRound t.csr.rgs

/-! ## Arrival and the round barrier (R236, R237) -/

/-- The region has arrived for its round. -/
def arrivedRound (t : Strand) : Bool := roundOf t < t.region.next

/-- The round barrier of a strand's round completes once every strand of its group has arrived. -/
def completeRound (s : State) (t : Strand) : State :=
  let r := roundOf t
  if (s.groupOf t).all fun u => r < u.region.next then
    s.modGroup t fun u => { u with region := { u.region with barrier := max u.region.barrier (r + 1) } }
  else s

def barrierDone (t : Strand) : Bool := roundOf t < t.region.barrier

/-- The executing strand arrives for its round; the barrier completes at once unless the turn leaves it to come. -/
def noteArrival (s : State) : State :=
  let s := s.withStrand fun t => { t with region := { t.region with next := max t.region.next (roundOf t + 1) } }
  if s.turn.post then s else s.completeRound s.strand

/-- A region arrives, with its draw at the first arrival (R236, R237). -/
def arriveRegion (s : State) : State :=
  let s :=
    if rgsDrawn s.strand.csr.rgs then s
    else
      let k := s.regionDraw
      s.modCsr fun c => { c with rgs := setField (setField c.rgs 32 32 k) 3 1 1 }
  if arrivedRound s.strand then s else s.noteArrival

end State

/-! ## How an instruction ends -/

/-- The result of a part of a meaning: a value and a state; a synchronous trap, which undoes everything but the flags
it names (R65); or Wait(), with whether R53 bounds it and what its time-out reports. -/
inductive Eff (α : Type) where
  | ok   (a : α) (s : State)
  | trap (cause : Nat) (val : Word) (flags : Word)
  | hold (s : State) (bounded : Bool) (sval : Word)

/-- The outcome of a meaning. -/
abbrev Out := Host.Outcome State Fault Refusal

def Eff.bind (e : Eff α) (f : α → State → Eff β) : Eff β :=
  match e with
  | .ok a s => f a s
  | .trap c v g => .trap c v g
  | .hold s b v => .hold s b v

def Eff.map (e : Eff α) (f : α → β) : Eff β := e.bind fun a s => .ok (f a) s

/-- Trap with `cause` when `c` holds. -/
def guardTrap (c : Bool) (cause : Nat) (val : Word) (s : State) : Eff Unit :=
  if c then .trap cause val 0 else .ok () s

/-- Mode bits as SPP and MPP hold them (R62). -/
def Mode.code : Mode → Nat
  | .U => 0 | .S => 1 | .M => 2

/-- Take IE into PIE and clear it, and note the previous mode (R61). -/
def Bank.enter (bk : Bank) (epc : Word) (cause : Word) (val : Word) (prev : Mode) (wide : Bool) : Bank :=
  { bk with
    epc := epc, cause := cause, tval := val
    status := setField (setField (setField bk.status 1 1 (field bk.status 0 1)) 0 1 0) 2 (if wide then 2 else 1)
      prev.code }

/-- Trap entry (R61) into S or into M. -/
def Strand.enterTrap (t : Strand) (toM : Bool) (cause : Word) (val : Word) : Strand :=
  if toM then
    { t with mBank := t.mBank.enter t.pc cause val t.mode true, mode := .M, pc := t.mBank.tvec &&& ~~~1 }
  else
    { t with sBank := t.sBank.enter t.pc cause val t.mode false, mode := .S, pc := t.sBank.tvec &&& ~~~1 }

/-- Whether a synchronous trap goes to M (R62). -/
def Strand.syncToM (t : Strand) (cause : Nat) : Bool :=
  cause == 19 || t.mode == .M || (t.mode == .S && !t.sBank.status.getLsbD 0)

/-- What a trap leaves of a wait: the wait ends (R54), a token, an arrival or an outstanding send is marked interrupted
at the instruction's address (R202), in the strand's mode: a mark of U outlasts what a handler leaves behind. -/
def Strand.endWait (t : Strand) : Strand :=
  t.modSync fun y =>
    { y with
      held := false, bounded := false, what := .other, waited := 0, halted := false, watch := none, joinN := none, reply := none
      insn := []
      marks := if y.began then (t.mode, t.pc) :: y.marks.filter (fun k => k.1 != t.mode) else y.marks
      began := false }

/-- A strand alone (R45, R46). -/
def Strand.alone (t : Strand) : Strand := { t with troupe := Troupe.reset }

namespace State

/-- The dissolving marker is on its way to the follower. -/
def parting (t : Troupe) : Bool := (t.onWire ++ t.buf).any fun f => match f with | .dissolve _ => true | _ => false

/-- The slots of the members of a troupe, its leader's slot number given. -/
def troupeOf (s : State) (lead : Nat) : List Nat :=
  (s.strands.filter fun p =>
    p.2.live && p.2.troupe.size != 0 && p.2.troupe.lead == lead && !parting p.2.troupe).map Prod.fst

/-- Put something on a follower's strings: straight into its buffer, or onto the wire behind what is on it. -/
def forwardTo (s : State) (k : Nat) (f : Fwd) : State :=
  s.modStrand (Sid.ofKey k) fun t =>
    { t with troupe :=
      if s.turn.post || !t.troupe.onWire.isEmpty then { t.troupe with onWire := t.troupe.onWire ++ [f] }
      else { t.troupe with buf := t.troupe.buf ++ [f] } }

/-- Take back the last forwarded instruction when it stands at `pc`: the leader traps at it (R46). -/
def recallFwd (pc : Word) (t : Troupe) : Troupe :=
  let cut (l : List Fwd) : List Fwd :=
    match l.getLast? with
    | some (.insn p _ _) => if p = pc then l.dropLast else l
    | _ => l
  if t.onWire.isEmpty then { t with buf := cut t.buf } else { t with onWire := cut t.onWire }

/-- The leader's troupe dissolves: each follower gets the marker behind what it still has to issue (R46). -/
def dissolve (s : State) (lead : Nat) (pc : Word) (redone : Bool) : State :=
  let s := (s.troupeOf lead).foldl (fun s k =>
    if k == lead then s
    else
      let s := if redone then s.modStrand (Sid.ofKey k) fun t => { t with troupe := recallFwd pc t.troupe } else s
      s.forwardTo k (.dissolve pc)) s
  s.modStrand (Sid.ofKey lead) Strand.alone

/-- A follower's strings and what it has retired, once its leader has retired the instruction at `pc` with an outcome: the
follower leaves where its own differs (R45). -/
def hear (pc : Word) (o : Outcome) (t : Strand) : Strand :=
  let note (f : Fwd) : Fwd :=
    match f with
    | .insn p ps none => if p = pc then .insn p ps (some o) else f
    | f => f
  match t.troupe.past with
  | some (p, mine) =>
    if p ≠ pc then t else if mine = o then { t with troupe := { t.troupe with past := none } } else t.alone
  | none => { t with troupe := { t.troupe with onWire := t.troupe.onWire.map note, buf := t.troupe.buf.map note } }

/-- A follower has retired what stands first in its buffer: the entry goes, and with another outcome than the leader's the
follower leaves the troupe (R44, R45). -/
def passEntry (pc : Word) (o : Outcome) (t : Strand) : Strand :=
  match t.troupe.buf with
  | .insn p _ out :: rest =>
    if p ≠ pc then t
    else
      match out with
      | none => { t with troupe := { t.troupe with buf := rest, past := some (pc, o) } }
      | some q => if q = o then { t with troupe := { t.troupe with buf := rest } } else t.alone
  | _ => t

/-- A member of a troupe has retired the instruction at `pc` with an outcome. -/
def passed (s : State) (w : Sid) (pc : Word) (o : Outcome) : State :=
  let t := s.strandAt w
  if t.troupe.size = 0 then s
  else if t.troupe.lead = w.key then
    (s.troupeOf w.key).foldl (fun s k => if k == w.key then s else s.modStrand (Sid.ofKey k) (hear pc o)) s
  else s.modStrand w (passEntry pc o)

/-- A trap in a troupe: a follower leaves it, a leader dissolves it (R45, R46). -/
def leaveTroupe (s : State) (redone : Bool) : State :=
  let t := s.strand
  if t.troupe.size = 0 then s
  else if t.troupe.lead = s.me.key then s.dissolve s.me.key t.pc redone
  else s.withStrand Strand.alone

/-- The words of an LM that a write changes. -/
def lmWords (cells : List Host.Cell) (bits : List (Nat × Bool)) : List Nat :=
  ((cells.map fun (c : Host.Cell) => c.1 / 8) ++ bits.map Prod.fst).eraseDups

/-- The lines that cells touch, each once. -/
def linesOf (cells : List Host.Cell) : List Nat := (cells.map fun c => c.1 / 32).eraseDups

/-- The places that a message changes, and the tag that it leaves there (R195). -/
def placesOf (m : Msg) : List Target :=
  match m with
  | .write cells _ _ _ => (linesOf cells).map fun l => .line (l * 32)
  | .lmWrite c cells bits _ => (lmWords cells bits).map fun w => .lm c (w * 8)
  | _ => []

def tagOf (m : Msg) : Option Tag :=
  match m with
  | .write _ t _ _ => t
  | .lmWrite _ _ _ t => t
  | _ => none

/-- The strand no longer holds a write or an atomic at a place; a release write of its own that waits there in flight
stays (R195). -/
def dropBlocks (s : State) (w : Sid) : State :=
  { s with blocked := s.blocked.filter fun q => q.2.1 != w ||
      s.flights.any fun f => f.src == w && !f.done && (tagOf f.msg).isSome && (placesOf f.msg).contains q.1 }

/-- Cancel the strand's special-function requests, its port requests, its parked dequeue and its place at a queue register
(R69, R179, R202). -/
def cancelWaits (s : State) : State :=
  let s := s.withCore fun c =>
    { c with
      sfu := c.sfu.filter (· != s.me.slot)
      qWait := c.qWait.map fun l => l.filter fun p => p.1 != s.me.slot }
  let s := { s with cores := s.cores.map fun (p : Nat × Core) => (p.1, { p.2 with port := p.2.port.filter fun r => r.who != s.me }) }
  { s with
    parked := s.parked.filter fun p => !(p.who == s.me && p.q.isNone)
    flights := s.flights.filter fun f => !(f.src == s.me && (match f.msg with | .remote _ => true | _ => false)) }.dropBlocks s.me

/-- What every trap does before its entry. A capacity trap is the region's arrival (R243). -/
def beforeTrap (s : State) (cause : Nat) (redone : Bool) : State :=
  let s := if cause = 10 ∧ s.strand.inRegion then s.arriveRegion else s
  let s := s.leaveTroupe redone
  let s := s.cancelWaits
  s.withStrand fun t => (t.trapRollback cause).endWait

/-- Take a synchronous trap (R61 to R65): no effect of the instruction stands but the flags it raised. -/
def takeSync (s : State) (cause : Nat) (val : Word) (flags : Word) : State :=
  let s := (s.raise flags).beforeTrap cause true
  s.withStrand fun t => t.enterTrap (t.syncToM cause) (BitVec.ofNat 64 cause) val

/-- The cause word of an asynchronous cause: ASYNC in [63] (R62). -/
def asyncCause (code : Nat) : Word := BitVec.ofNat 64 (2 ^ 63 + code)

/-- Take an asynchronous trap at an instruction boundary (R61, R64). A pre-emption keeps the count of the wait that it ends, and
one that a pre-emption has kept before that wait issues again (R54). -/
def takeAsync (s : State) (code : Nat) (val : Word) (toM : Bool) : State :=
  let t := s.strand
  let keep : List (Mode × Word × Nat) :=
    if code ≠ 1 then []
    else if t.sync.held then (if t.sync.bounded then [(t.mode, t.pc, t.sync.waited)] else [])
    else t.sync.kept.filter fun k => k.1 == t.mode && k.2.1 == t.pc
  let s := s.beforeTrap 0 t.sync.held
  let s := s.withStrand fun t => t.enterTrap toM (asyncCause code) val
  s.modSync fun y => { y with kept := keep ++ y.kept.filter fun k => k.1 != t.mode }

end State

/-! ## Loop frames (R380, R381, R403) -/

def Strand.frame (t : Strand) (m : Mode) : Frame :=
  match m with
  | .U => t.frameU | .S => t.frameS | .M => t.frameM
def Strand.setFrame (t : Strand) (m : Mode) (f : Frame) : Strand :=
  match m with
  | .U => { t with frameU := f } | .S => { t with frameS := f } | .M => { t with frameM := f }

/-- A register as the loop frame names it. -/
def Strand.getX (t : Strand) (r : XReg) : Word := if r = 0 then 0 else vget t.x r rfl

/-- The closing test: the strand after it and the next PC, for an instruction at the strand's pc whose next PC is
`nxt`. -/
def Strand.closing (t : Strand) (nxt : Word) : Strand × Word :=
  let f := t.frame t.mode
  if !f.act then (t, nxt)
  else if f.start.toNat ≤ t.pc.toNat ∧ t.pc.toNat < f.stop.toNat ∧ nxt = f.stop then
    let t := t.setX f.creg (t.getX f.creg - 1)
    if t.getX f.creg ≠ 0 then
      (t.setFrame t.mode { f with pass := if f.rep then f.pass + 1 else f.pass }, f.start)
    else (t.setFrame t.mode { f with act := false }, nxt)
  else if f.start.toNat ≤ nxt.toNat ∧ nxt.toNat < f.stop.toNat then (t, nxt)
  else (t.setFrame t.mode { f with act := false }, nxt)

namespace State

/-- The core's repetition buffer takes a body of the executing strand; what another strand had there goes (R12; entry
76). -/
def fillBuffer (s : State) (l : List (Word × List Parcel)) : State := s.withCore fun c => { c with rbuf := some (s.me.slot, l) }

/-- The core's repetition buffer holds nothing more of a strand (R404). -/
def dropBuffer (s : State) (w : Sid) : State :=
  s.modCore w.core fun c => { c with rbuf := c.rbuf.filter fun r => r.1 != w.slot }

/-- Retire the executing instruction: the next PC, after the closing test of the mode's frame (R380), and INSTRET
(R60). -/
def retire (s : State) : State :=
  let nxt := s.latch.target.getD s.after
  s.withStrand fun t =>
    let (t, nxt) := t.closing nxt
    { t with
      pc := nxt
      csr := { t.csr with instret := t.csr.instret + 1 }
      sync := { t.sync with
        held := false, bounded := false, what := .other, began := false, waited := 0, insn := [], reply := none, watch := none } }

/-- Hold the strand at the instruction (R7): nothing retires. A provisional stall before the wait does not count into it
(R53). -/
def holdAt (s : State) (bounded : Bool) (sval : Word) : State :=
  s.modSync fun y => { y with
    held := true, bounded := bounded, sval := sval
    waited := if y.held && !y.bounded && y.sval != 0 && bounded then 0 else y.waited }

/-- A bounded wait, as R53 lists them. -/
def holdFor (s : State) (k : HeldFor) (v : Word) : Eff α := .hold (s.modSync fun y => { y with what := k }) true v

/-- The strand is of a provisional piece: index at least G of a shape launch not yet delivered (R286). -/
def provisional (s : State) (w : Sid) : Bool :=
  (s.launchOf w).any fun l => l.lrec.shp && l.delivered.isNone && l.lrec.g ≤ (s.strandAt w).ident.piece

/-- Stall as a provisional piece; a hold that R53 does not bound and that reports SHAPEW + 1 (R286). -/
def provStall (s : State) : Eff α :=
  .hold s false ((s.launchOf s.me).elim 1 fun l => l.lrec.shapew + 1)

/-- Each byte of [va, va + n) lies inside one enabled retractable allocation of the strand's launch (R286). -/
def inAlloc (s : State) (va : Word) (n : Nat) : Bool :=
  (s.launchOf s.me).any fun l => l.allocs.any fun a =>
    a.en && a.base.toNat ≤ va.toNat && va.toNat + n ≤ a.base.toNat + a.resv * a.per

end State

/-- End a meaning that began in state `s`. -/
def finish (s : State) (e : Eff Unit) : Out :=
  match e with
  | .ok _ t => .next t.retire
  | .trap c v f => .next (s.takeSync c v f)
  | .hold t b v => .next (t.holdAt b v)

/-- Retire with a state. -/
def done (s : State) : Out := .next s.retire

/-- Trap from state `s` with no flag. -/
def trapOut (s : State) (cause : Nat) (val : Word) : Out := .next (s.takeSync cause val 0)

/-! ## Return from a trap (R61, R406) -/

/-- IE from PIE, PIE set, and the mode that the previous-mode field names. -/
def Bank.leave (bk : Bank) : Bank := { bk with status := setField (setField bk.status 0 1 (field bk.status 1 1)) 1 1 1 }

def modeOfCode (n : Nat) : Option Mode :=
  match n with
  | 0 => some .U | 1 => some .S | 2 => some .M | _ => none

namespace State

/-- `rti` from S or from M: the instruction retires with the next PC at the saved PC, or at RGSPC when it returns to U
in a suspended region; then the mode changes. `none` for the reserved previous mode. -/
def returnTrap (s : State) : Option State :=
  let t := s.strand
  let bk := if t.mode = .M then t.mBank else t.sBank
  match modeOfCode (field bk.status 2 (if t.mode = .M then 2 else 1)) with
  | none => none
  | some m =>
    let suspended := m = .U ∧ (rgsState t.csr.rgs = 2 ∨ rgsState t.csr.rgs = 3)
    let s' := (s.jump (if suspended then t.csr.rgspc else bk.epc)).retire
    some (s'.withStrand fun u =>
      if t.mode = .M then { u with mBank := u.mBank.leave, mode := m }
      else { u with sBank := u.sBank.leave, mode := m })

/-- Raise an asynchronous cause in a slot (R64). -/
def raiseAsync (s : State) (w : Sid) (code : Nat) (val : Word) : State :=
  s.modStrand w fun t => { t with causes := t.causes ++ [(code, val)] }

end State

end Sys2Proof.Machine
end

