-- ==== Sys2Proof/Machine/Report.lean ====
section
/-! DEFINITION. Completions and unsolicited records (R311, R316 to R318). -/

namespace Sys2Proof.Machine

/-- The 64 bytes of a completion (R316). -/
def recordOf (c : Completion) : List Byte :=
  bytesOfNat 4 c.tag ++ bytesOfNat 4 (c.status % 256) ++ bytesOfNat 4 c.lnum ++ bytesOfNat 4 0 ++ bytesOfNat 8 c.val.toNat
    ++ bytesOfNat 8 0 ++ bytesOfNat 32 c.sig.toNat

/-- A completion goes to its queue's ring in host memory: the next 64 bytes from the ring's address up (entry 70). -/
def HostSide.writeRecord (h : HostSide) (c : Completion) : HostSide :=
  { h with
    comps := h.comps ++ [c]
    mem := match h.queues.find? fun p => p.1 == c.queue with
      | some (_, q) => h.mem.writeN (q.ring.toNat + 64 * q.next) (recordOf c)
      | none => h.mem
    queues := h.queues.map fun p => if p.1 = c.queue then (p.1, { p.2 with next := p.2.next + 1 }) else p }

namespace State

/-- Some port's link is up (R311). -/
def linked (s : State) : Bool := s.host.links.toList.any id

/-- The E-die writes a record, or keeps it while no port carries anything (R311, R316). -/
def report (s : State) (c : Completion) : State :=
  { s with host := if s.linked then s.host.writeRecord c else { s.host with unsent := s.host.unsent ++ [c] } }

/-- The E-die writes the completion of the command that it serves, which is then no longer outstanding. -/
def complete (s : State) (queue tag status lnum : Nat) (val : Word) (sig : V256) : State :=
  let s := s.report ⟨queue, tag, status, lnum, val, sig⟩
  { s with host := { s.host with live := s.host.live.filter fun p => p.2 != s.host.serving } }

/-- A device is stopped: a layout change that takes its node stands, and its done record is still to come (R326, R327). -/
def stopped (s : State) (vdev : Nat) : Bool := s.mp.journal.any fun j => !j.done && j.gone.contains vdev

/-- The E-die serves the command of a serial. -/
def setServing (s : State) (serial : Nat) : State := { s with host := { s.host with serving := serial } }

/-- An unsolicited record goes to the device's event queue, with the TAG of all ones (R318); a device without one gets
no record (entry 103). -/
def postEvent (s : State) (vdev status lnum : Nat) (val : Word) : State :=
  match s.host.queues.find? fun q => q.2.vdev == vdev && q.2.events with
  | some q => s.report ⟨q.1, 0xFFFF_FFFF, status, lnum, val, 0⟩
  | none => s

/-- EVENT_WORD_WRITE: a runtime posts status 13 (R318). -/
def eventWord (s : State) (vdev : Nat) (val : Word) : State :=
  match s.vdevNo vdev with
  | some d =>
    { s with host := { s.host with events := setK d.num val s.host.events } }.postEvent vdev 13 d.runtime val
  | none => s

/-- The executing strand runs code of its device's runtime: of that launch, or a handler in S of any strand (R302; entry
105). -/
def isRuntime (s : State) (d : VDev) : Bool := s.strand.ident.lnum == d.runtime || s.strand.mode == .S

/-- A store of the executing strand has written the event word of its device, for the runtime (R318, R319); a region access
leaves it to the commit (R233, R241). -/
def postWord (s : State) (va : Word) (bytes : List Byte) : State :=
  match s.vdevOf s.me with
  | some d =>
    if s.isRuntime d ∧ va = Config.wakeWord d.num + 8 ∧ bytes.length = 8 then
      let v := BitVec.ofNat 64 (natOfBytes bytes)
      if s.strand.regionAccess then s.withStrand fun t => { t with region := { t.region with event := some v } }
      else s.eventWord d.num v
    else s
  | none => s

/-- A strand of a launch still stands in its slot. -/
def stands (s : State) (w : Sid) (lnum : Nat) : Bool := (s.strandAt w).live && (s.strandAt w).ident.lnum == lnum

/-- The strand that became resident at `born` still stands in its slot. -/
def isBorn (s : State) (w : Sid) (born : Nat) : Bool := (s.strandAt w).live && (s.strandAt w).ident.born == born

/-- The device in whose node a core lies. -/
def coreVdev (s : State) (core : Nat) : Option VDev := s.vdevs.find? fun d => inVdev d core

end State

end Sys2Proof.Machine
end

