-- ==== Sys2Proof/Decode.lean ====
section
/-! DEFINITION. Decoding (R81 to R93) and, after it, the encoder, both written from the encoding tables R98 to R105.
A run of parcels is first scanned into a `Chain` (R82), then the chain is read by page and major (R98 to R105);
every chain that R91 makes illegal gives `none`. -/

namespace Sys2Proof

/-- A scanned chain: the four prefix kinds and the base parcel (R81, R82). IMX payloads stand in address order. -/
structure Chain where
  page : BitVec 6
  mods : BitVec 4
  rgx  : Option (BitVec 10)
  mod  : Option (BitVec 10)
  imx  : List (BitVec 10)
  base : Parcel
  deriving DecidableEq, Repr

/-- The scanner's state between parcels (R82). -/
structure Scan where
  count : Nat
  pgx   : Option (BitVec 10)
  rgx   : Option (BitVec 10)
  mod   : Option (BitVec 10)
  imx   : List (BitVec 10)
  deriving DecidableEq, Repr

def Scan.start : Scan := ⟨0, none, none, none, []⟩

/-- What one more parcel makes of a scan (R82). -/
inductive Scanned where
  | more (s : Scan)
  | done (c : Chain) (len : Nat)
  | bad  (len : Nat)
  deriving DecidableEq, Repr

/-- Close a chain at its base parcel: a PGX that names page 0 is illegal (R82, R86). -/
def Scan.close (s : Scan) (p : Parcel) : Scanned :=
  match s.pgx with
  | none => .done ⟨0, 0, s.rgx, s.mod, s.imx, p⟩ (s.count + 1)
  | some g =>
    if g.extractLsb' 4 6 = 0 then .bad (s.count + 1)
    else .done ⟨g.extractLsb' 4 6, g.extractLsb' 0 4, s.rgx, s.mod, s.imx, p⟩ (s.count + 1)

/-- One pass of the loop of R82. -/
def Scan.feed (s : Scan) (p : Parcel) : Scanned :=
  if p = 0xFFFF then .bad (s.count + 1)
  else if p.extractLsb' 12 4 ≠ 0xF then s.close p
  else if s.count = 4 then .bad (s.count + 1)
  else
    let k := p.extractLsb' 10 2
    let f := p.extractLsb' 0 10
    let n := s.count + 1
    if k = 0 then (if s.imx.length = 2 then .bad n else .more { s with count := n, imx := s.imx ++ [f] })
    else if k = 1 then (if s.rgx.isSome then .bad n else .more { s with count := n, rgx := some f })
    else if k = 2 then (if s.pgx.isSome then .bad n else .more { s with count := n, pgx := some f })
    else (if s.mod.isSome then .bad n else .more { s with count := n, mod := some f })

/-- Scan a list of parcels; `none` when it ends before the chain does. -/
def scanFrom (s : Scan) : List Parcel → Option Scanned
  | [] => none
  | p :: ps =>
    match s.feed p with
    | .more s' => scanFrom s' ps
    | r => some r

namespace Chain

variable (c : Chain)

def op : Nat := (c.base.extractLsb' 12 4).toNat
def na : BitVec 4 := c.base.extractLsb' 8 4
def nb : BitVec 4 := c.base.extractLsb' 4 4
def nc : BitVec 4 := c.base.extractLsb' 0 4
def fa : Nat := c.na.toNat
def fb : Nat := c.nb.toNat
def fc : Nat := c.nc.toNat
/-- The low byte, fields b and c together. -/
def low8 : BitVec 8 := c.base.extractLsb' 0 8
/-- RGX bits, zero without RGX (R85). -/
def rg : BitVec 10 := c.rgx.getD 0
def hasR : Bool := c.rgx.isSome
/-- Extended registers (R85). -/
def A : BitVec 5 := c.rg.extractLsb' 9 1 ++ c.na
def B : BitVec 5 := c.rg.extractLsb' 8 1 ++ c.nb
def C : BitVec 5 := c.rg.extractLsb' 7 1 ++ c.nc
def D : BitVec 5 := if c.hasR then c.rg.extractLsb' 2 5 else c.A
/-- RGX [1:0] is zero (R85). -/
def rz : Bool := c.rg.extractLsb' 0 2 = 0
def loA : Bool := !c.rg.getLsbD 9
def loB : Bool := !c.rg.getLsbD 8
def loC : Bool := !c.rg.getLsbD 7
/-- d has no role: it must equal A (R85). -/
def dA : Bool := c.D = c.A
def noR : Bool := !c.hasR
def noM : Bool := c.mod.isNone
def noI : Bool := c.imx.isEmpty
def i1 : Bool := c.imx.length ≤ 1
/-- No immediate and no MOD. -/
def plain : Bool := c.noM && c.noI && c.rz
/-- No prefix but a PGX. -/
def bare : Bool := c.noR && c.noM && c.noI

/-- The immediate string (R84), sign-extended to `n` bits. -/
def immS (lo : BitVec k) (n : Nat) : BitVec n :=
  match c.imx with
  | [] => lo.signExtend n
  | [i] => (i ++ lo).signExtend n
  | i :: j :: _ => (i ++ j ++ lo).signExtend n

/-- The immediate string, zero-extended to `n` bits. -/
def immU (lo : BitVec k) (n : Nat) : BitVec n :=
  match c.imx with
  | [] => lo.zeroExtend n
  | [i] => (i ++ lo).zeroExtend n
  | i :: j :: _ => (i ++ j ++ lo).zeroExtend n

/-- The 20-bit signed byte offset of the memory forms, from IMX alone. -/
def off20 : BitVec 20 := c.immS (0 : BitVec 0) 20

/-- The memory form of MOD (R88); `none` when a field of it is illegal. -/
def mm : Option MemMod :=
  match c.mod with
  | none => some MemMod.none
  | some m =>
    let o := match (m.extractLsb' 5 2).toNat with
      | 0 => Order.plain | 1 => Order.acquire | 2 => Order.release | _ => Order.acqRel
    let r : MemMod := ⟨m.extractLsb' 7 3, o, m.extractLsb' 3 2⟩
    if m.extractLsb' 0 3 = 0 ∧ r.plainOk then some r else none

/-- The mask form of MOD (R89). -/
def mask : Option MaskMod :=
  match c.mod with
  | none => some .all
  | some m => if m.extractLsb' 6 4 = 0 then some (.lanes (m.extractLsb' 0 5) (m.getLsbD 5)) else none

/-- The element type that mods name (R100). -/
def ty : Option ETy := ETy.ofCode c.mods

/-- The tile fields a, b and c, whose bit [3] and RGX high bit must be 0 (R90). -/
def ta : BitVec 3 := c.na.extractLsb' 0 3
def tb : BitVec 3 := c.nb.extractLsb' 0 3
def tc : BitVec 3 := c.nc.extractLsb' 0 3
def okA : Bool := !c.na.getLsbD 3 && c.loA
def okB : Bool := !c.nb.getLsbD 3 && c.loB
def okC : Bool := !c.nc.getLsbD 3 && c.loC
def acc : BitVec 2 := c.na.extractLsb' 0 2
def accB : BitVec 2 := c.nb.extractLsb' 0 2
def hiA : BitVec 2 := c.na.extractLsb' 2 2
def hiB : BitVec 2 := c.nb.extractLsb' 2 2

end Chain

/-- `i` when the checks `b` hold. -/
def legal (b : Bool) (i : Instr) : Option Instr := if b then some i else none

/-- `f` of the memory form when the checks hold and the form admits its order. -/
def legalM (b : Bool) (m : Option MemMod) (ok : MemMod → Bool) (f : MemMod → Instr) : Option Instr :=
  match m with
  | some m => if b && ok m then some (f m) else none
  | none => none

/-- `f` of element type and mask when the checks hold and the form admits the type. -/
def legalV (b : Bool) (t : Option ETy) (m : Option MaskMod) (ok : ETy → Bool) (f : ETy → MaskMod → Instr) :
    Option Instr :=
  match t, m with
  | some t, some m => if b && ok t then some (f t m) else none
  | _, _ => none

/-- 0:0x0 ALU (R98); the all-zero parcel is `nop` (R92). -/
def decAlu (c : Chain) : Option Instr :=
  match c.fc with
  | 0 => legal (c.plain && c.loC) (.add c.A c.B c.D)
  | 1 => legal (c.plain && c.loC) (.sub c.A c.B c.D)
  | 2 => legal (c.plain && c.loC) (.and c.A c.B c.D)
  | 3 => legal (c.plain && c.loC) (.or c.A c.B c.D)
  | 4 => legal (c.plain && c.loC) (.xor c.A c.B c.D)
  | 5 => legal (c.plain && c.loC) (.sll c.A c.B c.D)
  | 6 => legal (c.plain && c.loC) (.srl c.A c.B c.D)
  | 7 => legal (c.plain && c.loC) (.sra c.A c.B c.D)
  | 8 => legal (c.plain && c.loC) (.mul c.A c.B c.D)
  | 9 => legal (c.plain && c.loC) (.mulh c.A c.B c.D)
  | 10 => legal (c.plain && c.loC) (.mulhu c.A c.B c.D)
  | 11 => legal (c.plain && c.loC) (.div c.A c.B c.D)
  | 12 => legal (c.plain && c.loC) (.divu c.A c.B c.D)
  | 13 => legal (c.plain && c.loC) (.rem c.A c.B c.D)
  | 14 => legal (c.plain && c.loC) (.remu c.A c.B c.D)
  | _ => none

/-- 0:0x1 CMPX (R98). -/
def decCmpx (c : Chain) : Option Instr :=
  match c.fc with
  | 0 => legal (c.plain && c.loC) (.slt c.A c.B c.D)
  | 1 => legal (c.plain && c.loC) (.sltu c.A c.B c.D)
  | 2 => legal (c.plain && c.loC) (.seq c.A c.B c.D)
  | 3 => legal (c.plain && c.loC) (.sne c.A c.B c.D)
  | 4 => legal (c.plain && c.loC) (.min c.A c.B c.D)
  | 5 => legal (c.plain && c.loC) (.max c.A c.B c.D)
  | 6 => legal (c.plain && c.loC) (.minu c.A c.B c.D)
  | 7 => legal (c.plain && c.loC) (.maxu c.A c.B c.D)
  | 8 => legal (c.plain && c.loC) (.cselZ c.A c.B c.D)
  | 9 => legal (c.plain && c.loC) (.cselNz c.A c.B c.D)
  | 10 => legal (c.plain && c.loC && c.dA) (.clz c.A c.B)
  | 11 => legal (c.plain && c.loC && c.dA) (.ctz c.A c.B)
  | 12 => legal (c.plain && c.loC && c.dA) (.popc c.A c.B)
  | 13 => legal (c.plain && c.loC && c.dA) (.rev8 c.A c.B)
  | 14 => legal (c.plain && c.loC && c.dA) (.sextW c.A c.B)
  | 15 => legal (c.plain && c.loC && c.dA) (.zextW c.A c.B)
  | _ => none

/-- 0:0x2 ALUI (R98, R378, R386, R418). -/
def decAlui (c : Chain) : Option Instr :=
  match c.fb with
  | 0 => legal (c.noM && c.rz && c.loB && c.loC) (.addi c.A c.D (c.immS c.nc 24))
  | 1 => legal (c.noM && c.rz && c.loB && c.loC) (.andi c.A c.D (c.immS c.nc 24))
  | 2 => legal (c.noM && c.rz && c.loB && c.loC) (.ori c.A c.D (c.immS c.nc 24))
  | 3 => legal (c.noM && c.rz && c.loB && c.loC) (.xori c.A c.D (c.immS c.nc 24))
  | 4 => legal (c.noM && c.rz && c.loB && c.loC && c.i1 && c.immU c.nc 14 < 64) (.slli c.A c.D (c.immU c.nc 6))
  | 5 => legal (c.noM && c.rz && c.loB && c.loC && c.i1 && c.immU c.nc 14 < 64) (.srli c.A c.D (c.immU c.nc 6))
  | 6 => legal (c.noM && c.rz && c.loB && c.loC && c.i1 && c.immU c.nc 14 < 64) (.srai c.A c.D (c.immU c.nc 6))
  | 7 => legal (c.noM && c.rz && c.loB && c.loC) (.slti c.A c.D (c.immS c.nc 24))
  | 8 => legal (c.noM && c.rz && c.loB && c.loC) (.sltiu c.A c.D (c.immS c.nc 24))
  | 9 => legal (c.noM && c.rz && c.loB && c.loC) (.muli c.A c.D (c.immS c.nc 24))
  | 10 => legal (c.noM && c.rz && c.loB && c.loC && c.dA) (.li c.A (c.immS c.nc 24))
  | 11 => legal (c.noM && c.rz && c.loB && c.loC) (.lsi c.A c.D (c.immU c.nc 24))
  | 12 => legal (c.noM && c.rz && c.loB && c.loC) (.seqi c.A c.D (c.immS c.nc 24))
  | 13 => legal (c.noM && c.rz && c.loB && c.loC) (.mini c.A c.D (c.immS c.nc 24))
  | 14 => legal (c.noM && c.rz && c.loB && c.loC) (.maxi c.A c.D (c.immS c.nc 24))
  | 15 => legal (c.noM && c.rz && c.loB && c.loC && c.i1 && c.immU c.nc 14 ≤ 20) (.mort3 c.A c.D (c.immU c.nc 5))
  | _ => none

/-- 0:0x3 LD (R98, R375). -/
def decLd (c : Chain) : Option Instr :=
  match c.fc with
  | 0 => legalM (c.rz && c.loC && c.dA) c.mm MemMod.loadOk (.lb c.A c.B c.off20)
  | 1 => legalM (c.rz && c.loC && c.dA) c.mm MemMod.loadOk (.lbu c.A c.B c.off20)
  | 2 => legalM (c.rz && c.loC && c.dA) c.mm MemMod.loadOk (.lh c.A c.B c.off20)
  | 3 => legalM (c.rz && c.loC && c.dA) c.mm MemMod.loadOk (.lhu c.A c.B c.off20)
  | 4 => legalM (c.rz && c.loC && c.dA) c.mm MemMod.loadOk (.lw c.A c.B c.off20)
  | 5 => legalM (c.rz && c.loC && c.dA) c.mm MemMod.loadOk (.lwu c.A c.B c.off20)
  | 6 => legalM (c.rz && c.loC && c.dA) c.mm MemMod.loadOk (.ld c.A c.B c.off20)
  | 7 => legalM (c.rz && c.loC && c.dA) c.mm MemMod.loadOk (.ldf c.A c.B c.off20)
  | 8 => legalM (c.rz && c.loC && c.dA) c.mm MemMod.loadOk (.ldfe c.A c.B c.off20)
  | _ => none

/-- 0:0x4 ST (R98, R408). -/
def decSt (c : Chain) : Option Instr :=
  match c.fc with
  | 0 => legalM (c.rz && c.loC && c.dA) c.mm MemMod.storeOk (.sb c.A c.B c.off20)
  | 1 => legalM (c.rz && c.loC && c.dA) c.mm MemMod.storeOk (.sh c.A c.B c.off20)
  | 2 => legalM (c.rz && c.loC && c.dA) c.mm MemMod.storeOk (.sw c.A c.B c.off20)
  | 3 => legalM (c.rz && c.loC && c.dA) c.mm MemMod.storeOk (.sd c.A c.B c.off20)
  | 4 => legalM (c.rz && c.loC && c.dA) c.mm MemMod.storeOk (.sdf c.A c.B c.off20)
  | 5 => legalM (c.rz && c.loC && c.dA && c.A = 0) c.mm MemMod.storeOk (.sfe c.B c.off20)
  | _ => none

/-- 0:0x7 BCC: at least one IMX stands (R98, R339). -/
def decBcc (c : Chain) : Option Instr :=
  match c.fc with
  | 0 => legal (c.rz && c.loC && c.dA && c.noM && !c.noI) (.beq c.A c.B c.off20)
  | 1 => legal (c.rz && c.loC && c.dA && c.noM && !c.noI) (.bne c.A c.B c.off20)
  | 2 => legal (c.rz && c.loC && c.dA && c.noM && !c.noI) (.blt c.A c.B c.off20)
  | 3 => legal (c.rz && c.loC && c.dA && c.noM && !c.noI) (.bge c.A c.B c.off20)
  | 4 => legal (c.rz && c.loC && c.dA && c.noM && !c.noI) (.bltu c.A c.B c.off20)
  | 5 => legal (c.rz && c.loC && c.dA && c.noM && !c.noI) (.bgeu c.A c.B c.off20)
  | _ => none

/-- 0:0xA SKIP (R98, R416). -/
def decSkip (c : Chain) : Option Instr :=
  match c.fb with
  | 0 => legal (c.plain && c.loB && c.loC && c.dA && c.nc != 0) (.skipZ c.A c.nc)
  | 1 => legal (c.plain && c.loB && c.loC && c.dA && c.nc != 0) (.skipNz c.A c.nc)
  | 2 => legal (c.plain && c.loB && c.loC && c.dA && c.nc != 0) (.skipLt c.A c.nc)
  | 3 => legal (c.plain && c.loB && c.loC && c.dA && c.nc != 0) (.skipGe c.A c.nc)
  | _ => none

/-- 0:0xC CSR (R98, R356). -/
def decCsr (c : Chain) : Option Instr :=
  match c.fb with
  | 0 => legal (c.noM && c.rz && c.i1 && c.loB && c.loC && c.dA) (.csrr c.A (c.immU c.nc 14))
  | 1 => legal (c.noM && c.rz && c.i1 && c.loB && c.loC && c.dA) (.csrw c.A (c.immU c.nc 14))
  | 2 => legal (c.noM && c.rz && c.i1 && c.loB && c.loC && c.dA) (.csrs c.A (c.immU c.nc 14))
  | 3 => legal (c.noM && c.rz && c.i1 && c.loB && c.loC && c.dA) (.csrc c.A (c.immU c.nc 14))
  | 4 => legal (c.noM && c.rz && c.i1 && c.loB && c.loC) (.csrx c.A c.D (c.immU c.nc 14))
  | _ => none

/-- 0:0xD SYS (R98, R407). -/
def decSys (c : Chain) : Option Instr :=
  match c.fa with
  | 0 => legal (c.noR && c.noM) (.trap (c.immU c.low8 28))
  | 1 => legal (c.bare && c.low8 = 0) .rti
  | 2 => legal (c.bare && c.low8 = 0) .yield
  | 3 => legal (c.bare && c.low8 = 0) .halt
  | 4 => legal (c.noR && c.noM) (.brk (c.immU c.low8 28))
  | 5 => legal (c.bare && c.nb = 0 && c.fc < 8) (.fence (c.nc.extractLsb' 0 3))
  | 6 => legal (c.bare && c.low8 = 0) .fenceI
  | 7 => legal (c.bare && c.low8 = 0) .idle
  | 8 => legal (c.noR && c.noM && c.i1 && c.immU c.low8 18 ≤ 65535) (.safe (c.immU c.low8 16))
  | _ => none

/-- Page 0, scalar (R98). -/
def decPage0 (c : Chain) : Option Instr :=
  match c.op with
  | 0 => if c.base = 0 ∧ c.bare then some .nop else decAlu c
  | 1 => decCmpx c
  | 2 => decAlui c
  | 3 => decLd c
  | 4 => decSt c
  | 5 => legal (c.noM && c.rz && c.loB && c.loC && c.dA) (.bz c.A (c.immS c.low8 28))
  | 6 => legal (c.noM && c.rz && c.loB && c.loC && c.dA) (.bnz c.A (c.immS c.low8 28))
  | 7 => decBcc c
  | 8 => legal (c.noM && c.rz && c.loB && c.loC && c.dA) (.jal c.A (c.immS c.low8 28))
  | 9 => legal (c.noM && c.rz && c.loC && c.dA) (.jalr c.A c.B (c.immS c.nc 24))
  | 10 => decSkip c
  | 11 => if c.nc = 0 then legal (c.plain && c.loB && c.loC && c.dA && c.nb != 0) (.loop c.A c.nb)
    else legal (c.plain && c.loB && c.loC && c.dA && c.nb != 0 && c.nb ≤ 8) (.rep c.A c.nb c.nc)
  | 12 => decCsr c
  | 13 => decSys c
  | 14 => legal (c.noM && c.rz && c.loB && c.loC && c.dA) (.la c.A (c.immS c.low8 28))
  | _ => none

/-- 1:0x0 (R99). -/
def decFs (c : Chain) : Option Instr :=
  match c.fc with
  | 0 => legal (c.plain && c.loC) (.faddS c.A c.B c.D)
  | 1 => legal (c.plain && c.loC) (.fsubS c.A c.B c.D)
  | 2 => legal (c.plain && c.loC) (.fmulS c.A c.B c.D)
  | 3 => legal (c.plain && c.loC) (.fdivS c.A c.B c.D)
  | 4 => legal (c.plain && c.loC) (.fminS c.A c.B c.D)
  | 5 => legal (c.plain && c.loC) (.fmaxS c.A c.B c.D)
  | 6 => legal (c.plain && c.loC && c.dA) (.fsqrtS c.A c.B)
  | 7 => legal (c.plain && c.loC) (.fmaS c.A c.B c.D)
  | _ => none

/-- 1:0x1 (R99). -/
def decFd (c : Chain) : Option Instr :=
  match c.fc with
  | 0 => legal (c.plain && c.loC) (.faddD c.A c.B c.D)
  | 1 => legal (c.plain && c.loC) (.fsubD c.A c.B c.D)
  | 2 => legal (c.plain && c.loC) (.fmulD c.A c.B c.D)
  | 3 => legal (c.plain && c.loC) (.fdivD c.A c.B c.D)
  | 4 => legal (c.plain && c.loC) (.fminD c.A c.B c.D)
  | 5 => legal (c.plain && c.loC) (.fmaxD c.A c.B c.D)
  | 6 => legal (c.plain && c.loC && c.dA) (.fsqrtD c.A c.B)
  | 7 => legal (c.plain && c.loC) (.fmaD c.A c.B c.D)
  | _ => none

/-- 1:0x2 FCMP (R99). -/
def decFcmp (c : Chain) : Option Instr :=
  match c.fc with
  | 0 => legal (c.plain && c.loC) (.feqS c.A c.B c.D)
  | 1 => legal (c.plain && c.loC) (.fltS c.A c.B c.D)
  | 2 => legal (c.plain && c.loC) (.fleS c.A c.B c.D)
  | 3 => legal (c.plain && c.loC) (.feqD c.A c.B c.D)
  | 4 => legal (c.plain && c.loC) (.fltD c.A c.B c.D)
  | 5 => legal (c.plain && c.loC) (.fleD c.A c.B c.D)
  | 6 => legal (c.plain && c.loC && c.dA) (.fclassS c.A c.B)
  | 7 => legal (c.plain && c.loC && c.dA) (.fclassD c.A c.B)
  | _ => none

/-- 1:0x3 FCVT (R99, R364). -/
def decFcvt (c : Chain) : Option Instr :=
  match c.fc with
  | 0 => legal (c.plain && c.loC && c.dA) (.fcvtSD c.A c.B)
  | 1 => legal (c.plain && c.loC && c.dA) (.fcvtDS c.A c.B)
  | 2 => legal (c.plain && c.loC && c.dA) (.fcvtSL c.A c.B)
  | 3 => legal (c.plain && c.loC && c.dA) (.fcvtLS c.A c.B)
  | 4 => legal (c.plain && c.loC && c.dA) (.fcvtDL c.A c.B)
  | 5 => legal (c.plain && c.loC && c.dA) (.fcvtLD c.A c.B)
  | 6 => legal (c.plain && c.loC && c.dA) (.fcvtSBf c.A c.B)
  | 7 => legal (c.plain && c.loC && c.dA) (.fcvtBfS c.A c.B)
  | 8 => legal (c.plain && c.loC && c.dA) (.fcvtSHf c.A c.B)
  | 9 => legal (c.plain && c.loC && c.dA) (.fcvtHfS c.A c.B)
  | 10 => legal (c.plain && c.loC && c.dA) (.fcvtSE4 c.A c.B)
  | 11 => legal (c.plain && c.loC && c.dA) (.fcvtE4S c.A c.B)
  | 12 => legal (c.plain && c.loC && c.dA) (.fcvtSE5 c.A c.B)
  | 13 => legal (c.plain && c.loC && c.dA) (.fcvtE5S c.A c.B)
  | 14 => legal (c.plain && c.loC && c.dA) (.fcvtSW c.A c.B)
  | 15 => legal (c.plain && c.loC && c.dA) (.fcvtWS c.A c.B)
  | _ => none

/-- 1:0x4 SFU (R99, R368). -/
def decSfu (c : Chain) : Option Instr :=
  match c.fc with
  | 0 => legal (c.plain && c.loC && c.dA) (.fexp2 c.A c.B)
  | 1 => legal (c.plain && c.loC && c.dA) (.flog2 c.A c.B)
  | 2 => legal (c.plain && c.loC && c.dA) (.frcp c.A c.B)
  | 3 => legal (c.plain && c.loC && c.dA) (.frsq c.A c.B)
  | 4 => legal (c.plain && c.loC && c.dA) (.fsin c.A c.B)
  | 5 => legal (c.plain && c.loC && c.dA) (.fcos c.A c.B)
  | 6 => legal (c.plain && c.loC && c.dA) (.ftanh c.A c.B)
  | 7 => legal (c.plain && c.loC && c.dA) (.flgst c.A c.B)
  | _ => none

/-- Page 1 (R99). -/
def decPage1 (c : Chain) : Option Instr :=
  match c.op with
  | 0 => decFs c
  | 1 => decFd c
  | 2 => decFcmp c
  | 3 => decFcvt c
  | 4 => decSfu c
  | _ => none

/-- 2:0x0 VALU (R100, R437, R439). -/
def decValu (c : Chain) : Option Instr :=
  match c.fc with
  | 0 => legalV (c.noI && c.rz && c.loC) c.ty c.mask (fun t => t.isInt || t.isFp) fun t m => .vadd t c.A c.B c.D m
  | 1 => legalV (c.noI && c.rz && c.loC) c.ty c.mask (fun t => t.isInt || t.isFp) fun t m => .vsub t c.A c.B c.D m
  | 2 => legalV (c.noI && c.rz && c.loC) c.ty c.mask (fun t => t.isInt || t.isFp) fun t m => .vmul t c.A c.B c.D m
  | 3 => legalV (c.noI && c.rz && c.loC) c.ty c.mask (fun t => t.isInt || t.isFp) fun t m => .vmin t c.A c.B c.D m
  | 4 => legalV (c.noI && c.rz && c.loC) c.ty c.mask (fun t => t.isInt || t.isFp) fun t m => .vmax t c.A c.B c.D m
  | 5 => legalV (c.noI && c.rz && c.loC) c.ty c.mask ETy.notCb fun t m => .vand t c.A c.B c.D m
  | 6 => legalV (c.noI && c.rz && c.loC) c.ty c.mask ETy.notCb fun t m => .vor t c.A c.B c.D m
  | 7 => legalV (c.noI && c.rz && c.loC) c.ty c.mask ETy.notCb fun t m => .vxor t c.A c.B c.D m
  | 8 => legalV (c.noI && c.rz && c.loC) c.ty c.mask ETy.isInt fun t m => .vshl t c.A c.B c.D m
  | 9 => legalV (c.noI && c.rz && c.loC) c.ty c.mask ETy.isInt fun t m => .vshr t c.A c.B c.D m
  | 10 => legalV (c.noI && c.rz && c.loC) c.ty c.mask ETy.isInt fun t m => .vsra t c.A c.B c.D m
  | 11 => legalV (c.noI && c.rz && c.loC && c.dA) c.ty c.mask ETy.isAbs fun t m => .vabs t c.A c.B m
  | 12 => legalV (c.noI && c.rz && c.loC && c.dA) c.ty c.mask ETy.isAbs fun t m => .vneg t c.A c.B m
  | 13 => legalV (c.noI && c.rz && c.loC) c.ty c.mask ETy.isFp fun t m => .vfma t c.A c.B c.D m
  | 14 => legalV (c.noI && c.rz && c.loC) c.ty c.mask ETy.isInt fun t m => .vmulh t c.A c.B c.D m
  | 15 => legalV (c.noI && c.rz && c.loC) c.ty c.mask ETy.isFp fun t m => .vdiv t c.A c.B c.D m
  | _ => none

/-- 2:0x5 VMEM (R100, R452). -/
def decVmem (c : Chain) : Option Instr :=
  match c.fc with
  | 0 => legalV (c.rz && c.loC && c.dA) c.ty c.mask (fun _ => true) fun t m => .vld t c.A c.B c.off20 m
  | 1 => legalV (c.rz && c.loC && c.dA) c.ty c.mask (fun _ => true) fun t m => .vst t c.A c.B c.off20 m
  | 2 => legalV (c.rz && c.loC && c.hasR) c.ty c.mask ETy.notCb fun t m => .vlds t c.A c.B c.D c.off20 m
  | 3 => legalV (c.rz && c.loC && c.hasR) c.ty c.mask ETy.notCb fun t m => .vsts t c.A c.B c.D c.off20 m
  | 4 => legalV (c.rz && c.loC && c.hasR) c.ty c.mask ETy.notCb fun t m => .vldx t c.A c.B c.D c.off20 m
  | 5 => legalV (c.rz && c.loC && c.hasR) c.ty c.mask ETy.notCb fun t m => .vstx t c.A c.B c.D c.off20 m
  | 6 => legalV (c.rz && c.loC && c.dA) c.ty c.mask ETy.notCb fun t m => .vldsr t c.A c.B c.off20 m
  | 7 => legalV (c.rz && c.loC && c.dA) c.ty c.mask ETy.notCb fun t m => .vstsr t c.A c.B c.off20 m
  | _ => none

/-- 2:0x6 VPERM (R100). -/
def decVperm (c : Chain) : Option Instr :=
  match c.fc with
  | 0 => legalV (c.noI && c.rz && c.loC) c.ty c.mask ETy.notCb fun t m => .vperm t c.A c.B c.D m
  | 1 => legalV (c.noI && c.rz && c.loC && c.dA) c.ty c.mask ETy.notCb fun t m => .vcompress t c.A c.B m
  | 2 => legalV (c.noI && c.rz && c.loC && c.dA) c.ty c.mask ETy.notCb fun t m => .vexpand t c.A c.B m
  | 3 => legalV (c.noI && c.rz && c.loC) c.ty c.mask ETy.notCb fun t m => .vslideup t c.A c.B c.D m
  | 4 => legalV (c.noI && c.rz && c.loC) c.ty c.mask ETy.notCb fun t m => .vslidedn t c.A c.B c.D m
  | 5 => legalV (c.noI && c.rz && c.loC && (c.mask.all MaskMod.merging)) c.ty c.mask ETy.notCb fun t m => .vsel t c.A c.B c.D m
  | 6 => legalV (c.noI && c.rz && c.loC && c.dA) c.ty c.mask ETy.notCb fun t m => .vbcast t c.A c.B m
  | 7 => legalV (c.noI && c.rz && c.loC) c.ty c.mask ETy.notCb fun t m => .vxchg t c.A c.B c.D m
  | _ => none

/-- 2:0x7 VMOVE (R100, R446, R460, R464). -/
def decVmove (c : Chain) : Option Instr :=
  match c.fc with
  | 0 => legalV (c.rz && c.loC && c.dA && c.i1) c.ty c.mask (fun t => t.notCb && (c.immU (0 : BitVec 0) 10).toNat < t.lanes)
    fun t m => .vmvxv t c.A c.B (c.immU (0 : BitVec 0) 10) m
  | 1 => legalV (c.rz && c.loC && c.dA && c.i1) c.ty c.mask (fun t => t.notCb && (c.immU (0 : BitVec 0) 10).toNat < t.lanes)
    fun t m => .vmvvx t c.A c.B (c.immU (0 : BitVec 0) 10) m
  | 2 => legalV (c.noI && c.rz && c.loC && c.dA && (c.mask.all MaskMod.merging)) c.ty c.mask (fun t => t.isInt || t.isFp) fun t m => .vredAdd t c.A c.B m
  | 3 => legalV (c.noI && c.rz && c.loC && c.dA && (c.mask.all MaskMod.merging)) c.ty c.mask (fun t => t.isInt || t.isFp) fun t m => .vredMax t c.A c.B m
  | 4 => legalV (c.noI && c.rz && c.loC && c.dA && (c.mask.all MaskMod.merging)) c.ty c.mask (fun t => t.isInt || t.isFp) fun t m => .vredMin t c.A c.B m
  | 5 => match c.imx with
    | [i] =>
      match ETy.ofCode (i.extractLsb' 0 4) with
      | some dt =>
        legalV (c.rz && c.loC && c.dA && i.extractLsb' 4 6 = 0 && dt.notCb) c.ty c.mask ETy.notCb
          fun t m => .vcvt t dt c.A c.B m
      | none => none
    | _ => none
  | _ => none

/-- 2:0x8 VSFU (R100, R449). -/
def decVsfu (c : Chain) : Option Instr :=
  match c.fc with
  | 0 => legalV (c.noI && c.rz && c.loC && c.dA) c.ty c.mask ETy.isSfu fun t m => .vexp2 t c.A c.B m
  | 1 => legalV (c.noI && c.rz && c.loC && c.dA) c.ty c.mask ETy.isSfu fun t m => .vlog2 t c.A c.B m
  | 2 => legalV (c.noI && c.rz && c.loC && c.dA) c.ty c.mask ETy.isSfu fun t m => .vrcp t c.A c.B m
  | 3 => legalV (c.noI && c.rz && c.loC && c.dA) c.ty c.mask ETy.isSfu fun t m => .vrsq t c.A c.B m
  | 4 => legalV (c.noI && c.rz && c.loC && c.dA) c.ty c.mask ETy.isSfu fun t m => .vtanh t c.A c.B m
  | 5 => legalV (c.noI && c.rz && c.loC && c.dA) c.ty c.mask ETy.isSfu fun t m => .vlgst t c.A c.B m
  | _ => none

/-- Page 2, vector (R100). -/
def decPage2 (c : Chain) : Option Instr :=
  match c.op with
  | 0 => decValu c
  | 1 => legalV (c.noI && c.rz && c.dA) c.ty c.mask ETy.notCb fun t m => .vceq t c.A c.B c.C m
  | 2 => legalV (c.noI && c.rz && c.dA) c.ty c.mask ETy.notCb fun t m => .vcne t c.A c.B c.C m
  | 3 => legalV (c.noI && c.rz && c.dA) c.ty c.mask ETy.notCb fun t m => .vclt t c.A c.B c.C m
  | 4 => legalV (c.noI && c.rz && c.dA) c.ty c.mask ETy.notCb fun t m => .vcle t c.A c.B c.C m
  | 5 => decVmem c
  | 6 => decVperm c
  | 7 => decVmove c
  | 8 => decVsfu c
  | 9 => legalV (c.noI && c.rz && c.dA && c.nc = 0 && c.loC && evenReg c.B) c.ty c.mask (fun t => t == .i32 || t == .n32)
    fun t m => .vrng t c.A c.B m
  | _ => none

/-- 3:0x3 (R101, R426). -/
def decTmem (c : Chain) : Option Instr :=
  match c.mods.toNat with
  | 0 => legalM (c.rz && c.okA && c.dA) c.mm MemMod.loadOk (.tld c.ta c.B c.C c.off20)
  | 1 => legalM (c.rz && c.okA && c.dA) c.mm MemMod.storeOk (.tst c.ta c.B c.C c.off20)
  | 2 => legalM (c.rz && c.okA && c.dA) c.mm MemMod.loadOk (.tldt c.ta c.B c.C c.off20)
  | 3 => legalM (c.rz && c.okA && c.hasR) c.mm MemMod.loadOk (.tldm c.ta c.B c.C c.D c.off20)
  | _ => none

/-- 3:0x9 ocmp (R101, R165). -/
def decOcmp (c : Chain) : Option Instr :=
  match c.mods.toNat with
  | 0 => legal (c.bare && c.okA && c.okB && c.okC) (.ocmpEq c.ta c.tb c.tc)
  | 1 => legal (c.bare && c.okA && c.okB && c.okC) (.ocmpNe c.ta c.tb c.tc)
  | 2 => legal (c.bare && c.okA && c.okB && c.okC) (.ocmpLt c.ta c.tb c.tc)
  | 3 => legal (c.bare && c.okA && c.okB && c.okC) (.ocmpLe c.ta c.tb c.tc)
  | 4 => legal (c.bare && c.okA && c.okB && c.okC) (.ocmpGt c.ta c.tb c.tc)
  | 5 => legal (c.bare && c.okA && c.okB && c.okC) (.ocmpGe c.ta c.tb c.tc)
  | 6 => legal (c.bare && c.okA && c.okB && c.okC) (.ocmpUnord c.ta c.tb c.tc)
  | 7 => legal (c.bare && c.okA && c.okB && c.okC) (.ocmpOrd c.ta c.tb c.tc)
  | 8 => legal (c.bare && c.okA && c.okB && c.okC) (.ocmpTeq c.ta c.tb c.tc)
  | 9 => legal (c.bare && c.okA && c.okB && c.okC) (.ocmpTlt c.ta c.tb c.tc)
  | 10 => legal (c.bare && c.okA && c.okB && c.okC) (.ocmpTle c.ta c.tb c.tc)
  | 11 => legal (c.bare && c.okA && c.okB && c.okC) (.ocmpTltx c.ta c.tb c.tc)
  | 12 => legal (c.bare && c.okA && c.okB && c.okC) (.ocmpTgtx c.ta c.tb c.tc)
  | _ => none

/-- 3:0xA (R101, R173). -/
def decBt2 (c : Chain) : Option Instr :=
  match c.mods.toNat with
  | 0 => legal (c.bare && c.okA && c.okB && c.okC) (.btAnd c.ta c.tb c.tc)
  | 1 => legal (c.bare && c.okA && c.okB && c.okC) (.btOr c.ta c.tb c.tc)
  | 2 => legal (c.bare && c.okA && c.okB && c.okC) (.btXor c.ta c.tb c.tc)
  | 3 => legal (c.bare && c.okA && c.okB && c.okC) (.btAndn c.ta c.tb c.tc)
  | 4 => legal (c.bare && c.okA && c.okB && c.okC) (.btComp c.ta c.tb c.tc)
  | _ => none

/-- 3:0xB (R101, R173). -/
def decBt1 (c : Chain) : Option Instr :=
  match c.mods.toNat with
  | 0 => legal (c.bare && c.okA && c.okB && c.nc = 0) (.btNot c.ta c.tb)
  | 1 => legal (c.bare && c.okA && c.okB && c.nc = 0) (.btTr c.ta c.tb)
  | 2 => legal (c.bare && c.okA && c.okB && c.nc = 0) (.btClos c.ta c.tb)
  | 3 => legal (c.bare && c.okA && c.okB && c.nc = 0) (.btClosr c.ta c.tb)
  | 4 => legal (c.bare && c.okA && c.low8 = 0) (.btId c.ta)
  | 5 => legal (c.bare && c.okA && c.low8 = 0) (.btZero c.ta)
  | _ => none

/-- 3:0xC (R101, R173). -/
def decBtx (c : Chain) : Option Instr :=
  match c.mods.toNat with
  | 0 => legal (c.noM && c.noI && c.rz && c.nc = 0 && c.loC && c.dA && c.okB) (.btPopr c.A c.tb)
  | 1 => legal (c.noM && c.noI && c.rz && c.nc = 0 && c.loC && c.dA && c.okB) (.btPopc c.A c.tb)
  | 2 => legal (c.noM && c.noI && c.rz && c.nc = 0 && c.loC && c.dA && c.okB) (.btMvbv c.A c.tb)
  | 3 => legal (c.noM && c.noI && c.rz && c.nc = 0 && c.loC && c.dA && c.okA) (.btMvvb c.ta c.B)
  | 4 => legalM (c.rz && c.nc = 0 && c.loC && c.dA && c.okA) c.mm MemMod.loadOk (.btLd c.ta c.B c.off20)
  | 5 => legalM (c.rz && c.nc = 0 && c.loC && c.dA && c.okA) c.mm MemMod.storeOk (.btSt c.ta c.B c.off20)
  | _ => none

/-- Page 3, tiles and bit tiles (R101). -/
def decPage3 (c : Chain) : Option Instr :=
  match c.op with
  | 0 => legal (c.mods = 0 && c.plain && c.dA && c.okB) (.tcfg c.A c.tb c.C)
  | 1 => legal (c.mods = 0 && c.plain && c.dA && c.okB) (.tcfgr c.A c.tb c.C)
  | 2 => legal (c.mods = 0 && c.bare && c.na = 0 && c.nc = 0 && c.nb ≤ 11) (.trel c.nb)
  | 3 => decTmem c
  | 4 => match c.mask with
    | some m => legal (c.mods = 0 && c.noR && c.noI && c.okA) (.tmvVr c.ta c.nb c.nc m)
    | none => none
  | 5 => match c.mask with
    | some m => legal (c.mods = 0 && c.noR && c.noI && c.okA) (.tmvRv c.ta c.nb c.nc m)
    | none => none
  | 6 => match c.mask with
    | some m => legal (c.mods = 0 && c.noR && c.noI && c.okA) (.tmvVc c.ta c.nb c.nc m)
    | none => none
  | 7 => match c.mask with
    | some m => legal (c.mods = 0 && c.noR && c.noI && c.okA) (.tmvCv c.ta c.nb c.nc m)
    | none => none
  | 8 => match c.mods.toNat with
    | 0 => legal (c.bare && c.okA && c.low8 = 0) (.tzero c.ta)
    | 1 => legal (c.bare && c.okA && c.okB && c.nc = 0) (.tcomp24 c.ta c.tb)
    | 3 => legal (c.bare && c.okA && c.okB && c.nc = 0) (.tcomp48 c.ta c.tb)
    | _ => none
  | 9 => decOcmp c
  | 10 => decBt2 c
  | 11 => decBt1 c
  | 12 => decBtx c
  | 13 => if c.mods = 0 then legal (c.noM && c.rz && c.dA && c.loA && c.nc = 0 && c.loC && c.na ≤ 11) (.tsv c.na c.B c.off20)
    else if c.mods = 1 then legal (c.noM && c.rz && c.dA && c.loA && c.nc = 0 && c.loC && c.na ≤ 11) (.trs c.na c.B c.off20) else none
  | _ => none

namespace Chain

variable (c : Chain)

/-- d of the matrix forms: 0 without RGX (R103). -/
def dz : BitVec 5 := if c.hasR then c.D else 0
/-- The B codebook slot: the A slot without RGX (R103). -/
def kb : BitVec 2 := if c.hasR then c.D.extractLsb' 0 2 else c.hiA
def cbOk : Bool := c.dz.extractLsb' 2 3 = 0
/-- Four scale registers: RGX required, d a multiple of 4 and at least 4 (R102). -/
def four : Bool := c.hasR && fourReg c.D && c.D != 0

end Chain

/-- 4:0x0 mma (R102, R103, R148). -/
noncomputable def decMma (c : Chain) : Option Instr :=
  match c.mods.toNat with
  | 0 => legal (c.plain && c.hiA = 0 && c.loA && c.okB && c.okC && fourReg c.dz) (.mmaE4e4 c.acc c.tb c.tc c.dz)
  | 1 => legal (c.plain && c.hiA = 0 && c.loA && c.okB && c.okC && fourReg c.dz) (.mmaE4e5 c.acc c.tb c.tc c.dz)
  | 2 => legal (c.plain && c.hiA = 0 && c.loA && c.okB && c.okC && fourReg c.dz) (.mmaE5e4 c.acc c.tb c.tc c.dz)
  | 3 => legal (c.plain && c.hiA = 0 && c.loA && c.okB && c.okC && fourReg c.dz) (.mmaE5e5 c.acc c.tb c.tc c.dz)
  | 4 => legal (c.plain && c.hiA = 0 && c.loA && c.okB && c.okC && c.dz = 0) (.mmaBfbf c.acc c.tb c.tc)
  | 5 => legal (c.plain && c.hiA = 0 && c.loA && c.okB && c.okC && c.dz = 0) (.mmaHfhf c.acc c.tb c.tc)
  | 6 => legal (c.plain && c.hiA = 0 && c.loA && c.okB && c.okC && c.dz = 0) (.mmaF32 c.acc c.tb c.tc)
  | 7 => legal (c.plain && c.hiA = 0 && c.loA && c.okB && c.okC && fourReg c.dz) (.mmaI8i8 c.acc c.tb c.tc c.dz)
  | 8 => legal (c.plain && c.hiA = 0 && c.loA && c.okB && c.okC && fourReg c.dz) (.mmaI8n8 c.acc c.tb c.tc c.dz)
  | 9 => legal (c.plain && c.loA && c.okB && c.okC && c.cbOk) (.mmaCbcb c.acc c.tb c.tc c.hiA c.kb)
  | 10 => legal (c.plain && c.loA && c.okB && c.okC && c.dz = 0 && evenReg c.tc) (.mmaCbe4 c.acc c.tb c.tc c.hiA)
  | 11 => legal (c.plain && c.loA && c.okB && c.okC && c.dz = 0 && fourReg c.tc) (.mmaCbbf c.acc c.tb c.tc c.hiA)
  | 12 => legal (c.plain && c.hiA = 0 && c.loA && c.okB && c.okC && fourReg c.dz && c.dz != 0) (.mmaMx8 c.acc c.tb c.tc c.dz)
  | 13 => legal (c.plain && c.hiA = 0 && c.loA && c.okB && c.okC && fourReg c.dz && c.dz != 0) (.mmaMx6 c.acc c.tb c.tc c.dz)
  | 14 => legal (c.plain && c.hiA = 0 && c.loA && c.okB && c.okC && fourReg c.dz && c.dz != 0) (.mmaMx4 c.acc c.tb c.tc c.dz)
  | 15 => legal (c.plain && c.hiA = 0 && c.loA && c.okB && c.okC && fourReg c.dz && c.dz != 0) (.mmaMxi8 c.acc c.tb c.tc c.dz)
  | _ => none

/-- 4:0x1 smma (R102, R103, R419). -/
noncomputable def decSmma (c : Chain) : Option Instr :=
  match c.mods.toNat with
  | 0 => legal (c.plain && c.hiA = 0 && c.loA && c.okB && c.okC && evenReg c.tb && evenReg c.tc && fourReg c.dz) (.smmaE4e4 c.acc c.tb c.tc c.dz)
  | 1 => legal (c.plain && c.hiA = 0 && c.loA && c.okB && c.okC && evenReg c.tb && evenReg c.tc && c.dz = 0) (.smmaBfbf c.acc c.tb c.tc)
  | 2 => legal (c.plain && c.hiA = 0 && c.loA && c.okB && c.okC && evenReg c.tb && evenReg c.tc && fourReg c.dz) (.smmaI8i8 c.acc c.tb c.tc c.dz)
  | 3 => legal (c.plain && c.loA && c.okB && c.okC && evenReg c.tb && evenReg c.tc && c.cbOk) (.smmaCbcb c.acc c.tb c.tc c.hiA c.kb)
  | _ => none

/-- 4:0x2 (R102). -/
noncomputable def decM2 (c : Chain) : Option Instr :=
  match c.mods.toNat with
  | 0 => legal (c.bare && c.hiA = 0 && c.low8 = 0) (.mzero c.acc)
  | 1 => match ETy.ofCode c.nc with
    | some t => legal (c.bare && c.okA && c.hiB = 0 && t.isDrain) (.mdrain t c.ta c.accB)
    | none => none
  | 2 => legal (c.plain && c.okA && c.loB && c.okC && c.hiB != 3 && c.four) (.mdraint c.hiB c.ta c.accB c.tc c.D)
  | 3 => legal (c.plain && c.hiA = 0 && c.loA && c.nc = 0 && c.loC && c.dA) (.mcb c.acc c.B)
  | 4 => legal (c.bare && c.base.extractLsb' 0 12 = 0) .msync
  | 5 => legal (c.plain && c.dA && c.loB && c.loC && c.low8 = 0) (.mqs c.A)
  | 6 => legal (c.plain && c.dA && c.loA && c.loB && c.loC && c.low8 = 0) (.mpush c.na)
  | _ => none

/-- Page 4, matrix engine (R102). -/
noncomputable def decPage4 (c : Chain) : Option Instr :=
  match c.op with
  | 0 => decMma c
  | 1 => decSmma c
  | 2 => decM2 c
  | 3 => legal (c.mods = 0 && c.plain && c.okA && c.loB && c.hiB = 0 && c.nc = 0 && c.loC && c.four) (.mdrainMx c.ta c.accB c.D)
  | _ => none

/-- 5:0x0 amo (R104, R332). -/
noncomputable def decAmo (c : Chain) : Option Instr :=
  match c.fc with
  | 0 => legalM (c.rz && c.loC && c.mods.extractLsb' 1 3 = 0) c.mm MemMod.plainOk (.amoadd (c.mods.getLsbD 0) c.A c.B c.D c.off20)
  | 1 => legalM (c.rz && c.loC && c.mods.extractLsb' 1 3 = 0) c.mm MemMod.plainOk (.amoswap (c.mods.getLsbD 0) c.A c.B c.D c.off20)
  | 2 => legalM (c.rz && c.loC && c.mods.extractLsb' 1 3 = 0) c.mm MemMod.plainOk (.amocas (c.mods.getLsbD 0) c.A c.B c.D c.off20)
  | 3 => legalM (c.rz && c.loC && c.mods.extractLsb' 1 3 = 0) c.mm MemMod.plainOk (.amoand (c.mods.getLsbD 0) c.A c.B c.D c.off20)
  | 4 => legalM (c.rz && c.loC && c.mods.extractLsb' 1 3 = 0) c.mm MemMod.plainOk (.amoor (c.mods.getLsbD 0) c.A c.B c.D c.off20)
  | 5 => legalM (c.rz && c.loC && c.mods.extractLsb' 1 3 = 0) c.mm MemMod.plainOk (.amoxor (c.mods.getLsbD 0) c.A c.B c.D c.off20)
  | 6 => legalM (c.rz && c.loC && c.mods.extractLsb' 1 3 = 0) c.mm MemMod.plainOk (.amomin (c.mods.getLsbD 0) c.A c.B c.D c.off20)
  | 7 => legalM (c.rz && c.loC && c.mods.extractLsb' 1 3 = 0) c.mm MemMod.plainOk (.amomax (c.mods.getLsbD 0) c.A c.B c.D c.off20)
  | 8 => legalM (c.rz && c.loC && c.mods.extractLsb' 1 3 = 0) c.mm MemMod.plainOk (.amominu (c.mods.getLsbD 0) c.A c.B c.D c.off20)
  | 9 => legalM (c.rz && c.loC && c.mods.extractLsb' 1 3 = 0) c.mm MemMod.plainOk (.amomaxu (c.mods.getLsbD 0) c.A c.B c.D c.off20)
  | 10 => legalM (c.rz && c.loC && c.mods.extractLsb' 1 3 = 0) c.mm MemMod.plainOk (.amofadd (c.mods.getLsbD 0) c.A c.B c.D c.off20)
  | _ => none

/-- 5:0x2 bar (R104, R201). -/
noncomputable def decBar (c : Chain) : Option Instr :=
  match c.fc with
  | 0 => legal (c.plain && c.dA && c.loC && c.nb = 0 && c.loB) (.barArr c.A)
  | 1 => legal (c.plain && c.dA && c.loC && c.nb = 0 && c.loB) (.barWait c.A)
  | 2 => legal (c.plain && c.dA && c.loC && c.nb = 0 && c.loB) (.barSync c.A)
  | 3 => legal (c.plain && c.dA && c.loC) (.barCfg c.A c.B)
  | _ => none

/-- 5:0x3 wbar (R104). -/
noncomputable def decWbar (c : Chain) : Option Instr :=
  match c.fc with
  | 0 => legal (c.bare && c.na = 0 && c.nb = 0) .wbarRow
  | 1 => legal (c.bare && c.na = 0 && c.nb = 0) .wbarCol
  | 2 => legal (c.bare && c.na = 0 && c.nb = 0) .wbarRc
  | _ => none

/-- 5:0x4 channels (R104). -/
noncomputable def decChan (c : Chain) : Option Instr :=
  match c.fc with
  | 0 => legal (c.plain && c.dA && c.loC) (.send c.A c.B)
  | 1 => legal (c.plain && c.dA && c.loC) (.recv c.A c.B)
  | 2 => legal (c.plain && c.dA && c.loC) (.sendv c.A c.B)
  | 3 => legal (c.plain && c.dA && c.loC) (.recvv c.A c.B)
  | 4 => legal (c.plain && c.loC && c.hasR) (.recvt c.A c.B c.D)
  | _ => none

/-- 5:0x5 queue registers (R104). -/
noncomputable def decQ (c : Chain) : Option Instr :=
  match c.fc with
  | 0 => legal (c.plain && c.dA && c.loC && c.okB) (.qw c.A c.tb)
  | 1 => legal (c.plain && c.dA && c.loC && c.okB) (.qr c.A c.tb)
  | 2 => legal (c.plain && c.loC && c.hasR && c.okB) (.qtr c.A c.tb c.D)
  | _ => none

/-- 5:0x6 slice queues (R104, R421). -/
noncomputable def decSq (c : Chain) : Option Instr :=
  match c.fc with
  | 0 => legalM (c.rz && c.loC && c.dA) c.mm MemMod.plainOk (.sqenq c.A c.B c.off20)
  | 1 => legalM (c.rz && c.loC && c.dA) c.mm MemMod.plainOk (.sqdeq c.A c.B c.off20)
  | _ => none

/-- 5:0x7 proposal regions (R104, R231). -/
noncomputable def decProp (c : Chain) : Option Instr :=
  match c.fc with
  | 0 => legal (c.plain && c.dA && c.loC && c.A = 0 && c.B = 0) .propBegin
  | 1 => legal (c.plain && c.dA && c.loC) (.propEnd c.A c.B)
  | 2 => legal (c.plain && c.dA && c.loC && c.A = 0 && c.B = 0) .propPass
  | 3 => legal (c.plain && c.dA && c.loC && c.A = 0 && c.B = 0) .propSerial
  | 4 => legal (c.plain && c.dA && c.loC && c.B = 0) (.propStat c.A)
  | _ => none

/-- Page 5, synchronisation and communication (R104). -/
noncomputable def decPage5 (c : Chain) : Option Instr :=
  match c.op with
  | 0 => decAmo c
  | 1 => if c.mods = 0 ∧ c.fc < 6 then
      legalM (c.rz && c.loC && c.dA) c.mm MemMod.loadOk (.wait c.A c.B (c.nc.extractLsb' 0 3) c.off20) else none
  | 2 => if c.mods = 0 then decBar c else none
  | 3 => if c.mods = 0 then decWbar c else none
  | 4 => if c.mods = 0 then decChan c else none
  | 5 => if c.mods = 0 then decQ c else none
  | 6 => if c.mods = 0 then decSq c else none
  | 7 => if c.mods = 0 then decProp c else none
  | 8 => legal (c.mods = 0 && c.plain && c.dA && c.loC && c.nc = 0 && evenReg c.B && c.A != c.B && c.A != c.B + 1) (.rng c.A c.B)
  | 9 => legal (c.mods = 0 && c.bare && c.base.extractLsb' 0 12 = 0) .sstep
  | 10 => if c.mods = 0 then
      (if c.nc = 0 then legal (c.plain && c.dA && c.loC) (.troupeJoin c.A c.B)
       else if c.nc = 1 then legal (c.plain && c.dA && c.loC && c.A = 0 && c.B = 0) .troupeSplit else none) else none
  | _ => none

/-- 6:0x0 copy engine (R105, R346). -/
noncomputable def decCe (c : Chain) : Option Instr :=
  match c.fc with
  | 0 => legal (c.plain && c.dA && c.loC) (.ceW c.A c.B)
  | 1 => legal (c.plain && c.dA && c.loC) (.ceArm c.A c.B)
  | 2 => legal (c.plain && c.dA && c.loC && c.B = 0) (.ceStat c.A)
  | 3 => legal (c.plain && c.dA && c.loC && c.A = 0 && c.B = 0) .ceStop
  | _ => none

/-- 6:0x1 launch (R105, R276, R395). -/
noncomputable def decLaunch (c : Chain) : Option Instr :=
  match c.fc with
  | 0 => legal (c.plain && c.dA && c.loC) (.launch c.A c.B)
  | 1 => legal (c.plain && c.dA && c.loC) (.shape c.A c.B)
  | 2 => legal (c.plain && c.dA && c.loC && c.A = 0 && c.B = 0) .pieceEnd
  | _ => none

/-- Page 6, engines and launch (R105). -/
noncomputable def decPage6 (c : Chain) : Option Instr :=
  match c.op with
  | 0 => if c.mods = 0 then decCe c else none
  | 1 => if c.mods = 0 then decLaunch c else none
  | _ => none

/-- The instruction of a chain; `none` for every chain that R91 makes illegal. -/
noncomputable def decodeChain (c : Chain) : Option Instr :=
  match c.page.toNat with
  | 0 => decPage0 c
  | 1 => if c.mods = 0 then decPage1 c else none
  | 2 => decPage2 c
  | 3 => decPage3 c
  | 4 => decPage4 c
  | 5 => decPage5 c
  | 6 => decPage6 c
  | _ => none

/-- Decode a run of parcels: the instruction and its length in parcels (R82, R91). -/
noncomputable def decodeParcels (ps : List Parcel) : Option (Instr × Nat) :=
  match scanFrom Scan.start ps with
  | some (.done c n) => (decodeChain c).map fun i => (i, n)
  | _ => none

/-- Parcels of little-endian bytes in ascending address order (R2); an odd last byte is dropped. -/
def parcelsOf : List Byte → List Parcel
  | lo :: hi :: rest => (hi ++ lo) :: parcelsOf rest
  | _ => []

/-- Decode bytes in ascending address order. -/
noncomputable def decodeBytes (bs : List Byte) : Option (Instr × Nat) := decodeParcels (parcelsOf bs)

/-- The 16-bit pieces of a number, the least significant first. -/
def piecesOf : Nat → Nat → List Parcel
  | 0, _ => []
  | k + 1, w => BitVec.ofNat 16 w :: piecesOf k (w / 65536)

/-- A table word as parcels in ascending address order: the base parcel ends a chain, and the table writes the
first parcel leftmost (0xF810_0000), so a number whose lowest piece is no prefix parcel is read from its highest
piece down; one whose lowest piece is a prefix parcel is read from the lowest up (entry 8). -/
def tableParcels (nbits w : Nat) : List Parcel :=
  let ps := piecesOf ((nbits + 15) / 16) w
  match ps with
  | p :: _ => if p.extractLsb' 12 4 = 0xF then ps else ps.reverse
  | [] => []

/-- The instruction that the decoder reads from an opcode-table word. -/
noncomputable def decodeTableWord (nbits w : Nat) : Option Instr :=
  (decodeParcels (tableParcels nbits w)).map Prod.fst
/-! The encoder, from the same tables. An absent optional prefix is left out and RGX stands only where a register
number needs it, where the form requires it, or where `add x0, x0, x0` would read as `nop` (R92). -/

/-- Five bits of a narrower register field. -/
def wide (r : BitVec n) : BitVec 5 := r.zeroExtend 5

/-- A signed immediate of `k` base bits as IMX payloads, the fewest that hold it (R84). -/
def imxS (k : Nat) (v : BitVec n) : List (BitVec 10) :=
  if (v.truncate k).signExtend n = v then []
  else if (v.truncate (k + 10)).signExtend n = v then [v.extractLsb' k 10]
  else [v.extractLsb' (k + 10) 10, v.extractLsb' k 10]

/-- The same for an unsigned immediate. -/
def imxU (k : Nat) (v : BitVec n) : List (BitVec 10) :=
  if (v.truncate k).zeroExtend n = v then []
  else if (v.truncate (k + 10)).zeroExtend n = v then [v.extractLsb' k 10]
  else [v.extractLsb' (k + 10) 10, v.extractLsb' k 10]

/-- The memory form of MOD; left out for a plain access (R88). -/
def MemMod.bits (m : MemMod) : Option (BitVec 10) :=
  if m = MemMod.none then Option.none
  else
    let o : BitVec 2 := match m.order with
      | .plain => 0 | .acquire => 1 | .release => 2 | .acqRel => 3
    some (m.scope ++ o ++ m.hint ++ (0 : BitVec 3))

/-- The mask form of MOD (R89). -/
def MaskMod.bits : MaskMod → Option (BitVec 10)
  | .all => none
  | .lanes r z => some ((0 : BitVec 4) ++ BitVec.ofBool z ++ r)

/-- RGX, when a register needs it or the form asks for it (R85). -/
def rgxOf (force : Bool) (a b c : BitVec 5) (d : Option (BitVec 5)) : Option (BitVec 10) :=
  let dv := d.getD a
  if force || high a || high b || high c || dv != a then
    some (a.extractLsb' 4 1 ++ b.extractLsb' 4 1 ++ c.extractLsb' 4 1 ++ dv ++ (0 : BitVec 2))
  else none

/-- A base parcel from op and the three nibbles. -/
def baseOf (op : Nat) (a b c : BitVec 5) : Parcel :=
  BitVec.ofNat 4 op ++ a.truncate 4 ++ b.truncate 4 ++ c.truncate 4

/-- The low byte of a 28-bit immediate as the fields b and c. -/
def nibB (v : BitVec n) : BitVec 5 := wide (v.extractLsb' 4 4)
def nibC (v : BitVec n) : BitVec 5 := wide (v.extractLsb' 0 4)

/-- A chain of registers, with d where the form gives it a role. -/
def chain (page : Nat) (mods : BitVec 4) (op : Nat) (a b c : BitVec 5) (d : Option (BitVec 5)) (force : Bool)
    (mod : Option (BitVec 10)) (imx : List (BitVec 10)) : Chain :=
  ⟨BitVec.ofNat 6 page, mods, rgxOf force a b c d, mod, imx, baseOf op a b c⟩

/-- A chain whose fields name no register: no RGX. -/
def flat (page : Nat) (mods : BitVec 4) (op : Nat) (a b c : BitVec 5) (mod : Option (BitVec 10))
    (imx : List (BitVec 10)) : Chain :=
  ⟨BitVec.ofNat 6 page, mods, none, mod, imx, baseOf op a b c⟩

/-- A matrix form with four scale registers at `sc`; 0 is the form without RGX (R103). -/
def scaled (mods : BitVec 4) (op : Nat) (n : AReg) (t u : TReg) (sc : XReg) : Chain :=
  chain 4 mods op (wide n) (wide t) (wide u) (if sc = 0 then none else some sc) (sc != 0) none []

/-- A matrix form with two codebook slots (R103). -/
def booked (mods : BitVec 4) (op : Nat) (n : AReg) (t u : TReg) (ka kb : KReg) : Chain :=
  chain 4 mods op (wide (ka ++ n)) (wide t) (wide u) (if kb = ka then none else some (wide kb)) (kb != ka) none []

/-- The chain of an instruction; an event has none (R81). -/
def toChain : Instr → Option Chain
  | .add a b d => some (chain 0 0 0 a b 0 (some d) (a == 0 && b == 0 && d == 0) none [])
  | .sub a b d => some (chain 0 0 0 a b 1 (some d) false none [])
  | .and a b d => some (chain 0 0 0 a b 2 (some d) false none [])
  | .or a b d => some (chain 0 0 0 a b 3 (some d) false none [])
  | .xor a b d => some (chain 0 0 0 a b 4 (some d) false none [])
  | .sll a b d => some (chain 0 0 0 a b 5 (some d) false none [])
  | .srl a b d => some (chain 0 0 0 a b 6 (some d) false none [])
  | .sra a b d => some (chain 0 0 0 a b 7 (some d) false none [])
  | .mul a b d => some (chain 0 0 0 a b 8 (some d) false none [])
  | .mulh a b d => some (chain 0 0 0 a b 9 (some d) false none [])
  | .mulhu a b d => some (chain 0 0 0 a b 10 (some d) false none [])
  | .div a b d => some (chain 0 0 0 a b 11 (some d) false none [])
  | .divu a b d => some (chain 0 0 0 a b 12 (some d) false none [])
  | .rem a b d => some (chain 0 0 0 a b 13 (some d) false none [])
  | .remu a b d => some (chain 0 0 0 a b 14 (some d) false none [])
  | .nop => some (flat 0 0 0 0 0 0 none [])
  | .slt a b d => some (chain 0 0 1 a b 0 (some d) false none [])
  | .sltu a b d => some (chain 0 0 1 a b 1 (some d) false none [])
  | .seq a b d => some (chain 0 0 1 a b 2 (some d) false none [])
  | .sne a b d => some (chain 0 0 1 a b 3 (some d) false none [])
  | .min a b d => some (chain 0 0 1 a b 4 (some d) false none [])
  | .max a b d => some (chain 0 0 1 a b 5 (some d) false none [])
  | .minu a b d => some (chain 0 0 1 a b 6 (some d) false none [])
  | .maxu a b d => some (chain 0 0 1 a b 7 (some d) false none [])
  | .cselZ a b d => some (chain 0 0 1 a b 8 (some d) false none [])
  | .cselNz a b d => some (chain 0 0 1 a b 9 (some d) false none [])
  | .clz a b => some (chain 0 0 1 a b 10 none false none [])
  | .ctz a b => some (chain 0 0 1 a b 11 none false none [])
  | .popc a b => some (chain 0 0 1 a b 12 none false none [])
  | .rev8 a b => some (chain 0 0 1 a b 13 none false none [])
  | .sextW a b => some (chain 0 0 1 a b 14 none false none [])
  | .zextW a b => some (chain 0 0 1 a b 15 none false none [])
  | .addi a d i => some (chain 0 0 2 a 0 (nibC i) (some d) false none (imxS 4 i))
  | .andi a d i => some (chain 0 0 2 a 1 (nibC i) (some d) false none (imxS 4 i))
  | .ori a d i => some (chain 0 0 2 a 2 (nibC i) (some d) false none (imxS 4 i))
  | .xori a d i => some (chain 0 0 2 a 3 (nibC i) (some d) false none (imxS 4 i))
  | .slti a d i => some (chain 0 0 2 a 7 (nibC i) (some d) false none (imxS 4 i))
  | .sltiu a d i => some (chain 0 0 2 a 8 (nibC i) (some d) false none (imxS 4 i))
  | .muli a d i => some (chain 0 0 2 a 9 (nibC i) (some d) false none (imxS 4 i))
  | .seqi a d i => some (chain 0 0 2 a 12 (nibC i) (some d) false none (imxS 4 i))
  | .mini a d i => some (chain 0 0 2 a 13 (nibC i) (some d) false none (imxS 4 i))
  | .maxi a d i => some (chain 0 0 2 a 14 (nibC i) (some d) false none (imxS 4 i))
  | .slli a d i => some (chain 0 0 2 a 4 (nibC i) (some d) false none (imxU 4 i))
  | .srli a d i => some (chain 0 0 2 a 5 (nibC i) (some d) false none (imxU 4 i))
  | .srai a d i => some (chain 0 0 2 a 6 (nibC i) (some d) false none (imxU 4 i))
  | .lsi a d i => some (chain 0 0 2 a 11 (nibC i) (some d) false none (imxU 4 i))
  | .mort3 a d i => some (chain 0 0 2 a 15 (nibC i) (some d) false none (imxU 4 i))
  | .li a i => some (chain 0 0 2 a 10 (nibC i) none false none (imxS 4 i))
  | .lb a b i mm => some (chain 0 0 3 a b 0 none false (mm.bits) (imxS 0 i))
  | .lbu a b i mm => some (chain 0 0 3 a b 1 none false (mm.bits) (imxS 0 i))
  | .lh a b i mm => some (chain 0 0 3 a b 2 none false (mm.bits) (imxS 0 i))
  | .lhu a b i mm => some (chain 0 0 3 a b 3 none false (mm.bits) (imxS 0 i))
  | .lw a b i mm => some (chain 0 0 3 a b 4 none false (mm.bits) (imxS 0 i))
  | .lwu a b i mm => some (chain 0 0 3 a b 5 none false (mm.bits) (imxS 0 i))
  | .ld a b i mm => some (chain 0 0 3 a b 6 none false (mm.bits) (imxS 0 i))
  | .ldf a b i mm => some (chain 0 0 3 a b 7 none false (mm.bits) (imxS 0 i))
  | .ldfe a b i mm => some (chain 0 0 3 a b 8 none false (mm.bits) (imxS 0 i))
  | .sb a b i mm => some (chain 0 0 4 a b 0 none false (mm.bits) (imxS 0 i))
  | .sh a b i mm => some (chain 0 0 4 a b 1 none false (mm.bits) (imxS 0 i))
  | .sw a b i mm => some (chain 0 0 4 a b 2 none false (mm.bits) (imxS 0 i))
  | .sd a b i mm => some (chain 0 0 4 a b 3 none false (mm.bits) (imxS 0 i))
  | .sdf a b i mm => some (chain 0 0 4 a b 4 none false (mm.bits) (imxS 0 i))
  | .sfe b i mm => some (chain 0 0 4 0 b 5 none false (mm.bits) (imxS 0 i))
  | .bz a i => some (chain 0 0 5 a (nibB i) (nibC i) none false none (imxS 8 i))
  | .bnz a i => some (chain 0 0 6 a (nibB i) (nibC i) none false none (imxS 8 i))
  | .jal a i => some (chain 0 0 8 a (nibB i) (nibC i) none false none (imxS 8 i))
  | .la a i => some (chain 0 0 14 a (nibB i) (nibC i) none false none (imxS 8 i))
  | .beq a b i => some (chain 0 0 7 a b 0 none false none (if i = 0 then [0] else imxS 0 i))
  | .bne a b i => some (chain 0 0 7 a b 1 none false none (if i = 0 then [0] else imxS 0 i))
  | .blt a b i => some (chain 0 0 7 a b 2 none false none (if i = 0 then [0] else imxS 0 i))
  | .bge a b i => some (chain 0 0 7 a b 3 none false none (if i = 0 then [0] else imxS 0 i))
  | .bltu a b i => some (chain 0 0 7 a b 4 none false none (if i = 0 then [0] else imxS 0 i))
  | .bgeu a b i => some (chain 0 0 7 a b 5 none false none (if i = 0 then [0] else imxS 0 i))
  | .jalr a b i => some (chain 0 0 9 a b (nibC i) none false none (imxS 4 i))
  | .skipZ a n => some (chain 0 0 10 a 0 (wide n) none false none [])
  | .skipNz a n => some (chain 0 0 10 a 1 (wide n) none false none [])
  | .skipLt a n => some (chain 0 0 10 a 2 (wide n) none false none [])
  | .skipGe a n => some (chain 0 0 10 a 3 (wide n) none false none [])
  | .loop a n => some (chain 0 0 11 a (wide n) 0 none false none [])
  | .rep a n s => some (chain 0 0 11 a (wide n) (wide s) none false none [])
  | .csrr a i => some (chain 0 0 12 a 0 (nibC i) none false none (imxU 4 i))
  | .csrw a i => some (chain 0 0 12 a 1 (nibC i) none false none (imxU 4 i))
  | .csrs a i => some (chain 0 0 12 a 2 (nibC i) none false none (imxU 4 i))
  | .csrc a i => some (chain 0 0 12 a 3 (nibC i) none false none (imxU 4 i))
  | .csrx a d i => some (chain 0 0 12 a 4 (nibC i) (some d) false none (imxU 4 i))
  | .trap i => some (flat 0 0 13 0 (nibB i) (nibC i) none (imxU 8 i))
  | .brk i => some (flat 0 0 13 4 (nibB i) (nibC i) none (imxU 8 i))
  | .safe i => some (flat 0 0 13 8 (nibB i) (nibC i) none (imxU 8 i))
  | .rti => some (flat 0 0 13 1 0 0 none [])
  | .yield => some (flat 0 0 13 2 0 0 none [])
  | .halt => some (flat 0 0 13 3 0 0 none [])
  | .fenceI => some (flat 0 0 13 6 0 0 none [])
  | .idle => some (flat 0 0 13 7 0 0 none [])
  | .fence s => some (flat 0 0 13 5 0 (wide s) none [])
  | .faddS a b d => some (chain 1 0 0 a b 0 (some d) false none [])
  | .fsubS a b d => some (chain 1 0 0 a b 1 (some d) false none [])
  | .fmulS a b d => some (chain 1 0 0 a b 2 (some d) false none [])
  | .fdivS a b d => some (chain 1 0 0 a b 3 (some d) false none [])
  | .fminS a b d => some (chain 1 0 0 a b 4 (some d) false none [])
  | .fmaxS a b d => some (chain 1 0 0 a b 5 (some d) false none [])
  | .fsqrtS a b => some (chain 1 0 0 a b 6 none false none [])
  | .fmaS a b d => some (chain 1 0 0 a b 7 (some d) false none [])
  | .faddD a b d => some (chain 1 0 1 a b 0 (some d) false none [])
  | .fsubD a b d => some (chain 1 0 1 a b 1 (some d) false none [])
  | .fmulD a b d => some (chain 1 0 1 a b 2 (some d) false none [])
  | .fdivD a b d => some (chain 1 0 1 a b 3 (some d) false none [])
  | .fminD a b d => some (chain 1 0 1 a b 4 (some d) false none [])
  | .fmaxD a b d => some (chain 1 0 1 a b 5 (some d) false none [])
  | .fsqrtD a b => some (chain 1 0 1 a b 6 none false none [])
  | .fmaD a b d => some (chain 1 0 1 a b 7 (some d) false none [])
  | .feqS a b d => some (chain 1 0 2 a b 0 (some d) false none [])
  | .fltS a b d => some (chain 1 0 2 a b 1 (some d) false none [])
  | .fleS a b d => some (chain 1 0 2 a b 2 (some d) false none [])
  | .feqD a b d => some (chain 1 0 2 a b 3 (some d) false none [])
  | .fltD a b d => some (chain 1 0 2 a b 4 (some d) false none [])
  | .fleD a b d => some (chain 1 0 2 a b 5 (some d) false none [])
  | .fclassS a b => some (chain 1 0 2 a b 6 none false none [])
  | .fclassD a b => some (chain 1 0 2 a b 7 none false none [])
  | .fcvtSD a b => some (chain 1 0 3 a b 0 none false none [])
  | .fcvtDS a b => some (chain 1 0 3 a b 1 none false none [])
  | .fcvtSL a b => some (chain 1 0 3 a b 2 none false none [])
  | .fcvtLS a b => some (chain 1 0 3 a b 3 none false none [])
  | .fcvtDL a b => some (chain 1 0 3 a b 4 none false none [])
  | .fcvtLD a b => some (chain 1 0 3 a b 5 none false none [])
  | .fcvtSBf a b => some (chain 1 0 3 a b 6 none false none [])
  | .fcvtBfS a b => some (chain 1 0 3 a b 7 none false none [])
  | .fcvtSHf a b => some (chain 1 0 3 a b 8 none false none [])
  | .fcvtHfS a b => some (chain 1 0 3 a b 9 none false none [])
  | .fcvtSE4 a b => some (chain 1 0 3 a b 10 none false none [])
  | .fcvtE4S a b => some (chain 1 0 3 a b 11 none false none [])
  | .fcvtSE5 a b => some (chain 1 0 3 a b 12 none false none [])
  | .fcvtE5S a b => some (chain 1 0 3 a b 13 none false none [])
  | .fcvtSW a b => some (chain 1 0 3 a b 14 none false none [])
  | .fcvtWS a b => some (chain 1 0 3 a b 15 none false none [])
  | .fexp2 a b => some (chain 1 0 4 a b 0 none false none [])
  | .flog2 a b => some (chain 1 0 4 a b 1 none false none [])
  | .frcp a b => some (chain 1 0 4 a b 2 none false none [])
  | .frsq a b => some (chain 1 0 4 a b 3 none false none [])
  | .fsin a b => some (chain 1 0 4 a b 4 none false none [])
  | .fcos a b => some (chain 1 0 4 a b 5 none false none [])
  | .ftanh a b => some (chain 1 0 4 a b 6 none false none [])
  | .flgst a b => some (chain 1 0 4 a b 7 none false none [])
  | .vadd t a b d m => some (chain 2 t.code 0 a b 0 (some d) false m.bits [])
  | .vsub t a b d m => some (chain 2 t.code 0 a b 1 (some d) false m.bits [])
  | .vmul t a b d m => some (chain 2 t.code 0 a b 2 (some d) false m.bits [])
  | .vmin t a b d m => some (chain 2 t.code 0 a b 3 (some d) false m.bits [])
  | .vmax t a b d m => some (chain 2 t.code 0 a b 4 (some d) false m.bits [])
  | .vand t a b d m => some (chain 2 t.code 0 a b 5 (some d) false m.bits [])
  | .vor t a b d m => some (chain 2 t.code 0 a b 6 (some d) false m.bits [])
  | .vxor t a b d m => some (chain 2 t.code 0 a b 7 (some d) false m.bits [])
  | .vshl t a b d m => some (chain 2 t.code 0 a b 8 (some d) false m.bits [])
  | .vshr t a b d m => some (chain 2 t.code 0 a b 9 (some d) false m.bits [])
  | .vsra t a b d m => some (chain 2 t.code 0 a b 10 (some d) false m.bits [])
  | .vabs t a b m => some (chain 2 t.code 0 a b 11 none false m.bits [])
  | .vneg t a b m => some (chain 2 t.code 0 a b 12 none false m.bits [])
  | .vfma t a b d m => some (chain 2 t.code 0 a b 13 (some d) false m.bits [])
  | .vmulh t a b d m => some (chain 2 t.code 0 a b 14 (some d) false m.bits [])
  | .vdiv t a b d m => some (chain 2 t.code 0 a b 15 (some d) false m.bits [])
  | .vceq t a b c m => some (chain 2 t.code 1 a b c none false m.bits [])
  | .vcne t a b c m => some (chain 2 t.code 2 a b c none false m.bits [])
  | .vclt t a b c m => some (chain 2 t.code 3 a b c none false m.bits [])
  | .vcle t a b c m => some (chain 2 t.code 4 a b c none false m.bits [])
  | .vld t a b i m => some (chain 2 t.code 5 a b 0 none false m.bits (imxS 0 i))
  | .vst t a b i m => some (chain 2 t.code 5 a b 1 none false m.bits (imxS 0 i))
  | .vlds t a b d i m => some (chain 2 t.code 5 a b 2 (some d) true m.bits (imxS 0 i))
  | .vsts t a b d i m => some (chain 2 t.code 5 a b 3 (some d) true m.bits (imxS 0 i))
  | .vldx t a b d i m => some (chain 2 t.code 5 a b 4 (some d) true m.bits (imxS 0 i))
  | .vstx t a b d i m => some (chain 2 t.code 5 a b 5 (some d) true m.bits (imxS 0 i))
  | .vldsr t a b i m => some (chain 2 t.code 5 a b 6 none false m.bits (imxS 0 i))
  | .vstsr t a b i m => some (chain 2 t.code 5 a b 7 none false m.bits (imxS 0 i))
  | .vperm t a b d m => some (chain 2 t.code 6 a b 0 (some d) false m.bits [])
  | .vcompress t a b m => some (chain 2 t.code 6 a b 1 none false m.bits [])
  | .vexpand t a b m => some (chain 2 t.code 6 a b 2 none false m.bits [])
  | .vslideup t a b d m => some (chain 2 t.code 6 a b 3 (some d) false m.bits [])
  | .vslidedn t a b d m => some (chain 2 t.code 6 a b 4 (some d) false m.bits [])
  | .vsel t a b d m => some (chain 2 t.code 6 a b 5 (some d) false m.bits [])
  | .vbcast t a b m => some (chain 2 t.code 6 a b 6 none false m.bits [])
  | .vxchg t a b d m => some (chain 2 t.code 6 a b 7 (some d) false m.bits [])
  | .vmvxv t a b l m => some (chain 2 t.code 7 a b 0 none false m.bits (imxU 0 l))
  | .vmvvx t a b l m => some (chain 2 t.code 7 a b 1 none false m.bits (imxU 0 l))
  | .vredAdd t a b m => some (chain 2 t.code 7 a b 2 none false m.bits [])
  | .vredMax t a b m => some (chain 2 t.code 7 a b 3 none false m.bits [])
  | .vredMin t a b m => some (chain 2 t.code 7 a b 4 none false m.bits [])
  | .vcvt t dt a b m => some (chain 2 t.code 7 a b 5 none false m.bits [(0 : BitVec 6) ++ dt.code])
  | .vexp2 t a b m => some (chain 2 t.code 8 a b 0 none false m.bits [])
  | .vlog2 t a b m => some (chain 2 t.code 8 a b 1 none false m.bits [])
  | .vrcp t a b m => some (chain 2 t.code 8 a b 2 none false m.bits [])
  | .vrsq t a b m => some (chain 2 t.code 8 a b 3 none false m.bits [])
  | .vtanh t a b m => some (chain 2 t.code 8 a b 4 none false m.bits [])
  | .vlgst t a b m => some (chain 2 t.code 8 a b 5 none false m.bits [])
  | .vrng t a b m => some (chain 2 t.code 9 a b 0 none false m.bits [])
  | .tcfg a t c => some (chain 3 0 0 a (wide t) c none false none [])
  | .tcfgr a t c => some (chain 3 0 1 a (wide t) c none false none [])
  | .trel r => some (flat 3 0 2 0 (wide r) 0 none [])
  | .tld t b c i mm => some (chain 3 0 3 (wide t) b c none false (mm.bits) (imxS 0 i))
  | .tst t b c i mm => some (chain 3 1 3 (wide t) b c none false (mm.bits) (imxS 0 i))
  | .tldt t b c i mm => some (chain 3 2 3 (wide t) b c none false (mm.bits) (imxS 0 i))
  | .tldm t b c d i mm => some (chain 3 3 3 (wide t) b c (some d) true mm.bits (imxS 0 i))
  | .tmvVr t r p m => some (flat 3 0 4 (wide t) (wide r) (wide p) m.bits [])
  | .tmvRv t r p m => some (flat 3 0 5 (wide t) (wide r) (wide p) m.bits [])
  | .tmvVc t r p m => some (flat 3 0 6 (wide t) (wide r) (wide p) m.bits [])
  | .tmvCv t r p m => some (flat 3 0 7 (wide t) (wide r) (wide p) m.bits [])
  | .tzero t => some (flat 3 0 8 (wide t) 0 0 none [])
  | .tcomp24 t u => some (flat 3 1 8 (wide t) (wide u) 0 none [])
  | .tcomp48 t u => some (flat 3 3 8 (wide t) (wide u) 0 none [])
  | .ocmpEq d t u => some (flat 3 0 9 (wide d) (wide t) (wide u) none [])
  | .ocmpNe d t u => some (flat 3 1 9 (wide d) (wide t) (wide u) none [])
  | .ocmpLt d t u => some (flat 3 2 9 (wide d) (wide t) (wide u) none [])
  | .ocmpLe d t u => some (flat 3 3 9 (wide d) (wide t) (wide u) none [])
  | .ocmpGt d t u => some (flat 3 4 9 (wide d) (wide t) (wide u) none [])
  | .ocmpGe d t u => some (flat 3 5 9 (wide d) (wide t) (wide u) none [])
  | .ocmpUnord d t u => some (flat 3 6 9 (wide d) (wide t) (wide u) none [])
  | .ocmpOrd d t u => some (flat 3 7 9 (wide d) (wide t) (wide u) none [])
  | .ocmpTeq d t u => some (flat 3 8 9 (wide d) (wide t) (wide u) none [])
  | .ocmpTlt d t u => some (flat 3 9 9 (wide d) (wide t) (wide u) none [])
  | .ocmpTle d t u => some (flat 3 10 9 (wide d) (wide t) (wide u) none [])
  | .ocmpTltx d t u => some (flat 3 11 9 (wide d) (wide t) (wide u) none [])
  | .ocmpTgtx d t u => some (flat 3 12 9 (wide d) (wide t) (wide u) none [])
  | .btAnd d s r => some (flat 3 0 10 (wide d) (wide s) (wide r) none [])
  | .btOr d s r => some (flat 3 1 10 (wide d) (wide s) (wide r) none [])
  | .btXor d s r => some (flat 3 2 10 (wide d) (wide s) (wide r) none [])
  | .btAndn d s r => some (flat 3 3 10 (wide d) (wide s) (wide r) none [])
  | .btComp d s r => some (flat 3 4 10 (wide d) (wide s) (wide r) none [])
  | .btNot d s => some (flat 3 0 11 (wide d) (wide s) 0 none [])
  | .btTr d s => some (flat 3 1 11 (wide d) (wide s) 0 none [])
  | .btClos d s => some (flat 3 2 11 (wide d) (wide s) 0 none [])
  | .btClosr d s => some (flat 3 3 11 (wide d) (wide s) 0 none [])
  | .btId d => some (flat 3 4 11 (wide d) 0 0 none [])
  | .btZero d => some (flat 3 5 11 (wide d) 0 0 none [])
  | .btPopr a s => some (chain 3 0 12 a (wide s) 0 none false none [])
  | .btPopc a s => some (chain 3 1 12 a (wide s) 0 none false none [])
  | .btMvbv a s => some (chain 3 2 12 a (wide s) 0 none false none [])
  | .btMvvb d b => some (chain 3 3 12 (wide d) b 0 none false none [])
  | .btLd d b i mm => some (chain 3 4 12 (wide d) b 0 none false (mm.bits) (imxS 0 i))
  | .btSt d b i mm => some (chain 3 5 12 (wide d) b 0 none false (mm.bits) (imxS 0 i))
  | .tsv r b i => some (chain 3 0 13 (wide r) b 0 none false none (imxS 0 i))
  | .trs r b i => some (chain 3 1 13 (wide r) b 0 none false none (imxS 0 i))
  | .mmaE4e4 n t u s => some (scaled 0 0 n t u s)
  | .mmaE4e5 n t u s => some (scaled 1 0 n t u s)
  | .mmaE5e4 n t u s => some (scaled 2 0 n t u s)
  | .mmaE5e5 n t u s => some (scaled 3 0 n t u s)
  | .mmaBfbf n t u => some (scaled 4 0 n t u 0)
  | .mmaHfhf n t u => some (scaled 5 0 n t u 0)
  | .mmaF32 n t u => some (scaled 6 0 n t u 0)
  | .mmaI8i8 n t u s => some (scaled 7 0 n t u s)
  | .mmaI8n8 n t u s => some (scaled 8 0 n t u s)
  | .mmaCbcb n t u ka kb => some (booked 9 0 n t u ka kb)
  | .mmaCbe4 n t u ka => some (flat 4 10 0 (wide (ka ++ n)) (wide t) (wide u) none [])
  | .mmaCbbf n t u ka => some (flat 4 11 0 (wide (ka ++ n)) (wide t) (wide u) none [])
  | .mmaMx8 n t u s => some (scaled 12 0 n t u s)
  | .mmaMx6 n t u s => some (scaled 13 0 n t u s)
  | .mmaMx4 n t u s => some (scaled 14 0 n t u s)
  | .mmaMxi8 n t u s => some (scaled 15 0 n t u s)
  | .smmaE4e4 n t u s => some (scaled 0 1 n t u s)
  | .smmaBfbf n t u => some (scaled 1 1 n t u 0)
  | .smmaI8i8 n t u s => some (scaled 2 1 n t u s)
  | .smmaCbcb n t u ka kb => some (booked 3 1 n t u ka kb)
  | .mzero n => some (flat 4 0 2 (wide n) 0 0 none [])
  | .mdrain ty t n => some (flat 4 1 2 (wide t) (wide n) (wide ty.code) none [])
  | .mdraint ty t n u d => some (chain 4 2 2 (wide t) (wide (ty ++ n)) (wide u) (some d) true none [])
  | .mcb k b => some (chain 4 3 2 (wide k) b 0 none false none [])
  | .msync => some (flat 4 4 2 0 0 0 none [])
  | .mqs a => some (chain 4 5 2 a 0 0 none false none [])
  | .mpush p => some (flat 4 6 2 (wide p) 0 0 none [])
  | .mdrainMx t n d => some (chain 4 0 3 (wide t) (wide n) 0 (some d) true none [])
  | .amoadd w a b d i mm => some (chain 5 ((0 : BitVec 3) ++ BitVec.ofBool w) 0 a b 0 (some d) false mm.bits (imxS 0 i))
  | .amoswap w a b d i mm => some (chain 5 ((0 : BitVec 3) ++ BitVec.ofBool w) 0 a b 1 (some d) false mm.bits (imxS 0 i))
  | .amocas w a b d i mm => some (chain 5 ((0 : BitVec 3) ++ BitVec.ofBool w) 0 a b 2 (some d) false mm.bits (imxS 0 i))
  | .amoand w a b d i mm => some (chain 5 ((0 : BitVec 3) ++ BitVec.ofBool w) 0 a b 3 (some d) false mm.bits (imxS 0 i))
  | .amoor w a b d i mm => some (chain 5 ((0 : BitVec 3) ++ BitVec.ofBool w) 0 a b 4 (some d) false mm.bits (imxS 0 i))
  | .amoxor w a b d i mm => some (chain 5 ((0 : BitVec 3) ++ BitVec.ofBool w) 0 a b 5 (some d) false mm.bits (imxS 0 i))
  | .amomin w a b d i mm => some (chain 5 ((0 : BitVec 3) ++ BitVec.ofBool w) 0 a b 6 (some d) false mm.bits (imxS 0 i))
  | .amomax w a b d i mm => some (chain 5 ((0 : BitVec 3) ++ BitVec.ofBool w) 0 a b 7 (some d) false mm.bits (imxS 0 i))
  | .amominu w a b d i mm => some (chain 5 ((0 : BitVec 3) ++ BitVec.ofBool w) 0 a b 8 (some d) false mm.bits (imxS 0 i))
  | .amomaxu w a b d i mm => some (chain 5 ((0 : BitVec 3) ++ BitVec.ofBool w) 0 a b 9 (some d) false mm.bits (imxS 0 i))
  | .amofadd w a b d i mm => some (chain 5 ((0 : BitVec 3) ++ BitVec.ofBool w) 0 a b 10 (some d) false mm.bits (imxS 0 i))
  | .wait a b k i mm => some (chain 5 0 1 a b (wide k) none false (mm.bits) (imxS 0 i))
  | .barArr a => some (chain 5 0 2 a 0 0 none false none [])
  | .barWait a => some (chain 5 0 2 a 0 1 none false none [])
  | .barSync a => some (chain 5 0 2 a 0 2 none false none [])
  | .barCfg a b => some (chain 5 0 2 a b 3 none false none [])
  | .wbarRow => some (flat 5 0 3 0 0 0 none [])
  | .wbarCol => some (flat 5 0 3 0 0 1 none [])
  | .wbarRc => some (flat 5 0 3 0 0 2 none [])
  | .send a b => some (chain 5 0 4 a b 0 none false none [])
  | .recv a b => some (chain 5 0 4 a b 1 none false none [])
  | .sendv a b => some (chain 5 0 4 a b 2 none false none [])
  | .recvv a b => some (chain 5 0 4 a b 3 none false none [])
  | .recvt a b d => some (chain 5 0 4 a b 4 (some d) true none [])
  | .qw a q => some (chain 5 0 5 a (wide q) 0 none false none [])
  | .qr a q => some (chain 5 0 5 a (wide q) 1 none false none [])
  | .qtr a q d => some (chain 5 0 5 a (wide q) 2 (some d) true none [])
  | .sqenq a b i mm => some (chain 5 0 6 a b 0 none false (mm.bits) (imxS 0 i))
  | .sqdeq a b i mm => some (chain 5 0 6 a b 1 none false (mm.bits) (imxS 0 i))
  | .propBegin => some (flat 5 0 7 0 0 0 none [])
  | .propPass => some (flat 5 0 7 0 0 2 none [])
  | .propSerial => some (flat 5 0 7 0 0 3 none [])
  | .propEnd a b => some (chain 5 0 7 a b 1 none false none [])
  | .propStat a => some (chain 5 0 7 a 0 4 none false none [])
  | .rng a b => some (chain 5 0 8 a b 0 none false none [])
  | .sstep => some (flat 5 0 9 0 0 0 none [])
  | .troupeJoin a b => some (chain 5 0 10 a b 0 none false none [])
  | .troupeSplit => some (flat 5 0 10 0 0 1 none [])
  | .ceW a b => some (chain 6 0 0 a b 0 none false none [])
  | .ceArm a b => some (chain 6 0 0 a b 1 none false none [])
  | .ceStat a => some (chain 6 0 0 a 0 2 none false none [])
  | .ceStop => some (flat 6 0 0 0 0 3 none [])
  | .launch a b => some (chain 6 0 1 a b 0 none false none [])
  | .shape a b => some (chain 6 0 1 a b 1 none false none [])
  | .pieceEnd => some (flat 6 0 1 0 0 2 none [])
  | .instructionFetch _ _ | .carouselPull _ _ | .carouselSteal _ _ | .pieceStart _ _ _ | .ageLimit _
  | .strandResume _ _ | .preemptionRequest _ _ | .preemptionDeadline _ | .quantumExpiry _ | .asyncTrapEntry _
  | .btoTimeout _ | .greedyRunLimit _ | .instructionForward _ | .forwardCredit _ | .dissolvingMarker _
  | .sfuRequestComplete _ | .matrixRecordStart _ | .matrixRecordComplete _ | .matrixPushStore _ _
  | .heldCountWrite _ _ _ | .tlbInvalidateAll _ | .tlbInvalidatePage _ _ | .qbindWrite _ _ _ | .registerWrite _ _ _
  | .ceChunkPerformed _ | .ceCompletionWrite _ | .pageWalk _ _ | .burstSend _ | .sliceWrite _ | .sliceRead _ _
  | .memoryReply _ | .storeAcknowledgement _ | .lmPortAccess _ | .scopeMissMessage _ | .missEntryTimeout _ _
  | .wideningNotice _ | .barrierConfig _ | .barrierArrival _ | .barrierRelease _ | .wirePhaseRelease _
  | .channelMessage _ | .sendAcknowledgement _ | .channelSliceMove _ _ | .queueRefill _ _ | .refillArrival _ _
  | .queueDrain _ _ | .heldEntryReenqueue _ | .roundBarrierComplete _ | .regionResolution _ | .exchangeStart _
  | .xferRecordPerformed _ _ | .superstepRelease _ | .launchRecordAdmission _ | .dependenceSatisfied _ _
  | .shapeDelivery _ | .pieceSquash _ _ | .provisionalStallTimeout _ | .launchCompletion _ | .clusterFuse _
  | .clusterUnfuse _ | .idleTimeout _ | .wakeWordWrite _ | .deviceWake _ | .clusterRetirement _ | .pageRetirement _
  | .hostLaunch _ _ | .hostCopy _ _ _ _ _ _ | .copyCompletion _ | .hostEvent _ _ _ _ | .hostShape _ _ _
  | .hostWake _ | .create _ _ | .destroy _ _ | .memory _ _ | .ways _ _ _ | .queue _ _ | .root _ _ | .idlet _ _
  | .rtrec _ _ | .quantum _ _ | .persist _ _ | .box _ | .words _ | .features _ _ _ | .domain _ _ _
  | .group _ _ _ _ _ | .attest _ _ _ | .freeze _ | .restore _ _ | .tvec _ _ | .eventWordWrite _ _
  | .collectiveCombine _ | .collectiveTimeout _ | .remoteAccess _ _ _ _ | .remoteAccessTimeout _ | .portLinkDown _
  | .coldReset | .recoveryImage _ | .watchdogReset | .freezePin | .debugPortAccess _ | .powerAtRating _
  | .clockRecoveryTimer | .supplyOrJunctionLimit _ | .portLinkUp _ | .reservedOpCommand _ _
  | .barrierAcknowledgement _ => none

/-- The prefix parcel of kind `k` with payload `f` (R81). -/
def prefixOf (k : BitVec 2) (f : BitVec 10) : Parcel := (0xF : BitVec 4) ++ k ++ f

/-- The parcels of a chain in the assembler's order: PGX, RGX, MOD, IMX, base (R82, R107). -/
def emit (c : Chain) : List Parcel :=
  (if c.page = 0 then [] else [prefixOf 2 (c.page ++ c.mods)])
    ++ c.rgx.toList.map (prefixOf 1) ++ c.mod.toList.map (prefixOf 3) ++ c.imx.map (prefixOf 0) ++ [c.base]

/-- The words of a well-formed instruction; an event has none. -/
def encode (i : Instr) : List Parcel :=
  match toChain i with
  | some c => emit c
  | none => []

/-- Bytes of parcels in ascending address order (R2). -/
def bytesOf : List Parcel → List Byte
  | [] => []
  | p :: ps => p.extractLsb' 0 8 :: p.extractLsb' 8 8 :: bytesOf ps

end Sys2Proof
end

