-- ==== Sys2Proof/Machine/Xlate.lean ====
section
/-! DEFINITION. The address map (R175), translation through the page tables and the TLBs (R297 to R301), home slices
(R18), and instruction fetch. -/

namespace Sys2Proof.Machine

/-- What an access does, as R299's table distinguishes it. -/
inductive Access where
  | fetch | load | store
  deriving DecidableEq, Repr

/-- The home slice of a local physical address (R18). -/
def homeSlice (pa : Nat) : Nat :=
  ((pa >>> 8) % 512) ^^^ ((pa >>> 17) % 512) ^^^ ((pa >>> 26) % 512) ^^^ ((pa >>> 35) % 128)

/-- The module number of a physical address (R17). -/
def moduleOfPa (pa : Nat) : Nat := pa / 2 ^ 42

/-- A local address is mapped (R17). -/
def mappedPa (pa : Nat) : Bool :=
  let a := pa % 2 ^ 42
  a < 0x80_0000_0000 || 0x200_0000_0000 ≤ a

/-- A global virtual address (R175). -/
def isGlobal (va : Word) : Bool := 0x1_0000_0000 ≤ va.toNat && va.toNat < 0x1_0000_0000_0000
/-- The strand's own LM and the LM of its field (R175). -/
def isOwnLm (va : Word) : Bool := va.toNat < 0x1_0000
def isFieldLm (va : Word) : Bool := 0x100_0000 ≤ va.toNat && va.toNat < 0x200_0000
/-- The engine window (R57, R175). -/
def isWindow (va : Word) : Bool := 0x200_0000 ≤ va.toNat && va.toNat < 0x201_0000

/-- Partition-relative to physical address within the module (R297); `none` is a bound violation. -/
def praToPa (d : VDev) (pra : Nat) : Option Nat :=
  if pra < d.hbound then some (d.hbase + pra)
  else if 0x200_0000_0000 ≤ pra ∧ pra < 0x200_0000_0000 + d.lbound then some (d.lbase + pra - 0x200_0000_0000)
  else none

/-- The inverse on the device's own ranges, for the addresses that causes 2 and 19 report (R63, R196). -/
def paToPra (d : VDev) (pa : Nat) : Nat :=
  let a := pa % 2 ^ 42
  if d.hbase ≤ a ∧ a < d.hbase + d.hbound then a - d.hbase
  else if d.lbase ≤ a ∧ a < d.lbase + d.lbound then 0x200_0000_0000 + (a - d.lbase) else a

/-- Page-table levels (R298): index shift and entry count; a leaf maps 2^shift bytes. -/
def levelShift (level : Nat) : Nat :=
  match level with
  | 0 => 16 | 1 => 25 | 2 => 34 | _ => 42
def levelEntries (level : Nat) : Nat :=
  match level with
  | 0 => 512 | 1 => 512 | 2 => 256 | _ => 64

/-- What a walk finds (R299). -/
inductive Walk where
  | leaf (level : Nat) (entry : Word)
  | page
  | bound
  deriving DecidableEq, Repr

/-- ADDR of an entry (R298). -/
def pteAddr (e : Word) : Nat := field e 12 30 * 4096
def pteV (e : Word) : Bool := e.getLsbD 0
def pteLeaf (e : Word) : Bool := e.getLsbD 1
def pteR (e : Word) : Bool := e.getLsbD 2
def pteW (e : Word) : Bool := e.getLsbD 3
def pteX (e : Word) : Bool := e.getLsbD 4
def pteU (e : Word) : Bool := e.getLsbD 5
def pteType (e : Word) : Nat := field e 6 2
def ptePeer (e : Word) : Nat := field e 58 6

/-- The entry breaks R298 at its level. -/
def pteBad (level : Nat) (e : Word) : Bool :=
  !pteV e || field e 8 4 != 0 || field e 42 16 != 0
    || (level == 3 && pteLeaf e) || (level == 0 && !pteLeaf e)
    || (pteLeaf e && pteAddr e % 2 ^ levelShift level != 0)
    || (!pteLeaf e && ptePeer e != 0)

/-- A walk from the table at `tab` of level `level` down (R299); entries are read at their home slices. -/
def walkFrom (mem : Memory) (d : VDev) (own : Nat) (va : Nat) : Nat → Nat → Nat → Walk
  | 0, _, _ => .page
  | fuel + 1, level, tab =>
    match praToPa d (tab + 8 * ((va >>> levelShift level) % levelEntries level)) with
    | none => .bound
    | some pa =>
      let e := BitVec.ofNat 64 (mem.nat (own * 2 ^ 42 + pa) 8)
      if pteBad level e then .page
      else if pteLeaf e then .leaf level e
      else walkFrom mem d own va fuel (level - 1) (pteAddr e)

/-- The retractable allocations of a device that are mapped or reserved (R288). -/
def allocsOf (s : State) (d : VDev) : List Alloc :=
  ((s.launches.filter fun l => l.vdev == d.num).flatMap fun l => l.allocs.filter (·.en)) ++ d.kept

/-- The leaf that maps a page of an allocation, as a 64 KiB page of type N with R, W and U. -/
def allocLeaf (s : State) (d : VDev) (va : Nat) : Option Word :=
  (allocsOf s d).findSome? fun a =>
    if a.base.toNat ≤ va ∧ va < a.base.toNat + a.size then
      some (BitVec.ofNat 64 (0x2F + a.pra + (va - a.base.toNat) / 65536 * 65536))
    else none

/-- The walk for a device starts at its ROOT; the launch engine maps its allocations. -/
def walk (s : State) (d : VDev) (va : Nat) : Walk :=
  match allocLeaf s d va with
  | some e => .leaf 0 e
  | none => walkFrom s.mem d s.mp.module va 4 3 d.root.toNat

/-- A TLB entry maps the address (R300). -/
def Tlb.hits (t : Tlb) (vdev va : Nat) : Bool := t.vdev == vdev && va / 2 ^ levelShift t.level == t.base

/-- Add an entry; a full core TLB drops the one that the turn names (entry 7). -/
def addTlb (cap way : Nat) (t : Tlb) (l : List Tlb) : List Tlb :=
  if l.length < cap then t :: l else t :: l.eraseIdx (way % l.length)

/-- Add an entry to a cluster TLB: 128 sets of 8 ways, the set by the low bits of the page number (R300; entry 7). -/
def addClTlb (way : Nat) (t : Tlb) (l : List Tlb) : List Tlb :=
  let set := l.filter fun e => e.base % 128 == t.base % 128
  match (if set.length < 8 then none else set[way % set.length]?) with
  | some e => t :: l.erase e
  | none => t :: l

/-- A translated address: physical address with its module number, partition-relative address, page type. -/
structure Loc where
  pa  : Nat
  pra : Nat
  ty  : Nat
  deriving DecidableEq, Repr

/-- The second step of R297. A leaf that names this module is a local one (entry 69). -/
def locOf (s : State) (d : VDev) (va : Nat) (lv : Nat) (e : Word) : Option Loc :=
  let pra := pteAddr e + va % 2 ^ levelShift lv
  if ptePeer e ≠ 0 ∧ ptePeer e ≠ s.mp.module then some ⟨ptePeer e * 2 ^ 42 + pra, pra, pteType e⟩
  else (praToPa d pra).map fun pa => ⟨s.mp.module * 2 ^ 42 + pa, pra, pteType e⟩

namespace State

/-- Enter a leaf in the core's and the cluster's TLB (R300). -/
def fillTlb (s : State) (core : Nat) (t : Tlb) : State :=
  let s := s.modCore core fun c => { c with tlb := addTlb 32 s.turn.way t c.tlb }
  let cl := clusterOf core
  { s with clTlb := setK cl (addClTlb s.turn.way t (getK [] cl s.clTlb)) s.clTlb }

/-- The leaf that maps an address for a device on a core: from a TLB, or by a walk that fills them; one that ends out of
bounds leaves nothing (R300; entry 54). -/
def leafFor (s : State) (core : Nat) (d : VDev) (va : Nat) : Walk × State :=
  match (s.coreAt core).tlb.find? (·.hits d.num va) with
  | some t => (.leaf t.level t.leaf, s)
  | none =>
    match (getK [] (clusterOf core) s.clTlb).find? (·.hits d.num va) with
    | some t => (.leaf t.level t.leaf, s.modCore core fun c => { c with tlb := addTlb 32 s.turn.way t c.tlb })
    | none =>
      match walk s d va with
      | .leaf lv e =>
        (.leaf lv e, if (locOf s d va lv e).isNone then s else s.fillTlb core ⟨d.num, va / 2 ^ levelShift lv, lv, e⟩)
      | w => (w, s)

end State

/-- The causes that a translation fault reports, by kind of access (R299). -/
def faultCause (k : Access) : Nat :=
  match k with
  | .fetch => 3 | .load => 4 | .store => 5
def boundCause (k : Access) : Nat := if k = .fetch then 3 else 6
def permCause (k : Access) : Nat := if k = .fetch then 3 else 7

/-- The permission that the access needs; an atomic needs R and W. -/
def permits (k : Access) (both : Bool) (e : Word) : Bool :=
  match k with
  | .fetch => pteX e
  | .load => pteR e
  | .store => pteW e && (!both || pteR e)

/-- Translate a global virtual address for a strand's device, on a core, in a mode (R299). The cause, or the place. -/
def translate (s : State) (core : Nat) (d : VDev) (m : Mode) (k : Access) (both : Bool) (va : Word) :
    Except Nat (Loc × State) :=
  match s.leafFor core d va.toNat with
  | (.page, _) => .error (faultCause k)
  | (.bound, _) => .error (boundCause k)
  | (.leaf lv e, s') =>
    if !permits k both e || (m == .U && !pteU e) then .error (permCause k)
    else
      match locOf s d va.toNat lv e with
      | none => .error (boundCause k)
      | some l => if k = .fetch ∧ 2 ≤ l.ty then .error 3 else .ok (l, s')

/-- A place that an access reaches: an LM byte of a core, or a translated global byte. -/
inductive Place where
  | lm   (core off : Nat)
  | glob (l : Loc)
  deriving DecidableEq, Repr

/-- The core that a field-window address names (R175). -/
def windowCore (s : State) (va : Word) : Nat := fieldOf s.me.core * 256 + (va.toNat - 0x100_0000) / 65536

/-- The bytes [va, va + n) lie in the strand's own LM reservation (R261). -/
def inReservation (s : State) (va : Word) (n : Nat) : Bool :=
  let i := s.strand.ident
  i.lmBase ≤ va.toNat && va.toNat + n ≤ i.lmBase + i.lmSize

/-- Where an access of `n` bytes goes, after the checks of R175, R261 and R299 in the order of R65. The engine window
is no place: the instructions that may reach it look there first. In a compute phase the field window does not count as the
member's reservation, whichever core it names (entry 91). -/
def place (s : State) (k : Access) (both : Bool) (va : Word) (n : Nat) : Eff Place :=
  if isOwnLm va then
    if s.computePhase && !inReservation s va n then .trap 13 va 0 else .ok (.lm s.me.core va.toNat) s
  else if isFieldLm va then
    if !s.reachable (windowCore s va) then .trap 7 va 0
    else if s.computePhase then .trap 13 va 0
    else .ok (.lm (windowCore s va) (va.toNat % 65536)) s
  else if isGlobal va then
    if s.computePhase then .trap 13 va 0
    else
      match s.vdevOf s.me with
      | none => .trap (faultCause k) va 0
      | some d =>
        match translate s s.me.core d s.strand.mode k both va with
        | .error c => .trap c va 0
        | .ok (l, s') => .ok (.glob l) s'
  else .trap 7 va 0

/-- An address that the map gives no place for an access in U: cause 7 (R57, R175). -/
def State.offMap (s : State) (va : Word) : Bool :=
  !(isOwnLm va || isGlobal va || (isFieldLm va && s.reachable (windowCore s va)))

/-! ## Fetch (R66, R81, R94) -/

/-- Why a parcel is not fetched: a fault with its cause and SVAL, or a wait at its slice (R195). -/
inductive NoParcel where
  | fault (cause : Nat) (val : Word)
  | held
  deriving DecidableEq, Repr

/-- The bytes of a line of memory at its home slice, as one string. -/
def lineAt (mem : Memory) (line : Nat) : V256 := BitVec.ofNat 256 (mem.nat (line * 32) 32)

/-- Instruction-cache capacity in lines of 32 bytes: 16 KiB (R12). -/
def icacheLines : Nat := 512

namespace State

/-- A line for fetch: from the core's instruction cache, or from its home slice, which fills it: the cache is
fully associative and drops the line filled earliest (R12, R94; entries 7 and 81). Another module's line is a free value
(R199). -/
def fetchLine (s : State) (core line : Nat) : V256 × State :=
  match (s.coreAt core).icache.find? fun p => p.1 == line with
  | some p => (p.2, s)
  | none =>
    let own := moduleOfPa (line * 32) == s.mp.module
    let d := if own then lineAt s.mem line else Config.peerLine s.fresh line
    let s := if own then s else { s with fresh := s.fresh + 1 }
    (d, s.modCore core fun c => { c with icache := (line, d) :: c.icache.take (icacheLines - 1) })

/-- The core drops its copy of a line that is uncorrectable, and logs it (R66). -/
def dropCode (s : State) (core line : Nat) (shown : Word) : State :=
  { s.modCore core fun c => { c with icache := c.icache.filter fun e => e.1 != line, log := c.log ++ [shown] } with
    turn := { s.turn with icErr := none } }

/-- A peer answers: feature DOMAIN accepted and the module among the peers, a port up (R199, R311, R320, R321). -/
def moduleUp (s : State) (m : Nat) : Bool :=
  (s.mp.features.any fun f => f.getLsbD 0) && (s.host.peers.any fun p => p.1 == m) && s.host.links.toList.any id

/-- An access to the line ends with an uncorrectable error: the turn says so (R67); the address is unmapped (R17); or
the module does not answer (R320). -/
def lineBad (s : State) (line : Nat) : Bool :=
  s.turn.err == some line
    || (if moduleOfPa (line * 32) = s.mp.module then !mappedPa (line * 32) else !s.moduleUp (moduleOfPa (line * 32)))

/-- A read of the place waits at its slice or port behind an atomic that is held there whole (R195). -/
def heldWhole (s : State) (p : Target) : Bool := s.blocked.any fun q => q.1 == p && q.2.2

/-- Parcel(addr) (R95): the parcel, or why there is none (R63, R195). A copy in the instruction cache that is found
uncorrectable is refilled once, silently; cause 19 when the refill is uncorrectable too (R66). At an odd address, which only
an `rti` reaches, the parcel is the 16 bits from that byte up, with 0 for a byte beyond the line (DESIGN CHOICE, entry
110). -/
def parcelAt (s : State) (va : Word) : Except NoParcel (Parcel × State) :=
  if !isGlobal va then .error (.fault 3 va)
  else
    match s.vdevOf s.me with
    | none => .error (.fault 3 va)
    | some d =>
      match translate s s.me.core d s.strand.mode .fetch false va with
      | .error c => .error (.fault c va)
      | .ok (l, s) =>
        let line := l.pa / 32
        let shown := BitVec.ofNat 64 (l.pra / 32 * 32)
        let s := if s.turn.icErr = some line then s.dropCode s.me.core line shown else s
        let cached := s.core.icache.any fun p => p.1 == line
        if s.lineBad line && !cached then .error (.fault 19 shown)
        else if s.heldWhole (.line (line * 32)) && !cached then .error .held
        else
          let (data, s) := s.fetchLine s.me.core line
          .ok (data.extractLsb' (8 * (l.pa % 32)) 16, s)

/-- The bad line of a fetch is dropped and logged (R66). -/
def logFetch (s : State) (cause : Nat) (shown : Word) : State :=
  if cause ≠ 19 then s
  else match s.turn.icErr.or s.turn.err with
    | some line => s.dropCode s.me.core line shown
    | none => s.withCore fun c => { c with log := c.log ++ [shown] }

end State

/-- What a fetch brings: a whole chain with its parcels, an illegal run, a fault with its cause and SVAL, or a wait. -/
inductive Fetched where
  | chain (c : Chain) (ps : List Parcel)
  | bad   (ps : List Parcel)
  | fault (cause : Nat) (val : Word)
  | wait
  deriving DecidableEq, Repr

/-- Fetch parcels from an address until a base parcel, or until the first parcel that makes the chain illegal (R82). -/
def fetchFrom (s : State) (va : Word) (sc : Scan) : Nat → List Parcel → Fetched × State
  | 0, ps => (.bad ps, s)
  | fuel + 1, ps =>
    match s.parcelAt va with
    | .error (.fault c a) => (.fault c a, s.logFetch c a)
    | .error .held => (.wait, s)
    | .ok (p, s) =>
      match sc.feed p with
      | .done c _ => (.chain c (ps ++ [p]), s)
      | .bad _ => (.bad (ps ++ [p]), s)
      | .more sc => fetchFrom s (va + 2) sc fuel (ps ++ [p])

/-- The instruction at an address. -/
def fetchAt (s : State) (va : Word) : Fetched × State := fetchFrom s va Scan.start 5 []

/-- A run of prefix parcels up to and including its base parcel, as spans and loop bodies count instructions (R93):
its parcels, `none` for five prefix parcels, or why there are none. -/
def runFrom (s : State) (va : Word) : Nat → List Parcel → Except NoParcel (Option (List Parcel) × State)
  | 0, _ => .ok (none, s)
  | fuel + 1, ps =>
    match s.parcelAt va with
    | .error e => .error e
    | .ok (p, s) =>
      if p.extractLsb' 12 4 ≠ 0xF then .ok (some (ps ++ [p]), s) else runFrom s (va + 2) fuel (ps ++ [p])

/-- The first four parcels as SVAL of cause 1 holds them (R63). -/
def firstFour (ps : List Parcel) : Word :=
  BitVec.ofNat 64 (natOfBytes ((ps.take 4).flatMap fun p => bytesOfNat 2 p.toNat))

/-- The `n` whole instructions from an address, each with its address, and the address after them (R93); cause 1 for
five prefix parcels, or the fault of a parcel; a wait for one holds. -/
def spanFrom (s : State) (va : Word) (acc : List (Word × List Parcel)) : Nat → Eff (Word × List (Word × List Parcel))
  | 0 => .ok (va, acc) s
  | n + 1 =>
    match runFrom s va 5 [] with
    | .error (.fault c a) => .trap c a 0
    | .error .held => .hold s false 0
    | .ok (none, _) => .trap 1 s.latch.first 0
    | .ok (some ps, s') => spanFrom s' (va + BitVec.ofNat 64 (2 * ps.length)) (acc ++ [(va, ps)]) n

end Sys2Proof.Machine
end

