-- ==== Sys2Proof/Machine/Cache.lean ====
section
/-! DEFINITION. The memory system below an access: home slices (R185), LM ports (R177 to R179), writes in flight, L1 (R180 to
R182), the combining buffer (R186), release tags and scope misses (R195, R196), and the cache actions of R187. -/

namespace Sys2Proof.Machine

/-! ## Scopes (R187) -/

/-- The smallest scope whose instance holds both strands. -/
def smallestScope (p q : Sid) : Nat :=
  if p = q then 0
  else if p.core = q.core then 1
  else if clusterOf p.core = clusterOf q.core then 2
  else if fieldOf p.core = fieldOf q.core then 3
  else if dieOf p.core = dieOf q.core then 4
  else 5

/-- The condition of a `wait`: the word in memory against the operand (R223). -/
def waitCond (c : BitVec 3) (m x : Word) : Bool :=
  match c.toNat with
  | 0 => m == x
  | 1 => m != x
  | 2 => m.slt x
  | 3 => !m.slt x
  | 4 => m.ult x
  | _ => !m.ult x

/-- The bytes of a line that a mask selects, as cells. -/
def maskCells (line : Nat) (data : V256) (mask : BitVec 32) : List Host.Cell :=
  ((List.range 32).filter fun i => mask.getLsbD i).map fun i => (line * 32 + i, byteAt data i)

/-- Overlay cells on a line's data. -/
def overlay (line : Nat) (data : V256) (cells : List Host.Cell) : V256 :=
  cells.foldl (fun d c => if c.1 / 32 = line then setByte d (c.1 % 32) c.2 else d) data

/-- The mask bits of cells that lie on a line. -/
def maskOf (line : Nat) (cells : List Host.Cell) : BitVec 32 :=
  cells.foldl (fun m c => if c.1 / 32 = line then setField m (c.1 % 32) 1 1 else m) 0

namespace State

/-! ## Watchers (R224, R278, R284) -/

/-- The 8-byte word that a watch entry looks at. -/
def watchedWord (s : State) (p : Target) (word : Nat) : Word :=
  match p with
  | .line _ => BitVec.ofNat 64 (s.mem.nat word 8)
  | .lm c _ => BitVec.ofNat 64 ((s.coreAt c).lm.nat word 8)

def tagAt (s : State) (p : Target) : Option Tag :=
  match p with
  | .line pa => (s.tags.find? fun q => q.1 == pa / 32).map Prod.snd
  | .lm c off => ((s.coreAt c).lmTags.find? fun q => q.1 == off / 8).map Prod.snd

/-- A write to the places of a set satisfies every wait that watches a word of one and now holds; the first such write also
leaves it the tag that then stands there (R477). -/
def wakeAll (s : State) (hit : Target → Bool) : State :=
  { s with
    strands := s.strands.map fun (q : Nat × Strand) =>
      (q.1, q.2.modSync fun y =>
        match y.watch with
        | some w =>
          if hit w.place ∧ !w.sat ∧ waitCond w.cond (s.watchedWord w.place w.word) w.val then
            { y with watch := some { w with sat := true, tag := s.tagAt w.place } }
          else y
        | none => y) }

/-- A write to one place. -/
def wake (s : State) (p : Target) : State := s.wakeAll fun q => decide (q = p)

/-- A value satisfies a dependence word (R278). -/
def depHolds (d : Dep) (w : Nat) : Bool := if d.count then d.target ≤ w else w != 0

/-- The size that a shape word delivers (R284). -/
def sizeIn (w : Nat) : Option Nat := if w / 2 ^ 63 == 1 then some (w % 2 ^ 25) else none

/-- A launch's view of its dependence words and of its shape word, by what each place holds (R278, R284). -/
def lookLaunch (word : Nat → Nat) (l : Launch) : Launch :=
  { l with
    deps := l.deps.map fun d => { d with sat := d.sat || depHolds d (word d.pa) }
    seen := if l.seen.isNone && l.lrec.shp then sizeIn (word l.shapePa) else l.seen }

/-- Mark the read claims on the lines of a set (R249). -/
def markClaims (s : State) (hit : Nat → Bool) : State :=
  { s with
    strands := s.strands.map fun (q : Nat × Strand) =>
      (q.1, { q.2 with region := { q.2.region with
        reads := q.2.region.reads.map fun r => if r.claimed && hit r.line then { r with marked := true } else r } }) }

/-! ## Home slices (R185) -/

/-- A write performed at the home slices: memory in coherence order, the release tag, the claims it marks, the watchers it
wakes. -/
def sliceWrite (s : State) (cells : List Host.Cell) (tag : Option Tag) : State :=
  let lines := linesOf cells
  let mem := s.mem.writeCells cells
  let s := { s with
    mem := mem
    prov := s.prov.filter fun p => !cells.any fun c => c.1 == p.pa
    launches := s.launches.map (lookLaunch (Memory.nat mem · 8))
    tags := match tag with
      | some t => lines.foldl (fun l n => setK n t l) s.tags
      | none => s.tags }
  let s := s.markClaims lines.contains
  lines.foldl (fun s n => s.wake (.line (n * 32))) s

/-- Bytes [pa, pa + n) of memory read 0 from here on: a write like any other (R224, R249, R278). -/
def zeroMem (s : State) (pa n : Nat) : State :=
  let inside (a : Nat) : Bool := decide (pa ≤ a) && decide (a < pa + n)
  let line (k : Nat) : Bool := decide (pa < 32 * k + 32) && decide (32 * k < pa + n)
  let mem := s.mem.filter fun c => !inside c.1
  let s := { s with mem := mem, prov := s.prov.filter fun p => !inside p.pa, launches := s.launches.map (lookLaunch (Memory.nat mem · 8)) }
  (s.markClaims line).wakeAll fun p => match p with
    | .line a => line (a / 32)
    | .lm .. => false

/-! ## LM ports (R177 to R179) -/

/-- The port serves the requests that wait for a word, in the order of their arrival, while the word is full. -/
def servePort (s : State) (core word : Nat) : List PortReq → State
  | [] => s
  | r :: rest =>
    if r.off / 8 ≠ word ∨ (s.coreAt core).empty.contains word then servePort s core word rest
    else
      let v := BitVec.ofNat 64 ((s.coreAt core).lm.nat (word * 8) 8)
      let s := s.modStrand r.who fun t => t.modSync fun y => { y with reply := some v }
      let s := s.modCore core fun c => { c with
        port := c.port.filter (· != r)
        empty := if r.empty then (word :: c.empty) else c.empty }
      servePort s core word rest

/-- Set full/empty bits of words. -/
def setBits (c : Core) (bits : List (Nat × Bool)) : Core :=
  { c with empty := bits.foldl (fun l p =>
      if p.2 then l.filter (· != p.1) else if l.contains p.1 then l else p.1 :: l) c.empty }

/-- A write performed at an LM port, with the full/empty bits it sets and the tag it leaves. -/
def lmPortWrite (s : State) (core : Nat) (cells : List Host.Cell) (bits : List (Nat × Bool)) (tag : Option Tag) :
    State :=
  let words := lmWords cells bits
  let s := s.modCore core fun c =>
    let c := setBits { c with lm := Memory.writeCells c.lm cells } bits
    match tag with
    | some t => { c with lmTags := words.foldl (fun l n => setK n t l) c.lmTags }
    | none => c
  let s := words.foldl (fun s w => s.wake (.lm core (w * 8))) s
  bits.foldl (fun s p => if p.2 then s.servePort core p.1 (s.coreAt core).port else s) s

/-! ## Release tags (R195) -/

/-- Two tags are of one strand: module, slot and launch number (R195). -/
def sameStrand (a b : Tag) : Bool := a.module == b.module && a.who == b.who && a.lnum == b.lnum

/-- Rewrite the scope of a strand's tag at a place, and of its copies in the waits that its value has satisfied: the effect of
a widening notice. -/
def widen (s : State) (p : Target) (of_ : Tag) (scope : BitVec 3) : State :=
  let up (t : Tag) : Tag := if sameStrand t of_ && t.scope.ult scope then { t with scope := scope } else t
  let seen (w : Watch) : Watch := if w.place = p then { w with tag := w.tag.map up } else w
  let s : State := { s with strands := s.strands.map fun (q : Nat × Strand) =>
    (q.1, q.2.modSync fun y => { y with watch := y.watch.map seen }) }
  let at_ (n : Nat) (l : List (Nat × Tag)) : List (Nat × Tag) := l.map fun (q : Nat × Tag) => if q.1 = n then (n, up q.2) else q
  match p with
  | .line pa => { s with tags := at_ (pa / 32) s.tags }
  | .lm c off => s.modCore c fun k => { k with lmTags := at_ (off / 8) k.lmTags }

/-- A place where the release of another strand stands with a scope narrower than module (R195). -/
def narrowAt (s : State) (ps : List Target) (t : Tag) : Option (Target × Tag) :=
  ps.findSome? fun p => (s.tagAt p).bind fun u => if !sameStrand u t && decide (u.scope.toNat < 5) then some (p, u) else none

/-! ## Writes in flight (R177, R185 to R188, R195) -/

/-- Two writes touch a byte in common. -/
def cellsMeet (a b : List Host.Cell) : Bool := a.any fun c => b.any fun d => c.1 == d.1

/-- Two writes touch a line in common. -/
def linesMeet (a b : List Host.Cell) : Bool := (linesOf a).any fun l => (linesOf b).contains l

/-- The cores whose L1s a cache action of a core covers (R181, R187). -/
def l1Group (s : State) (core : Nat) : List Nat :=
  if s.fused.contains (clusterOf core) then (List.range 16).map (coreOfCluster (clusterOf core)) else [core]

/-- The strand's rank is the one that is named. -/
def ofRankIn (r : Rank) (t : Strand) : Bool :=
  t.live && t.ident.lnum == r.lnum && t.ident.stage == r.stage && t.ident.rank == r.rank

/-- The slot of the resident strand of a rank. -/
def sidOfRank (s : State) (r : Rank) : Option Sid := (s.strands.find? fun q => ofRankIn r q.2).map fun q => Sid.ofKey q.1

/-- The core to which a message that has still to arrive goes over the mesh: stores to an LM, barrier messages, and channel
messages within a field (R13, R177, R205, R217). -/
def meshTo (s : State) (f : Flight) : Option Nat :=
  if f.done then none
  else
    match f.msg with
    | .lmWrite c _ _ _ => some c
    | .barArr h _ _ _ => some h
    | .barCfg h _ _ _ _ => some h
    | .barRel _ _ _ c => some c
    | .chan _ dest _ _ => ((s.sidOfRank dest).map Sid.core).filter fun c => fieldOf c == fieldOf f.src.core
    | _ => none

/-- A release write that has reached its port and waits there (R195). -/
def atPort (s : State) (f : Flight) : Bool :=
  (tagOf f.msg).isSome && (placesOf f.msg).any fun p => s.blocked.contains (p, f.src, false)

/-- Message `g`, sent earlier and still to be performed, comes before `f`: writes of one L1 that touch a byte in common, or
a line where the earlier one leaves a tag; a strand's own stores (R186); and what one core sends to another over the mesh,
which delivers it in order (R177). -/
def comesBefore (s : State) (f g : Flight) : Bool :=
  !g.done &&
    match g.msg, f.msg with
    | .write a t x _, .write b _ y _ =>
      (x && y && g.src == f.src)
        || ((s.l1Group f.src.core).contains g.src.core && (cellsMeet a b || (t.isSome && linesMeet a b)))
    | _, _ =>
      g.src.core == f.src.core && (s.meshTo f).isSome && s.meshTo g == s.meshTo f
        && (!s.atPort g || (placesOf f.msg).any (placesOf g.msg).contains)

/-- The bytes that a core's L1 or buffer gives up, in a place where that core's own release is being widened (entry 52). -/
def widensHere (s : State) (f : Flight) (p : Target) : Bool :=
  match f.msg with
  | .write _ none false _ =>
    (s.tagAt p).any fun u => u.module == s.mp.module && (s.l1Group u.who.core).contains f.src.core
  | _ => false

/-- Another strand's held release write or atomic blocks one of the message's places (R195). The write-back that its widening
needs does not wait for it (R196; entries 32 and 52). -/
def placeHeld (s : State) (f : Flight) : Bool :=
  (placesOf f.msg).any fun p => (s.blocked.any fun q => q.1 == p && q.2.1 != f.src) && !s.widensHere f p

/-- What message `f`, at place `n`, waits behind. -/
def writeBehind (s : State) (n : Nat) (f : Flight) : Bool := (s.flights.take n).any (s.comesBefore f) || s.placeHeld f

/-- The scope-miss message for an older tag that a release write of `who` meets (R195). -/
def widenFirst (who : Sid) (p : Target) (u : Tag) : Miss := ⟨p, who, u, 5, 0⟩

/-- A scope-miss message is under way, or stands in the miss register of the releasing core. -/
def missSent (s : State) (m : Miss) : Bool :=
  (s.flights.any fun f => f.msg == .scopeMiss m)
    || (s.coreAt m.tag.who.core).miss.any fun e => e.place == m.place && e.need == m.need && e.tag == m.tag

/-- A release write waits at the slice or port: the scope miss goes out, and later writes of others wait behind it (R195). -/
def holdThere (s : State) (f : Flight) (p : Target) (u : Tag) : State :=
  let m := widenFirst f.src p u
  { s with
    flights := if s.missSent m then s.flights else s.flights ++ [⟨f.src, .scopeMiss m, false⟩]
    blocked := if s.blocked.contains (p, f.src, false) then s.blocked else (p, f.src, false) :: s.blocked }

/-- A reply for a line has reached the core, or the L1 that it shares: no read sent earlier may be joined there (R184). -/
def barCore (s : State) (core line : Nat) : State :=
  { s with flights := s.flights.map fun f =>
      match f.msg with
      | .read l d bs bc => if l = line then { f with msg := .read l d bs (s.l1Group core ++ bc) } else f
      | _ => f }

/-- The reads that the core's L1 has pending on lines are served again: what they brought is older than what now stands
there, or than an acquire (R188, R192). -/
def readAgain (s : State) (core : Nat) (p : Nat → Bool) : State :=
  { s with flights := s.flights.map fun f =>
      match f.msg with
      | .read l (some _) bs bc => if p l && (s.l1Group core).contains f.src.core then { f with msg := .read l none bs bc } else f
      | _ => f }

/-- What stands on a line reaches the core: it joins no read sent before (R184), and what its own pending reads brought before
no longer fills its L1 (R188). -/
def received (s : State) (core line : Nat) : State := (s.readAgain core (· == line)).barCore core line

/-- The partition-relative address of a line in a device, as causes 5 and 19 report it (R63). -/
def lineIn (s : State) (d : Option VDev) (line : Nat) : Word :=
  let own := moduleOfPa (line * 32) == s.mp.module
  BitVec.ofNat 64 (match (if own then d else none) with
    | some d => paToPra d (line * 32)
    | none => line * 32 % 2 ^ 42)

def lineShown (s : State) (w : Sid) (line : Nat) : Word := s.lineIn (s.vdevOf w) line

/-- The device of a strand: its launch's, or, with that gone, the one in whose node the core lies. -/
def rankDev (s : State) (core : Nat) (r : Rank) : Option VDev :=
  ((s.launchNo r.lnum).bind fun l => s.vdevNo l.vdev).or (s.coreVdev core)

/-- An uncorrectable error on a line that is found after its instruction has retired: cause 5 in the strand that issued it, on
whatever core it then stands, or with its saved state; with that strand ended, a line of the error log of the core from which
the access came and a record of status 8 on the device's event queue (R67). -/
def lateError (s : State) (core : Nat) (r : Rank) (line : Nat) : State :=
  let d := s.rankDev core r
  let val := s.lineIn d line
  match s.sidOfRank r with
  | some w => s.raiseAsync w 5 val
  | none =>
    if s.saved.any fun v => ofRankIn r v.strand then
      { s with saved := s.saved.map fun (v : Saved) =>
          if ofRankIn r v.strand then { v with strand := { v.strand with causes := v.strand.causes ++ [(5, val)] } } else v }
    else
      let s := s.modCore core fun c => { c with log := c.log ++ [val] }
      match d with
      | some d => s.postEvent d.num 8 r.lnum val
      | none => s

/-! ## The bytes of provisional pieces (R286, R287) -/

/-- The strand's piece has not been confirmed: its stores keep a byte mask. That of a piece that the delivered size has made
surplus still does, until it is squashed. -/
def unconfirmed (s : State) (r : Rank) : Option (Nat × Nat) :=
  (s.launchNo r.lnum).bind fun l =>
    let idx := r.rank / (l.lrec.grids[r.stage]?).elim 1 Grid.wc
    if l.lrec.shp && r.stage == 0 && decide (l.lrec.g ≤ idx) && l.delivered.all (fun n => decide (n ≤ idx)) then some (l.num, idx)
    else none

/-- The home slice notes which bytes such a strand has written there (R286). -/
def noteProv (s : State) (by_ : List Rank) (cells : List Host.Cell) : State :=
  { s with prov := s.prov ++ (by_.filterMap s.unconfirmed).flatMap fun q => cells.map fun c => (⟨q.1, q.2, c.1⟩ : ProvByte) }

/-- The write of strands is performed at its home slices. What another module owns has left for it; an error reaches the
strands that stored it as cause 5 (R17, R67, R185, R199). -/
def landWrite (s : State) (w : Sid) (by_ : List Rank) (cells : List Host.Cell) (tag : Option Tag) : State :=
  let lines := linesOf cells
  let bad := lines.filter s.lineBad
  let here := cells.filter fun c => moduleOfPa c.1 == s.mp.module && mappedPa c.1
  let s := lines.foldl (fun s l => s.received w.core l) s
  let s := ((s.sliceWrite here tag).noteProv by_ here).dropBlocks w
  bad.foldl (fun s l => by_.foldl (fun s r => s.lateError w.core r l) s) s

/-- Message `n` is performed, or waits where it is; `stay` keeps it until its acknowledgement. -/
def performAt (s : State) (n : Nat) (stay : Bool) : State :=
  match s.flights[n]? with
  | none => s
  | some f =>
    if f.done || s.writeBehind n f then s
    else
      match (tagOf f.msg).bind (s.narrowAt (placesOf f.msg)) with
      | some (p, u) => s.holdThere f p u
      | none =>
        let past (s : State) : State :=
          { s with flights := if stay then s.flights.set n { f with done := true } else s.flights.eraseIdx n }
        match f.msg with
        | .write cells tag _ by_ => (past s).landWrite f.src by_ cells tag
        | .lmWrite core cells bits tag => ((past s).lmPortWrite core cells bits tag).dropBlocks f.src
        | _ => s

/-- The messages that satisfy `p` are performed, in the order in which they were sent. -/
def performAll (s : State) (p : Flight → Bool) : State :=
  (List.range s.flights.length).foldl (fun s n => if s.flights[n]?.any p then s.performAt n true else s) s

/-- What waits in front of message `n` to be delivered over the mesh (R177). -/
def meshWaits (s : State) (n : Nat) : Bool := s.flights[n]?.any fun f => (s.flights.take n).any (s.comesBefore f)

/-- Whether a message to another core can arrive in this turn: the turn leaves nothing in flight, and what the pair of cores has
sent before it is performed first (R177). -/
def meshReady (s : State) (f : Flight) : Bool × State :=
  if s.turn.post then (false, s)
  else
    let s := s.performAll (s.comesBefore f)
    (!s.flights.any (s.comesBefore f), s)

/-- With no message left in flight by this turn. -/
def atOnce (s : State) : State := { s with turn := { s.turn with post := false } }

/-- Send a write: it stays in flight when the turn says so (entry 10), or when it has to wait at its slice or port. -/
def send (s : State) (f : Flight) : State :=
  if s.turn.post then { s with flights := s.flights ++ [f] }
  else
    let s := s.performAll (s.comesBefore f)
    { s with flights := s.flights ++ [f] }.performAt s.flights.length false

/-- Send a write that is performed before what follows it (R485). -/
def sendNow (s : State) (f : Flight) : State := { s.atOnce.send f with turn := s.turn }

/-- The executing strand's write, as a message. -/
def myWrite (s : State) (cells : List Host.Cell) (tag : Option Tag) (own : Bool) : Flight :=
  ⟨s.me, .write cells tag own [s.rankAt s.me], false⟩

/-- Bytes that leave a core's L1 or combining buffer: a slot of that core sends them, in the name of those that stored
them. -/
def coreWrite (core slot : Nat) (by_ : List Rank) (cells : List Host.Cell) : Flight :=
  ⟨⟨core, slot⟩, .write cells none false by_, false⟩

/-- The slot in whose name a core sends what its L1 gives up: the executing strand's, where it is that core's. -/
def slotOn (s : State) (core : Nat) : Nat := if s.me.core = core then s.me.slot else 0

/-- A write to the home slices of the executing strand. -/
def sendCells (s : State) (cells : List Host.Cell) (tag : Option Tag) (own : Bool) : State :=
  if cells.isEmpty then s else s.send (s.myWrite cells tag own)

/-- The strand's writes that are not yet acknowledged, and those of the bytes that it shares (R187). -/
def unacked (s : State) (w : Sid) : Bool :=
  s.flights.any fun f =>
    match f.msg with
    | .write _ _ own _ => f.src == w || (!own && (s.l1Group w.core).contains f.src.core)
    | .lmWrite .. => f.src == w
    | _ => false

/-- A write on a line that a strand sees before it is performed: its own, or one of the shared bytes (R188). -/
def seesWrite (s : State) (w : Sid) (line : Nat) (f : Flight) : Bool :=
  !f.done &&
    match f.msg with
    | .write cells _ own _ => (f.src == w || (!own && (s.l1Group w.core).contains f.src.core)) && (linesOf cells).contains line
    | _ => false

/-- A line as its home slice holds it, with the bytes in flight that the strand sees (R188). -/
def lineFor (s : State) (w : Sid) (line : Nat) : V256 :=
  (s.flights.filter (s.seesWrite w line)).foldl (fun d f =>
    match f.msg with
    | .write cells _ _ _ => overlay line d cells
    | _ => d) (lineAt s.mem line)

/-- What the strand sees in flight on a line is performed, and its own stores before it; whether something still waits. -/
def settleLine (s : State) (w : Sid) (line : Nat) : Bool × State :=
  let s := s.performAll fun f => s.seesWrite w line f ||
    (match f.msg with | .write _ _ own _ => own && f.src == w | _ => false)
  (s.flights.any (s.seesWrite w line), s)

/-- The strand's own stores, of pages of type D and S and with release order, are performed; whether one still waits
(R186). -/
def settleOwn (s : State) (w : Sid) : Bool × State :=
  let p (f : Flight) : Bool := f.src == w && (match f.msg with | .write _ _ own _ => own && !f.done | _ => false)
  let s := s.performAll p
  (s.flights.any p, s)

/-- What a core has sent to another over the mesh, and what has not reached it, or waits there at one of the places `ps`
(R177, R188). -/
def onTheWay (s : State) (from_ core : Nat) (ps : List Target) (f : Flight) : Bool :=
  f.src.core == from_ && s.meshTo f == some core && (!s.atPort f || (placesOf f.msg).any ps.contains)

/-- Those of these messages that are writes are performed; whether something is still on its way. -/
def settleLm (s : State) (from_ core : Nat) (ps : List Target) : Bool × State :=
  let s := s.performAll (s.onTheWay from_ core ps)
  (s.flights.any (s.onTheWay from_ core ps), s)

/-- Send a write to an LM port: the own port performs it at once; over the mesh it may stay in flight. -/
def sendLm (s : State) (core : Nat) (cells : List Host.Cell) (bits : List (Nat × Bool)) (tag : Option Tag) : State :=
  if core = s.me.core then (s.lmPortWrite core cells bits tag).dropBlocks s.me
  else s.send ⟨s.me, .lmWrite core cells bits tag, false⟩

/-! ## L1 (R180 to R182) -/

/-- The core whose L1 holds a line: the core itself, or by PA[8:5] in a fused cluster (R181). -/
def l1Core (s : State) (core line : Nat) : Nat :=
  if s.fused.contains (clusterOf core) then coreOfCluster (clusterOf core) (line % 16) else core

/-- The set of a line in a 4-way L1 of 128 sets (entry 11). -/
def l1Set (s : State) (core line : Nat) : Nat :=
  if s.fused.contains (clusterOf core) then (line / 16) % 128 else line % 128

def l1Find (s : State) (core line : Nat) : Option Line :=
  (s.coreAt (s.l1Core core line)).l1.find? fun l => l.line == line

/-- Write a held line's dirty bytes back to the home slice; they are then clean (entry 32). -/
def writeBack (s : State) (core line : Nat) : State :=
  match s.l1Find core line with
  | none => s
  | some l =>
    if l.dirty = 0 then s
    else
      let s := s.modCore (s.l1Core core line) fun c =>
        { c with l1 := replaceFirst (fun k => k.line == line) (fun k => { k with dirty := 0, by_ := [] }) c.l1 }
      s.send (coreWrite core (s.slotOn core) l.by_ (maskCells line l.data l.dirty))

/-- Drop a line, its dirty bytes written back and performed first (R485). -/
def dropLine (s : State) (core line : Nat) : State :=
  let s := { s.atOnce.writeBack core line with turn := s.turn }
  s.modCore (s.l1Core core line) fun c => { c with l1 := c.l1.filter fun k => k.line != line }

/-- Write back every dirty byte of the core's L1. -/
def writeBackAll (s : State) (core : Nat) : State :=
  (s.l1Group core).foldl (fun s c =>
    (s.coreAt c).l1.foldl (fun s l => if l.dirty = 0 then s else s.writeBack c l.line) s) s

/-- Write back and perform, then invalidate, every line of the core's L1 (R485). -/
def invalidateAll (s : State) (core : Nat) : State :=
  let s := { s.atOnce.writeBackAll core with turn := s.turn }
  (s.l1Group core).foldl (fun s c => s.modCore c fun k => { k with l1 := [] }) s

/-- The lines of a full set that may be replaced: first candidates, else those not retained, else any (R182). -/
def victims (ls : List Line) : List Line :=
  let ef := ls.filter fun l => l.mark == 3
  let free := ls.filter fun l => l.mark != 2
  if !ef.isEmpty then ef else if !free.isEmpty then free else ls

/-- Hold a line in L1; a full set gives up the line that the turn chooses among the candidates (entry 7). -/
def l1Alloc (s : State) (core line : Nat) (data : V256) (hint : BitVec 2) : State :=
  let home := s.l1Core core line
  let inSet := (s.coreAt home).l1.filter fun l => s.l1Set core l.line == s.l1Set core line
  let s :=
    if inSet.length < 4 then s
    else
      let vs := victims inSet
      match vs[s.turn.way % vs.length]? with
      | some l => s.dropLine core l.line
      | none => s
  s.modCore home fun c => { c with l1 := ⟨line, data, 0, if hint == 1 then 0 else hint, []⟩ :: c.l1 }

/-- The mark that a hint gives a held line (R182). -/
def newMark (old hint : BitVec 2) : BitVec 2 := if hint = 2 ∨ hint = 3 then hint else old

/-- A strand has completed an acquire or a fence at cluster scope or wider: it joins no read sent earlier. -/
def barStrand (s : State) (w : Sid) : State :=
  { s with flights := s.flights.map fun f =>
      match f.msg with
      | .read l d bs bc => { f with msg := .read l d (w :: bs) bc }
      | _ => f }

/-- A strand that completes an acquire at core scope joins no read that another strand of its core may not join: that one's
acquire may precede what it has read (R184, R192; entry 67). -/
def barShared (s : State) (w : Sid) : State :=
  { s with flights := s.flights.map fun f =>
      match f.msg with
      | .read l d bs bc => if bs.any fun b => b.core == w.core then { f with msg := .read l d (w :: bs) bc } else f
      | _ => f }

/-- The data of a pending read that a plain load may join, and whether every strand of the core's L1 could: only then may that L1
hold it (R184, R192; entry 67). -/
def joinable (s : State) (line : Nat) : Option (V256 × Bool) :=
  s.flights.findSome? fun f =>
    match f.msg with
    | .read l (some d) bs bc =>
      if l = line ∧ dieOf f.src.core = dieOf s.me.core ∧ !bs.contains s.me ∧ !bc.contains s.me.core then
        some (d, !bs.any fun b => (s.l1Group s.me.core).contains b.core)
      else none
    | _ => none

/-- A pending read of the strand itself on a line. -/
def ownRead (s : State) (line : Nat) : Bool :=
  s.flights.any fun f => f.src == s.me && (match f.msg with | .read l _ _ _ => l == line | _ => false)

/-- The data of a line for a plain load of a page of type N: from L1; by joining a pending read; or from the home slice,
at once or by a read that stays in flight (R180, R184, R185). -/
def l1Read (s : State) (line : Nat) (hint : BitVec 2) : Eff V256 :=
  let core := s.me.core
  match s.l1Find core line with
  | some l =>
    .ok l.data (s.modCore (s.l1Core core line) fun c =>
      { c with l1 := replaceFirst (fun k => k.line == line) (fun k => { k with mark := newMark k.mark hint }) c.l1 })
  | none =>
    if s.ownRead line then .hold s false 0
    else
      match (if s.turn.join && !s.flights.any (s.seesWrite s.me line) then s.joinable line else none) with
      | some (d, all) =>
        let s := s.received core line
        .ok d (if hint = 1 || !all then s else s.l1Alloc core line d hint)
      | none =>
        if s.turn.post && hint != 1 then
          .hold { s with flights := s.flights ++ [⟨s.me, .read line none [] [], false⟩] } false 0
        else
          let d := s.lineFor s.me line
          let s := s.received core line
          .ok d (if hint = 1 then s else s.l1Alloc core line d hint)

/-- A plain store to a page of type N: into the held line, into a newly held one, or past L1 when it misses with `na`
(R180, R182). All cells lie on one line. -/
def l1Write (s : State) (line : Nat) (cells : List Host.Cell) (hint : BitVec 2) : State :=
  let core := s.me.core
  let put (s : State) : State := s.modCore (s.l1Core core line) fun c =>
    { c with l1 := replaceFirst (fun k => k.line == line) (fun k =>
        { k with
          data := overlay line k.data cells
          dirty := k.dirty ||| maskOf line cells
          mark := newMark k.mark hint
          by_ := if k.by_.contains (s.rankAt s.me) then k.by_ else k.by_ ++ [s.rankAt s.me] }) c.l1 }
  match s.l1Find core line with
  | some _ => put s
  | none =>
    if hint = 1 then s.sendCells cells none false
    else put ((s.received core line).l1Alloc core line (s.lineFor s.me line) hint)

/-- A plain store that misses reads its line at the slice first: that read waits behind a held atomic (R180, R195). -/
def l1Waits (s : State) (line : Nat) (hint : BitVec 2) : Bool :=
  hint != 1 && (s.l1Find s.me.core line).isNone && s.blocked.any fun q => q.1 == .line (line * 32) && q.2.1 != s.me && q.2.2

/-- Bytes that go to the home slice and also into the held copy, where they are clean (R182, R485). -/
def l1Through (s : State) (line : Nat) (cells : List Host.Cell) (hint : BitVec 2) : State :=
  let core := s.me.core
  s.modCore (s.l1Core core line) fun c =>
    { c with l1 := replaceFirst (fun k => k.line == line) (fun k =>
        { k with
          data := overlay line k.data cells
          dirty := k.dirty &&& ~~~(maskOf line cells)
          mark := newMark k.mark hint }) c.l1 }

/-! ## The combining buffer (R186) -/

/-- Drain the lines of a core's buffer that satisfy `p`. -/
def drainW (s : State) (core : Nat) (p : WLine → Bool) : State :=
  let ls := (s.coreAt core).wbuf.filter p
  let s := s.modCore core fun c => { c with wbuf := c.wbuf.filter fun l => !p l }
  ls.foldl (fun s l => s.send (coreWrite core l.who [l.by_] (maskCells l.line l.data l.mask))) s

/-- A store on a page of type W: merged into the strand's entry of its line, or a new entry after the earliest is evicted
(entry 87). -/
def wStore (s : State) (line : Nat) (cells : List Host.Cell) : State :=
  let core := s.me.core
  let c := s.coreAt core
  let mine (l : WLine) : Bool := l.line == line && l.by_ == s.rankAt s.me
  if c.wbuf.any mine then
    s.modCore core fun c => { c with wbuf := replaceFirst mine (fun l =>
      { l with data := overlay line l.data cells, mask := l.mask ||| maskOf line cells }) c.wbuf }
  else
    let s :=
      match c.wbuf with
      | l :: _ => if c.wbuf.length < 4 then s else s.drainW core fun k => k.line == l.line && k.by_ == l.by_
      | [] => s
    s.modCore core fun c => { c with wbuf := c.wbuf ++ [⟨line, overlay line 0 cells, maskOf line cells, s.me.slot, s.rankAt s.me⟩] }

/-! ## Cache actions (R187) -/

/-- The release action at a scope: the wait for acknowledgements, the write-back, and from domain up the drain. -/
def releaseAction (s : State) (scope : Nat) : Eff Unit :=
  if s.unacked s.me then .hold s false 0
  else
    let fused := s.fused.contains (clusterOf s.me.core)
    let s := if scope ≤ 1 ∨ (scope = 2 ∧ fused) then s else s.writeBackAll s.me.core
    let s := if scope ≤ 5 then s else s.drainW s.me.core fun _ => true
    if s.unacked s.me then .hold s false 0 else .ok () s

/-- The acquire action at a scope. -/
def acquireAction (s : State) (scope : Nat) : Eff Unit :=
  if s.unacked s.me then .hold s false 0
  else
    let fused := s.fused.contains (clusterOf s.me.core)
    let s := if scope ≤ 1 ∨ (scope = 2 ∧ fused) then s else (s.invalidateAll s.me.core).readAgain s.me.core fun _ => true
    if s.unacked s.me then .hold s false 0
    else .ok () (if 2 ≤ scope then s.barStrand s.me else if scope = 1 then s.barShared s.me else s)

/-! ## Release tags and the scope miss (R192, R195, R196) -/

/-- The tag of the executing strand's release (R195). -/
def myTag (s : State) (scope : Nat) : Tag := ⟨s.mp.module, s.me, s.strand.ident.lnum, BitVec.ofNat 3 scope⟩

/-- SVAL of cause 2: the address of the place, with the needed scope in [2:0] (R196). -/
def missValue (s : State) (who : Sid) (p : Target) (need : BitVec 3) : Word :=
  let a := match p with
    | .line pa => (s.lineShown who (pa / 32)).toNat
    | .lm c off => 0x100_0000 + 0x1_0000 * inField c + off / 8 * 8
  BitVec.ofNat 64 (a + need.toNat)

/-- A write in flight waits at a place that a held release or atomic blocks, its own or another's. -/
def waitsAt (s : State) (p : Target) (g : Flight) : Bool := (placesOf g.msg).contains p && s.blocked.any fun q => q.1 == p

/-- Bytes that a core's L1 has given up are in flight: a write-back whose acknowledgement is still to come. For the notice that
widens the release at `p`, one that stays behind a write which waits at `p` for that very notice does not count (entry 52). -/
def backInFlight (s : State) (core : Nat) (p : Target) : Bool :=
  s.flights.any fun f =>
    match f.msg with
    | .write _ none false _ =>
      (s.l1Group core).contains f.src.core && (f.done || !s.flights.any fun g => s.comesBefore f g && s.waitsAt p g)
    | _ => false

/-- The firmware's answer to a scope miss: every dirty byte of the releasing core is written back; once that is
acknowledged, the widening notice goes out (R196; entry 52). -/
def firmwareWiden (s : State) (m : Miss) : State :=
  let s := s.writeBackAll m.tag.who.core
  if s.backInFlight m.tag.who.core m.place then { s with flights := s.flights ++ [⟨m.tag.who, .widen m.place m.tag m.need, false⟩] }
  else s.widen m.place m.tag m.need

/-- The releasing strand can take cause 2. -/
def canTakeMiss (t : Strand) (lnum : Nat) : Bool :=
  t.live && t.ident.lnum == lnum && (t.mode == .U || (t.mode == .S && t.sBank.status.getLsbD 0))

/-- A scope-miss message reaches the releasing core (R196). -/
def deliverMiss (s : State) (m : Miss) : State :=
  let c := s.coreAt m.tag.who.core
  if c.miss.any fun e => e.place == m.place && e.need == m.need && e.tag == m.tag then s
  else if canTakeMiss (s.strandAt m.tag.who) m.tag.lnum ∧ c.miss.length < 8 then
    let s := s.modCore m.tag.who.core fun c => { c with miss := c.miss ++ [m] }
    s.raiseAsync m.tag.who 2 (s.missValue m.tag.who m.place m.need)
  else s.firmwareWiden m

/-- Send a scope-miss message, once for each place and scope; one for the tag of another module leaves through the E-dies,
and that module's notice answers it (R199; entry 62). -/
def sendMiss (s : State) (m : Miss) : State :=
  if s.turn.post || m.tag.module != s.mp.module then
    if s.missSent m then s else { s with flights := s.flights ++ [⟨s.me, .scopeMiss m, false⟩] }
  else s.deliverMiss m

/-- The retirement of a fence by a strand at a scope: every entry of the miss register that it covers is answered, and its
cause 2, when not yet taken, is removed (R64, R196). -/
def answerMisses (s : State) (scope : Nat) : State :=
  let covered := s.core.miss.filter fun m => m.tag.who == s.me && m.need.toNat ≤ scope
  let s := s.withCore fun c => { c with miss := c.miss.filter fun m => !covered.contains m }
  covered.foldl (fun s m =>
    let v := s.missValue s.me m.place m.need
    let s := s.withStrand fun t => { t with causes := t.causes.erase (2, v) }
    if s.turn.post then { s with flights := s.flights ++ [⟨s.me, .widen m.place m.tag m.need, true⟩] } else s.widen m.place m.tag m.need) s

/-- A fence at a scope (R366): the drain, the wait for earlier accesses, the two actions, and the answers to scope
misses. -/
def fenceAt (s : State) (scope : Nat) : Eff Unit :=
  let s := if 1 ≤ scope then s.drainW s.me.core fun _ => true else s
  (s.releaseAction scope).bind fun _ s => (s.acquireAction scope).bind fun _ s => .ok () (s.answerMisses scope)

/-- The smallest scope whose instance holds a tag's releaser and a strand: another module's strand is of the domain; an
earlier strand of the same slot is another strand of its core (R192, R199). -/
def needOf (s : State) (t : Tag) (w : Sid) : Nat :=
  if t.module ≠ s.mp.module then 6
  else if t.who = w ∧ t.lnum ≠ (s.strandAt w).ident.lnum then 1
  else smallestScope t.who w

/-- An acquire at `scope` that has read a value with a tag, found by `look`: the scope of the action it performs, or a hold
until the tag is wide enough; `whole` for an atomic, which then blocks the place (R192, R195). -/
def acquireBy (s : State) (look : State → Option Tag) (p : Target) (scope : Nat) (whole : Bool) : Eff Nat :=
  match look s with
  | none => .ok scope s
  | some t =>
    let need := s.needOf t s.me
    if need ≤ t.scope.toNat then .ok (max scope need) s
    else if t.module = s.mp.module ∧ s.retired.contains (clusterOf t.who.core) then .trap 19 (s.missValue s.me p 0) 0
    else
      let s' := s.sendMiss ⟨p, s.me, t, BitVec.ofNat 3 need, 0⟩
      match look s' with
      | some t' =>
        if need ≤ t'.scope.toNat then .ok (max scope need) s'
        else .hold { s' with blocked := if whole then (p, s.me, true) :: (s'.blocked.erase (p, s.me, true)) else s'.blocked } false 0
      | none => .ok scope s'

/-- An acquire that reads a place: the tag is the one that stands there. -/
def acquireScope (s : State) (p : Target) (scope : Nat) (whole : Bool) : Eff Nat := s.acquireBy (·.tagAt p) p scope whole

/-- A release write to a place, `whole` for an atomic: held while another strand's release narrower than module stands
there (R195). -/
def releaseOver (s : State) (p : Target) (whole : Bool) : Eff Unit :=
  match s.narrowAt [p] (s.myTag 0) with
  | none => .ok () s
  | some (_, t) =>
    let s' := s.sendMiss (widenFirst s.me p t)
    if (s'.narrowAt [p] (s.myTag 0)).isNone then .ok () s'
    else .hold { s' with blocked := (p, s.me, whole) :: (s'.blocked.erase (p, s.me, whole)) } false 0

/-- A write of another strand waits behind a held one; a read waits behind a held atomic (R195; entry 23). -/
def blockedBy (s : State) (p : Target) (write : Bool) : Bool :=
  s.blocked.any fun q => q.1 == p && q.2.1 != s.me && (write || q.2.2)

/-- The strand's held write or atomic is performed. -/
def unblock (s : State) : State := s.dropBlocks s.me

end State

end Sys2Proof.Machine
end

