-- ==== Sys2Proof/Machine/Access.lean ====
section
/-! DEFINITION. Loads, stores and atomics as the instructions make them: the order of the checks (R65), memory types
(R186), orders and scopes (R188 to R195), proposal regions (R233, R242, R243), provisional pieces (R286), other modules
(R199), and the images of the engine window (R75, R301, R381). -/

namespace Sys2Proof.Machine

def MemMod.acquires (m : MemMod) : Bool := m.order == .acquire || m.order == .acqRel
def MemMod.releases (m : MemMod) : Bool := m.order == .release || m.order == .acqRel

namespace State

/-- The place belongs to this module (R17). -/
def isOwn (s : State) (l : Loc) : Bool := moduleOfPa l.pa == s.mp.module

/-- SVAL of cause 19: the partition-relative address of the line (R63). -/
def lineVal (l : Loc) : Word := BitVec.ofNat 64 (l.pra / 32 * 32)

/-! ## Region accesses (R233, R242, R243) -/

/-- The claims that stand on a line for a round, over all strands: those of other groups and launches whose round has the same
number count too, since the slice keeps the claims by line and round (DESIGN CHOICE, entry 115). -/
def claimsOn (s : State) (line round : Nat) : Nat :=
  (s.residents.filter fun q =>
    rgsRound q.2.csr.rgs == round &&
      ((q.2.region.reads.any fun r => r.line == line && r.claimed)
        || (q.2.region.wlines.any fun w => w.1 == line && w.2))).length

/-- The strand's attempt has a claim on the line. -/
def ownClaim (t : Strand) (line : Nat) : Bool :=
  (t.region.reads.any fun r => r.line == line && r.claimed) || t.region.wlines.any fun w => w.1 == line && w.2

/-- Whether a line's next access places a claim, and the strand made heavy when it cannot (R242). -/
def claim (s : State) (line : Nat) : Bool × State :=
  if ownClaim s.strand line then (true, s)
  else if s.claimsOn line (rgsRound s.strand.csr.rgs) < 8 then (true, s)
  else (false, s.modCsr fun c => { c with rgs := setField c.rgs 5 1 1 })

/-- SVAL of cause 10 (R243). -/
def capacityVal (va : Word) (kind : Nat) : Word :=
  BitVec.ofNat 64 (va.toNat % 2 ^ 48 / 32 * 32 + kind)

/-- The bytes that the region's buffer holds laid over a line. -/
def regionOver (t : Strand) (line : Nat) (data : V256) : V256 := overlay line data t.region.writes

/-- Put cells into a byte buffer that holds every listed byte, 0 included. -/
def bufferCells (buf cells : List Host.Cell) : List Host.Cell := cells.foldl (fun b c => setK c.1 c.2 b) buf

/-- Bytes at the home slice, read past L1: the core's own dirty bytes are written back first, and what the strand has in flight
there is performed; a held write of its own makes the read wait. What the core's pending reads brought before is older and
no longer fills its L1 (R188, R485). -/
def sliceRead (s : State) (l : Loc) (n : Nat) : Eff (List Byte) :=
  let line := l.pa / 32
  let (waits, s) := (s.dropLine s.me.core line).settleLine s.me line
  if waits then .hold s false 0
  else
    .ok (s.mem.readN l.pa n) (s.received s.me.core line)

/-- A region load of `n` bytes on one line. A line without a claim that a later load finds changed makes the attempt replay
(R242). -/
def regionLoad (s : State) (l : Loc) (va : Word) (n : Nat) : Eff (List Byte) :=
  let line := l.pa / 32
  (s.sliceRead ⟨line * 32, l.pra, l.ty⟩ 32).bind fun _ s =>
    let data := lineAt s.mem line
    let t := s.strand
    let bytes := bytesAt (regionOver t line data) (l.pa % 32) n
    if rgsState t.csr.rgs = 4 then .ok bytes s
    else if t.region.reads.any fun r => r.line == line then
      .ok bytes (s.withStrand fun t => { t with region := { t.region with
        reads := t.region.reads.map fun r => if r.line = line ∧ !r.claimed ∧ r.seen ≠ data then { r with marked := true } else r } })
    else if 64 ≤ t.region.reads.length then .trap 10 (capacityVal va 0) 0
    else
      let (c, s) := s.claim line
      .ok bytes (s.withStrand fun t =>
        { t with region := { t.region with reads := t.region.reads ++ [⟨line, data, c, false⟩] } })

/-- A region store on one line: buffered, or pending at the slice in a serial region, whose claims meet no limit of a line
and which never becomes heavy (R244; entry 90). -/
def regionStore (s : State) (l : Loc) (va : Word) (bytes : List Byte) : Eff Unit :=
  let line := l.pa / 32
  let cells := cellsAt l.pa bytes
  let t := s.strand
  let serial := rgsState t.csr.rgs = 4
  let put (s : State) (wl : List (Nat × Bool)) : State := s.withStrand fun t =>
    { t with region := { t.region with wlines := t.region.wlines ++ wl, writes := bufferCells t.region.writes cells } }
  if t.region.wlines.any fun w => w.1 == line then .ok () (put s [])
  else if serial then
    if 4096 ≤ t.region.wlines.length then .trap 10 (capacityVal va 2) 0 else .ok () (put s [(line, true)])
  else if 32 ≤ t.region.wlines.length then .trap 10 (capacityVal va 1) 0
  else
    let (c, s) := s.claim line
    .ok () (put s [(line, c)])

/-- In an open region, an access to a page of type W, D or S or of another module traps with cause 11, reason 5, before
any other check of the access (R65, R235). -/
def regionPage (s : State) (va : Word) : Bool :=
  s.strand.inRegion && isGlobal va &&
    (s.vdevOf s.me).any fun d =>
      match (s.leafFor s.me.core d va.toNat).1 with
      | .leaf _ e => pteType e != 0 || (ptePeer e != 0 && ptePeer e != s.mp.module)
      | _ => false

/-! ## Reading -/

/-- The fences of a page of type S: `fence system` before and after (R186). -/
def sysFence (s : State) : Eff Unit := s.fenceAt 7

/-- The strand's access to another module that is not yet answered. -/
def isRemote (w : Sid) (f : Flight) : Bool := f.src == w && (match f.msg with | .remote _ => true | _ => false)

/-- An access to another module in flight is answered, or no longer waited for. -/
def dropRemote (s : State) (w : Sid) : State := { s with flights := s.flights.filter fun f => !isRemote w f }

/-- The answer of another module: there at once, or after a wait that the turn asks for (R199, R321). -/
def awaitPeer (s : State) (l : Loc) : Eff Unit :=
  if s.lineBad (l.pa / 32) then .trap 19 (lineVal l) 0
  else if s.turn.post then
    .hold (if s.flights.any (isRemote s.me) then s
      else { s with flights := s.flights ++ [⟨s.me, .remote (lineVal l).toNat, false⟩] }) false 0
  else .ok () s

/-- What the answer brings (R199): a free value from the peer. -/
def peerRead (s : State) (l : Loc) (n : Nat) : Eff (List Byte) :=
  .ok (bytesOfNat n (Config.peerData s.fresh l.pa).toNat) { s.dropRemote s.me with fresh := s.fresh + 1 }

/-- A store to the page is the strand's own, in order with its others there: types D and S (R186). -/
def inOrder (l : Loc) : Bool := l.ty == 2 || l.ty == 3

/-- Order and scope that the page type leaves an instruction: on W and S every access is plain (R186). -/
def effective (l : Loc) (mm : MemMod) : MemMod := if l.ty = 1 ∨ l.ty = 3 then { mm with order := .plain } else mm

/-- An access that its page type orders: on type S, between two `fence system` (R186). -/
def fenced (s : State) (l : Loc) (f : State → Eff α) : Eff α :=
  if l.ty ≠ 3 then f s
  else
    s.atOnce.sysFence.bind fun _ s1 =>
      (f { s1 with turn := s.turn }).bind fun a s2 =>
        s2.atOnce.sysFence.bind fun _ s3 => .ok a { s3 with turn := s.turn }

/-- The strand's own stores to pages of type D and S come first on such a page (R186). -/
def ordered (s : State) (l : Loc) : Eff Unit :=
  if l.ty ≠ 2 then .ok () s
  else
    let (waits, s) := s.settleOwn s.me
    if waits then .hold s false 0 else .ok () s

/-- The acquire that an access of another module makes: at its scope, or at domain scope where the peer's reply carries a
tag that asks for it (R192, R199; entry 62). -/
def peerAcquire (s : State) (l : Loc) (mm : MemMod) : Eff Unit :=
  if !MemMod.acquires mm then .ok () s
  else s.acquireAction (if Config.peerTagged s.fresh l.pa then 6 else mm.scope.toNat)

/-- The release before a write that has that order (R187, R190). -/
def releaseFirst (s : State) (mm : MemMod) : Eff Unit :=
  if MemMod.releases mm then s.releaseAction mm.scope.toNat else .ok () s

/-- A load or an atomic at another module's place, with what its order and page type ask of this core (R186, R187, R199). The
acquire action is done with the answer at hand, before it is taken, so that nothing waits once it is. -/
def peerAccess (s : State) (l : Loc) (n : Nat) (mm : MemMod) : Eff (List Byte) :=
  let mm := effective l mm
  s.fenced l fun s => (s.ordered l).bind fun _ s => (s.releaseFirst mm).bind fun _ s =>
    (s.awaitPeer l).bind fun _ s => (s.peerAcquire l mm).bind fun _ s => s.peerRead l n

/-- An acquire read of a place: the tag's answer, the read, the cache action (R187, R191, R192). -/
def acquireRead (s : State) (p : Target) (scope : Nat) (rd : State → Eff (List Byte)) : Eff (List Byte) :=
  (s.acquireScope p scope false).bind fun sc s => (rd s).bind fun bs s => (s.acquireAction sc).map fun _ => bs

/-- The strand's bytes of a line in the combining buffer, over the line's data (R186). -/
def overBuffer (s : State) (line : Nat) (d : V256) : V256 :=
  overlay line d ((s.core.wbuf.filter fun w => w.line == line && w.by_ == s.rankAt s.me).flatMap fun w => maskCells line w.data w.mask)

/-- Read `n` bytes of a global place of one line. -/
def globalLoad (s : State) (l : Loc) (va : Word) (n : Nat) (mm : MemMod) : Eff (List Byte) :=
  let line := l.pa / 32
  let mm := effective l mm
  if s.lineBad line then .trap 19 (lineVal l) 0
  else if !s.isOwn l then
    (s.peerAccess l n { mm with order := if MemMod.acquires mm then .acquire else .plain }).map fun bs =>
      if l.ty = 1 then bytesAt (s.overBuffer line (BitVec.ofNat 256 (natOfBytes bs * 2 ^ (8 * (l.pa % 32))))) (l.pa % 32) n else bs
  else if s.blockedBy (.line (line * 32)) false then .hold s false 0
  else if s.strand.regionAccess then s.regionLoad l va n
  else if l.ty = 1 then .ok (bytesAt (s.overBuffer line (s.lineFor s.me line)) (l.pa % 32) n) s
  else
    s.fenced l fun s => (s.ordered l).bind fun _ s =>
      if MemMod.acquires mm then s.acquireRead (.line (line * 32)) mm.scope.toNat fun s => s.sliceRead l n
      else if l.ty = 0 then (s.l1Read line mm.hint).map fun d => bytesAt d (l.pa % 32) n
      else s.sliceRead l n

/-- A request to another core's LM at a place, and its reply, are packets of the mesh: what this core has sent there comes
first, and before the reply what that core has sent here (R177, R188). -/
def lmOrder (s : State) (core : Nat) (p : Target) : Eff Unit :=
  if core = s.me.core then .ok () s
  else
    let (there, s) := s.settleLm s.me.core core [p]
    let (back, s) := s.settleLm core s.me.core []
    if there || back then .hold s false 0 else .ok () s

/-- Read `n` bytes of an LM (R177). -/
def lmLoad (s : State) (core off n : Nat) (mm : MemMod) : Eff (List Byte) :=
  (s.lmOrder core (.lm core (off / 8 * 8))).bind fun _ s =>
    if s.blockedBy (.lm core (off / 8 * 8)) false then .hold s false 0
    else if MemMod.acquires mm then
      s.acquireRead (.lm core (off / 8 * 8)) mm.scope.toNat fun s => .ok (Memory.readN (s.coreAt core).lm off n) s
    else .ok (Memory.readN (s.coreAt core).lm off n) s

/-- Read `n` bytes at a place. -/
def placeLoad (s : State) (p : Place) (va : Word) (n : Nat) (mm : MemMod) : Eff (List Byte) :=
  match p with
  | .lm c off => s.lmLoad c off n mm
  | .glob l => s.globalLoad l va n mm

/-! ## Writing -/

/-- A write that goes to the home slice with a release order: the action, the older tag, the write with its tag, and the
held copy (R190, R195, R485). -/
def releaseStore (s : State) (l : Loc) (cells : List Host.Cell) (mm : MemMod) : Eff Unit :=
  (s.releaseAction mm.scope.toNat).bind fun _ s =>
    (s.releaseOver (.line (l.pa / 32 * 32)) false).bind fun _ s =>
      .ok () ((s.unblock.l1Through (l.pa / 32) cells mm.hint).sendCells cells (some (s.myTag mm.scope.toNat)) (inOrder l))

/-- Write bytes to a global place of one line. -/
def globalStore (s : State) (l : Loc) (va : Word) (bytes : List Byte) (mm : MemMod) : Eff Unit :=
  let line := l.pa / 32
  let cells := cellsAt l.pa bytes
  let mm := effective l mm
  if s.strand.regionAccess then s.regionStore l va bytes
  else if s.provisional s.me ∧ !s.inAlloc va bytes.length then s.provStall
  else if s.provisional s.me then
    s.fenced l fun s => (s.releaseFirst mm).bind fun _ s =>
      .ok () ((s.l1Through line cells mm.hint).sendNow (s.myWrite cells
        (if MemMod.releases mm then some (s.myTag mm.scope.toNat) else none) (inOrder l)))
  else if l.ty = 1 then .ok () (s.wStore line cells)
  else if !s.isOwn l then
    s.fenced l fun s => (s.ordered l).bind fun _ s => (s.releaseFirst mm).bind fun _ s => (s.awaitPeer l).bind fun _ s => .ok () (s.dropRemote s.me)
  else if l.ty = 0 ∧ !MemMod.releases mm then
    if s.l1Waits line mm.hint then .hold s false 0 else .ok () (s.l1Write line cells mm.hint)
  else if s.blockedBy (.line (line * 32)) true then .hold s false 0
  else if MemMod.releases mm then s.releaseStore l cells mm
  else s.fenced l fun s => .ok () ((if l.ty = 3 then s.atOnce.sendCells cells none true else s.sendCells cells none true))

/-- Write bytes to an LM, with the full/empty bits that the form sets (R178). -/
def lmStore (s : State) (core off : Nat) (bytes : List Byte) (bits : List (Nat × Bool)) (mm : MemMod) : Eff Unit :=
  let p : Target := .lm core (off / 8 * 8)
  if s.blockedBy p true then .hold s false 0
  else if MemMod.releases mm then
    (s.releaseFirst mm).bind fun _ s =>
      (s.releaseOver p false).bind fun _ s =>
        .ok () (s.unblock.sendLm core (cellsAt off bytes) bits (some (s.myTag mm.scope.toNat)))
  else .ok () (s.sendLm core (cellsAt off bytes) bits none)

/-- Write bytes at a place that a virtual address names. -/
def placeStore (s : State) (p : Place) (va : Word) (bytes : List Byte) (mm : MemMod) : Eff Unit :=
  match p with
  | .lm c off => if s.provisional s.me ∧ !isOwnLm va then s.provStall else s.lmStore c off bytes [] mm
  | .glob l => (s.globalStore l va bytes mm).bind fun _ s => .ok () (s.postWord va bytes)

/-! ## One element (R176) -/

/-- The checks of one access of `n` bytes and where it goes; a misaligned one traps with cause 2. -/
def element (s : State) (k : Access) (both : Bool) (va : Word) (n : Nat) : Eff Place :=
  if s.regionPage va then .trap 11 5 0
  else if va.toNat % n ≠ 0 then .trap 2 va 0
  else place s k both va n

/-- Load `n` bytes at a virtual address. -/
def loadAt (s : State) (va : Word) (n : Nat) (mm : MemMod) : Eff (List Byte) :=
  (s.element .load false va n).bind fun p s => s.placeLoad p va n mm

/-- Store bytes at a virtual address. -/
def storeAt (s : State) (va : Word) (bytes : List Byte) (mm : MemMod) : Eff Unit :=
  (s.element .store false va bytes.length).bind fun p s => s.placeStore p va bytes mm

/-! ## Atomics (R194, R333 to R335) -/

/-- An atomic at a place: the release action, the answers of the tags, the acquire action, and then one read and one write with
nothing between them, after which nothing waits, so that it is performed once (R187, R194, R195, R335). `read` brings the
old bytes, `write` puts new ones with a tag. -/
def atomicOn (s : State) (t : Target) (mm : MemMod) (f : List Byte → Option (List Byte)) (read : State → Eff (List Byte))
    (write : State → List Byte → Option Tag → State) : Eff (List Byte) :=
  let scope := mm.scope.toNat
  (s.releaseFirst mm).bind fun _ s =>
    (if MemMod.acquires mm then s.acquireScope t scope true else .ok scope s).bind fun sc s =>
      (if MemMod.releases mm then s.releaseOver t true else .ok () s).bind fun _ s =>
        (if MemMod.acquires mm then s.acquireAction sc else .ok () s).bind fun _ s =>
          (read s).bind fun old s =>
            let s := s.unblock
            .ok old (match f old with
              | some new => write s new (if MemMod.releases mm then some (s.myTag scope) else none)
              | none => s)

/-- An atomic at an LM port (R194). -/
def lmAtomic (s : State) (c off n : Nat) (mm : MemMod) (f : List Byte → Option (List Byte)) : Eff (List Byte) :=
  (s.lmOrder c (.lm c (off / 8 * 8))).bind fun _ s =>
    s.atomicOn (.lm c (off / 8 * 8)) mm f (fun s => .ok (Memory.readN (s.coreAt c).lm off n) s)
      fun s new tag => s.lmPortWrite c (cellsAt off new) [] tag

/-- The combining buffer gives up a line, which is performed before what follows; whether it waits (R186). -/
def drainFirst (s : State) (line : Nat) : Bool × State :=
  ({ s.atOnce.drainW s.me.core fun w => w.line == line with turn := s.turn }).settleLine s.me line

/-- An atomic at another module's place: the combining buffer gives up the line first (R186, R199). -/
def peerAtomic (s : State) (l : Loc) (n : Nat) (mm : MemMod) : Eff (List Byte) :=
  let (waits, s) := s.drainFirst (l.pa / 32)
  if waits then .hold s false 0 else s.peerAccess l n mm

/-- An atomic at the home slice of a global place, whatever the page's type: the combining buffer gives up the line first
(R186, R194). -/
def sliceAtomic (s : State) (l : Loc) (n : Nat) (mm : MemMod) (f : List Byte → Option (List Byte)) : Eff (List Byte) :=
  s.fenced l fun s => (s.ordered l).bind fun _ s =>
    s.atomicOn (.line (l.pa / 32 * 32)) (effective l mm) f
      (fun s => (s.drainW s.me.core fun w => w.line == l.pa / 32).sliceRead l n)
      fun s new tag => s.sliceWrite (cellsAt l.pa new) tag

/-- An atomic: `f` gives the bytes to write, or none, from the bytes that stand there. An ordered one waits first for the
strand's own acknowledgements (R187), so it is performed once. -/
def atomicAt (s : State) (va : Word) (n : Nat) (mm : MemMod) (f : List Byte → Option (List Byte)) : Eff (List Byte) :=
  (s.element .store true va n).bind fun p s =>
    let waits (mm : MemMod) : Bool := mm.order != .plain && s.unacked s.me
    if s.provisional s.me then s.provStall
    else
      let keep := s.turn
      match p with
      | .lm c off =>
        if waits mm || s.blockedBy (.lm c (off / 8 * 8)) true then .hold s false 0
        else (s.atOnce.lmAtomic c off n mm f).bind fun old s => .ok old { s with turn := keep }
      | .glob l =>
        if s.lineBad (l.pa / 32) then .trap 19 (lineVal l) 0
        else if waits (effective l mm) then .hold s false 0
        else if !s.isOwn l then s.peerAtomic l n mm
        else if s.blockedBy (.line (l.pa / 32 * 32)) true then .hold s false 0
        else (s.atOnce.sliceAtomic l n mm f).bind fun old s => .ok old { s with turn := keep }

/-! ## The engine window (R57, R75, R301, R345, R381) -/

/-- The two low words of a loop frame's image (R381). -/
def frameWord (f : Frame) (i : Nat) : Word :=
  match i with
  | 0 => BitVec.ofNat 64 (bit f.act + 2 * bit f.rep + 4 * f.creg.toNat + 128 * f.stride.toNat + 2048 * f.pass.toNat)
  | 1 => f.start
  | 2 => f.stop
  | _ => 0

/-- A frame with a word of its image written; reserved bits and the low bit of an address stay 0. -/
def setFrameWord (f : Frame) (i : Nat) (w : Word) : Frame :=
  match i with
  | 0 => { f with act := w.getLsbD 0, rep := w.getLsbD 1, creg := w.extractLsb' 2 5, stride := w.extractLsb' 7 4, pass := w.extractLsb' 11 5 }
  | 1 => { f with start := w &&& 0xFFFF_FFFF_FFFE }
  | 2 => { f with stop := w &&& 0xFFFF_FFFF_FFFE }
  | _ => f

/-- The reserved bits of a copy-engine register are 0 (R345). -/
def ceMask (i : Nat) : Word :=
  match i with
  | 0 => 0xFFFF_FFFF_FFFF_FFFF | 1 => 0xFFFF_FFFF_FFFF_FFFF | 2 => 0x1_FFFF_FFFF | 3 => 0xFFFF
  | 4 => 0xFFFF_FFFF_FFFF_FFFF | 5 => 0xFFFF_FFFF_FFFF_FFFF | 6 => 0xFFFF | 7 => 0xFFFF_FFFF_FFFF_FFFF
  | 8 => 1 | 9 => 0xFFFF_FFFF_FFFF | _ => 0

/-- STAT of the copy engine: 3 while an exchange uses it (R345, R348). -/
def ceShown (e : Copier) : Nat := if !e.exch.isEmpty && e.stat != 2 then 3 else e.stat

/-- A word of a copy-engine set's image; index 10 shows STAT and OWNER. -/
def ceWord (set : Vector Word 10) (i : Nat) (stat owner : Nat) : Word :=
  if h : i < 10 then set[i] else if i = 10 then BitVec.ofNat 64 (stat + 4 * owner) else 0

/-- What an offset of the window names: an image's word. -/
inductive WinWord where
  | count  (slot : Nat)
  | record (slot i : Nat)
  | active (i : Nat)
  | shadow (i : Nat)
  | inval
  | frame  (slot : Nat) (m : Mode) (i : Nat)
  deriving DecidableEq, Repr

/-- The image that holds the aligned 8-byte word at an offset of the window, for a mode (R75, R301, R381). -/
def imageAt (m : Mode) (off : Nat) : Option WinWord :=
  let o := off / 8 * 8
  if m = .U then none
  else if 0x100 ≤ o ∧ o < 0x120 then some (.count ((o - 0x100) / 8))
  else if 0x1000 ≤ o ∧ o < 0x2000 then some (.record ((o - 0x1000) / 0x400) ((o - 0x1000) % 0x400 / 8))
  else if 0x2000 ≤ o ∧ o < 0x2080 then some (.active ((o - 0x2000) / 8))
  else if 0x2080 ≤ o ∧ o < 0x2100 then some (.shadow ((o - 0x2080) / 8))
  else if o = 0x3000 then some .inval
  else if 0x3100 ≤ o ∧ o < 0x3200 then
    let k := o - 0x3100
    some (.frame (k / 0x40) (if k % 0x40 < 0x20 then .U else .S) (k % 0x20 / 8))
  else if 0x3200 ≤ o ∧ o < 0x3280 ∧ m = .M then some (.frame ((o - 0x3200) / 0x20) .M ((o - 0x3200) % 0x20 / 8))
  else none

/-- Word `i` of the held records of a slot; beyond the held count it reads 0 (R75). -/
def heldWord (held : List Rec512) (i : Nat) : Word :=
  match held[i / 8]? with
  | some r => r.extractLsb' (64 * (i % 8)) 64
  | none => 0

/-- The word of an image. -/
def imageWord (s : State) (im : WinWord) : Word :=
  let c := s.core
  match im with
  | .count k => BitVec.ofNat 64 (vgetN c.matrix.held k).length
  | .record k i => heldWord (vgetN c.matrix.held k) i
  | .active i => ceWord c.ce.active i (ceShown c.ce) c.ce.owner
  | .shadow i => ceWord c.ce.shadow i 0 0
  | .inval => 0
  | .frame k m i => frameWord ((s.strandAt ⟨s.me.core, k⟩).frame m) i

/-- Drop the TLB entries of a device that map an address, or all of them (R301). -/
def dropTlb (s : State) (vdev : Nat) (va : Option Nat) : State :=
  let keep (t : Tlb) : Bool := !(t.vdev == vdev && va.all fun a => t.hits vdev a)
  { s with
    cores := s.cores.map fun (p : Nat × Core) => (p.1, { p.2 with tlb := p.2.tlb.filter keep })
    clTlb := s.clTlb.map fun (p : Nat × List Tlb) => (p.1, p.2.filter keep) }

/-- An access of a device that has been sent and is still to be performed. -/
def sentBy (s : State) (vdev : Nat) (f : Flight) : Bool :=
  !f.done && (s.coreVdev f.src.core).any (fun d => d.num == vdev) &&
    match f.msg with
    | .write .. => true
    | .read _ none _ _ => true
    | .remote _ => true
    | _ => false

/-- The combining buffers of a device's cores drain. -/
def drainVdev (s : State) (vdev : Nat) : State :=
  (s.cores.map Prod.fst).foldl (fun s n => if (s.coreVdev n).any (fun d => d.num == vdev) then s.drainW n fun _ => true else s) s

/-- The effect of a store to the invalidation word: what the device's strands have sent, or hold in a combining buffer, with
older entries is performed before it retires (R301). -/
def invalidateTlb (s : State) (w : Word) : Eff Unit :=
  (s.releaseAction 5).bind fun _ s =>
    let v := s.strand.ident.vdev
    let s := ((s.drainVdev v).dropTlb v (if w.getLsbD 0 then none else some (field w 16 32 * 65536))).performAll (s.sentBy v)
    if s.flights.any (s.sentBy v) then .hold s false 0 else .ok () s

/-- Write a word of an image. -/
def setImage (s : State) (im : WinWord) (w : Word) : Eff Unit :=
  match im with
  | .count k =>
    .ok () (if w = 0 then s.withCore fun c => { c with matrix := { c.matrix with held := vsetN c.matrix.held k [] } } else s)
  | .record k i =>
    .ok () (s.withCore fun c =>
      let h := vgetN c.matrix.held k
      let put (r : Rec512) : Rec512 := setField r (64 * (i % 8)) 64 w.toNat
      let h' := match h[i / 8]? with
        | some r => h.set (i / 8) (put r)
        | none => h
      { c with matrix := { c.matrix with held := vsetN c.matrix.held k h' } })
  | .active i =>
    .ok () (if h : i < 10 then s.withCore fun c => { c with ce := { c.ce with active := c.ce.active.set i (w &&& ceMask i) } } else s)
  | .shadow i =>
    .ok () (if h : i < 10 then s.withCore fun c => { c with ce := { c.ce with shadow := c.ce.shadow.set i (w &&& ceMask i) } } else s)
  | .inval => s.invalidateTlb w
  | .frame k m i =>
    .ok () (s.modStrand ⟨s.me.core, k⟩ fun t => t.setFrame m (setFrameWord (t.frame m) i w))

/-- The acquire after a read that has that order (R187, R191). -/
def acquireAfter (s : State) (mm : MemMod) : Eff Unit :=
  if MemMod.acquires mm then s.acquireAction mm.scope.toNat else .ok () s

/-- A scalar load of `n` bytes from the window, with the action that its order asks for (R187, R376). -/
def windowLoad (s : State) (va : Word) (n : Nat) (mm : MemMod) : Eff (List Byte) :=
  match imageAt s.strand.mode (va.toNat - 0x200_0000) with
  | some im => (s.acquireAfter mm).map fun _ => bytesAt (s.imageWord im) (va.toNat % 8) n
  | none => .trap 7 va 0

/-- A scalar store into the window (R409): only an 8-byte `sd`, after the action that its order asks for (R187). -/
def windowStore (s : State) (va : Word) (w : Word) (isSd : Bool) (mm : MemMod) : Eff Unit :=
  match imageAt s.strand.mode (va.toNat - 0x200_0000) with
  | some im => if isSd then (s.releaseFirst mm).bind fun _ s => s.setImage im w else .trap 7 va 0
  | none => .trap 7 va 0

end State

end Sys2Proof.Machine
end

