-- ==== Sys2Proof/Machine/Fp.lean ====
section
/-! DEFINITION. Floating-point formats (R118 to R121), exact values and their one rounding (R127, R128), NaNs (R129),
arithmetic, comparisons and conversions (R130, R131, R361 to R364). -/

namespace Sys2Proof.Machine

/-- What a format does with its top exponent (R119, R121): infinities and NaNs, the one NaN of E4M3, or numbers only. -/
inductive Top where
  | ieee | oneNaN | numbers
  deriving DecidableEq, Repr

/-- A format: bits of exponent and of mantissa, bias. -/
structure Fmt where
  ebits : Nat
  mbits : Nat
  bias  : Nat
  top   : Top
  deriving DecidableEq, Repr

namespace Fmt

def f64 : Fmt := ⟨11, 52, 1023, .ieee⟩
def f32 : Fmt := ⟨8, 23, 127, .ieee⟩
def hf : Fmt := ⟨5, 10, 15, .ieee⟩
def bf : Fmt := ⟨8, 7, 127, .ieee⟩
def e4 : Fmt := ⟨4, 3, 7, .oneNaN⟩
def e5 : Fmt := ⟨5, 2, 15, .ieee⟩
def e2m3 : Fmt := ⟨2, 3, 1, .numbers⟩
def e2m1 : Fmt := ⟨2, 1, 1, .numbers⟩

def width (f : Fmt) : Nat := f.ebits + f.mbits + 1
/-- The all-ones exponent. -/
def emax (f : Fmt) : Nat := 2 ^ f.ebits - 1
/-- Mantissa and exponent field of the largest finite value. -/
def maxMan (f : Fmt) : Nat :=
  match f.top with
  | .ieee => 2 ^ f.mbits - 1
  | .oneNaN => 2 ^ f.mbits - 2
  | .numbers => 2 ^ f.mbits - 1
def maxExp (f : Fmt) : Nat :=
  match f.top with
  | .ieee => f.emax - 1
  | _ => f.emax
/-- Bits of the largest finite value. -/
def maxBits (f : Fmt) : Nat := f.maxExp * 2 ^ f.mbits + f.maxMan
/-- The exponent of the last place of a subnormal. -/
def qmin (f : Fmt) : Int := 1 - (f.bias : Int) - f.mbits
def signBit (f : Fmt) (neg : Bool) : Nat := if neg then 2 ^ (f.width - 1) else 0
/-- Infinity, or the NaN that stands for it in E4M3 (R127). -/
def infBits (f : Fmt) : Nat :=
  match f.top with
  | .ieee => f.emax * 2 ^ f.mbits
  | _ => f.emax * 2 ^ f.mbits + (2 ^ f.mbits - 1)
/-- The canonical NaN (R120). -/
def nanBits (f : Fmt) : Nat :=
  match f.top with
  | .ieee => f.emax * 2 ^ f.mbits + 2 ^ (f.mbits - 1)
  | _ => f.emax * 2 ^ f.mbits + (2 ^ f.mbits - 1)

end Fmt

/-- The rounding modes of FPC.RM (R124). -/
inductive Rm where
  | rne | rtz | rdn | rup | rna
  deriving DecidableEq, Repr

/-- What FPC says to an operation. -/
structure FpEnv where
  rm  : Rm
  sub : Bool
  sat : Bool
  nan : Bool
  deriving DecidableEq, Repr

/-! FFLAGS bits (R125). -/

def fNX : Word := 1
def fUF : Word := 2
def fOF : Word := 4
def fDZ : Word := 8
def fNV : Word := 16

/-- A decoded operand. A finite value is man × 2^exp; a NaN keeps its sign, its mantissa field and that field's width. -/
inductive Fv where
  | nan (neg quiet : Bool) (man mbits : Nat)
  | inf (neg : Bool)
  | fin (neg : Bool) (man : Nat) (exp : Int)
  deriving DecidableEq, Repr

def Fv.isNaN : Fv → Bool
  | .nan .. => true | _ => false
def Fv.isSNaN : Fv → Bool
  | .nan _ q _ _ => !q | _ => false
def Fv.isZero : Fv → Bool
  | .fin _ m _ => m == 0 | _ => false
def Fv.isInf : Fv → Bool
  | .inf _ => true | _ => false
def Fv.neg : Fv → Bool
  | .nan n .. => n | .inf n => n | .fin n .. => n
def Fv.negate : Fv → Fv
  | .nan n q m b => .nan n q m b | .inf n => .inf (!n) | .fin n m e => .fin (!n) m e

/-- Read a pattern (R118, R119, R121), whatever stands above its width. -/
def Fmt.decode (f : Fmt) (bits : Nat) : Fv :=
  let neg := bits / 2 ^ (f.width - 1) % 2 == 1
  let e := bits / 2 ^ f.mbits % 2 ^ f.ebits
  let m := bits % 2 ^ f.mbits
  if f.top = .ieee ∧ e = f.emax then
    if m = 0 then .inf neg else .nan neg (2 ^ (f.mbits - 1) ≤ m) m f.mbits
  else if f.top = .oneNaN ∧ e = f.emax ∧ m = 2 ^ f.mbits - 1 then .nan neg true m f.mbits
  else if e = 0 then .fin neg m f.qmin
  else .fin neg (2 ^ f.mbits + m) (f.qmin + e - 1)

/-- Read an operand under FPC.SUB: a subnormal is a zero of its sign (R128). -/
def Fmt.read (f : Fmt) (env : FpEnv) (bits : Nat) : Fv :=
  match f.decode bits with
  | .fin n m e => if env.sub ∧ m < 2 ^ f.mbits then .fin n 0 e else .fin n m e
  | v => v

/-! ## Rounding -/

/-- Whether a magnitude goes up to the next integer: `rem` of `2^d` is cut off, and something more when `sticky`. -/
def roundUp (rm : Rm) (neg odd : Bool) (rem d : Nat) (sticky : Bool) : Bool :=
  let half := 2 ^ d
  let inexact := rem != 0 || sticky
  let above := half < 2 * rem || (2 * rem == half && sticky)
  let tie := 2 * rem == half && !sticky
  match rm with
  | .rne => above || (tie && odd)
  | .rna => above || tie
  | .rtz => false
  | .rdn => neg && inexact
  | .rup => !neg && inexact

/-- A magnitude man × 2^exp, a little more when `sticky`, as a multiple of 2^q: the multiple, and whether it differs. -/
def roundAt (rm : Rm) (neg : Bool) (man : Nat) (exp q : Int) (sticky : Bool) : Nat × Bool :=
  if q ≤ exp then (man * 2 ^ (exp - q).toNat, sticky)
  else
    let d := (q - exp).toNat
    let k := man / 2 ^ d
    let rem := man % 2 ^ d
    (if roundUp rm neg (k % 2 == 1) rem d sticky then k + 1 else k, rem != 0 || sticky)

/-- What an overflow gives (R127): infinity, or the largest finite value. -/
def overflowToInf (rm : Rm) (neg : Bool) : Bool :=
  match rm with
  | .rne => true | .rna => true | .rtz => false | .rdn => neg | .rup => !neg

/-- Round a nonzero exact value once to a format (R127, R128); `sat` is FPC.SAT where it governs (R130). -/
def Fmt.round (f : Fmt) (env : FpEnv) (sat neg : Bool) (man : Nat) (exp : Int) (sticky : Bool) : Nat × Word :=
  let lead : Int := exp + Nat.log2 man
  let q := lead - f.mbits
  let (ku, _) := roundAt env.rm neg man exp q sticky
  let emin : Int := 1 - (f.bias : Int)
  -- the value rounded with an unbounded exponent is ku × 2^q, its leading exponent `lead` or one more
  let lead' := if 2 ^ (f.mbits + 1) ≤ ku then lead + 1 else lead
  if lead' < emin then
    if env.sub then (f.signBit neg, fUF ||| fNX)
    else
      let (k, inexact) := roundAt env.rm neg man exp f.qmin sticky
      (f.signBit neg + k, if inexact then fUF ||| fNX else 0)
  else
    let qb := if q < f.qmin then f.qmin else q
    let (k, inexact) := roundAt env.rm neg man exp qb sticky
    let bits := (qb - f.qmin).toNat * 2 ^ f.mbits + k
    if f.maxBits < bits then
      (f.signBit neg + (if overflowToInf env.rm neg && !sat then f.infBits else f.maxBits), fOF ||| fNX)
    else (f.signBit neg + bits, if inexact then fNX else 0)

/-! ## NaN results (R129) -/

/-- A NaN operand quieted and carried into a format. -/
def Fmt.carryNaN (f : Fmt) (neg : Bool) (man mbits : Nat) : Nat :=
  let m := man ||| 2 ^ (mbits - 1)
  let m := if mbits ≤ f.mbits then m * 2 ^ (f.mbits - mbits) else m / 2 ^ (mbits - f.mbits)
  f.signBit neg + (match f.top with
    | .ieee => f.emax * 2 ^ f.mbits + m
    | _ => f.infBits)

/-- The NaN result of an operation: canonical, or of the first NaN operand. -/
def Fmt.nanOf (f : Fmt) (env : FpEnv) (ops : List Fv) : Nat :=
  match ops.find? Fv.isNaN with
  | some (.nan n _ m b) => if env.nan then f.carryNaN n m b else f.nanBits
  | _ => f.nanBits

/-- NV for a signalling operand. -/
def snanFlag (ops : List Fv) : Word := if ops.any Fv.isSNaN then fNV else 0

/-- The invalid operation's result. -/
def Fmt.invalid (f : Fmt) (env : FpEnv) (ops : List Fv) : Nat × Word := (f.nanOf env ops, fNV)

def Fmt.inf (f : Fmt) (neg : Bool) : Nat := f.signBit neg + f.infBits

/-! ## Arithmetic -/

/-- The sign of an exact zero sum (R127): of nonzero operands by the mode, of two equal zeros theirs; of two opposite
zeros +, as R464's identity has it, but for RDN, where the sign is free (entry 13). -/
def zeroSumNeg (rm : Rm) (xZero yZero xNeg yNeg : Bool) : Bool :=
  if xZero && yZero then (if xNeg == yNeg then xNeg else rm == .rdn && Config.oppositeZerosRdn)
  else rm == .rdn

/-- The exact sum of two finite values as sign, magnitude and exponent; magnitude 0 when they cancel. -/
def exactSum (n1 : Bool) (m1 : Nat) (e1 : Int) (n2 : Bool) (m2 : Nat) (e2 : Int) : Bool × Nat × Int :=
  let e := min e1 e2
  let a : Int := (m1 * 2 ^ (e1 - e).toNat : Nat)
  let b : Int := (m2 * 2 ^ (e2 - e).toNat : Nat)
  let t := (if n1 then -a else a) + (if n2 then -b else b)
  (t < 0, t.natAbs, e)

/-- Round(x + y) of two values, of which neither is a NaN (R127). -/
def Fmt.sumOf (f : Fmt) (env : FpEnv) (sat : Bool) (x y : Fv) : Nat × Word :=
  match x, y with
  | .inf a, .inf b => if a = b then (f.inf a, 0) else (f.nanBits, fNV)
  | .inf a, _ => (f.inf a, 0)
  | _, .inf b => (f.inf b, 0)
  | .fin n1 m1 e1, .fin n2 m2 e2 =>
    let (n, m, e) := exactSum n1 m1 e1 n2 m2 e2
    if m = 0 then (f.signBit (zeroSumNeg env.rm (m1 == 0) (m2 == 0) n1 n2), 0) else f.round env sat n m e false
  | _, _ => (f.nanBits, fNV)

def Fmt.add (f : Fmt) (env : FpEnv) (x y : Fv) : Nat × Word :=
  if x.isNaN || y.isNaN then (f.nanOf env [x, y], snanFlag [x, y]) else f.sumOf env false x y

/-- x − y: a NaN operand keeps its sign. -/
def Fmt.sub (f : Fmt) (env : FpEnv) (x y : Fv) : Nat × Word := f.add env x y.negate

def Fmt.mul (f : Fmt) (env : FpEnv) (x y : Fv) : Nat × Word :=
  if x.isNaN || y.isNaN then (f.nanOf env [x, y], snanFlag [x, y])
  else
    let n := x.neg != y.neg
    match x, y with
    | .fin _ m1 e1, .fin _ m2 e2 =>
      if m1 * m2 = 0 then (f.signBit n, 0) else f.round env false n (m1 * m2) (e1 + e2) false
    | _, _ => if x.isZero || y.isZero then (f.nanBits, fNV) else (f.inf n, 0)

/-- The exact product of two values that are no NaNs and not zero times infinity. -/
def exactMul (x y : Fv) : Fv :=
  match x, y with
  | .fin a m1 e1, .fin b m2 e2 => .fin (a != b) (m1 * m2) (e1 + e2)
  | _, _ => .inf (x.neg != y.neg)

/-- Round(x × y + z), the product not rounded (R362). -/
def Fmt.fma (f : Fmt) (env : FpEnv) (x y z : Fv) : Nat × Word :=
  let bad := (x.isZero && y.isInf) || (x.isInf && y.isZero)
  if bad then (f.nanOf env [x, y, z], fNV)
  else if x.isNaN || y.isNaN || z.isNaN then (f.nanOf env [x, y, z], snanFlag [x, y, z])
  else f.sumOf env false (exactMul x y) z

def Fmt.div (f : Fmt) (env : FpEnv) (x y : Fv) : Nat × Word :=
  if x.isNaN || y.isNaN then (f.nanOf env [x, y], snanFlag [x, y])
  else
    let n := x.neg != y.neg
    match x, y with
    | .inf _, .inf _ => (f.nanBits, fNV)
    | .inf _, _ => (f.inf n, 0)
    | _, .inf _ => (f.signBit n, 0)
    | .fin _ m1 e1, .fin _ m2 e2 =>
      if m2 = 0 then (if m1 = 0 then (f.nanBits, fNV) else (f.inf n, fDZ))
      else if m1 = 0 then (f.signBit n, 0)
      else
        let num := m1 * 2 ^ 128
        f.round env false n (num / m2) (e1 - e2 - 128) (num % m2 != 0)
    | _, _ => (f.nanBits, fNV)

/-- The largest r with r² ≤ v, its bits from `n` down. -/
def isqrtFrom (v : Nat) : Nat → Nat → Nat
  | 0, r => r
  | n + 1, r => isqrtFrom v n (if (r + 2 ^ n) * (r + 2 ^ n) ≤ v then r + 2 ^ n else r)
def isqrt (v : Nat) : Nat := isqrtFrom v (Nat.log2 v / 2 + 1) 0

def Fmt.sqrt (f : Fmt) (env : FpEnv) (x : Fv) : Nat × Word :=
  match x with
  | .nan .. => (f.nanOf env [x], snanFlag [x])
  | .inf n => if n then (f.nanBits, fNV) else (f.inf false, 0)
  | .fin n m e =>
    if m = 0 then (f.signBit n, 0)
    else if n then (f.nanBits, fNV)
    else
      let m' := if e % 2 = 0 then m else 2 * m
      let e' := if e % 2 = 0 then e else e - 1
      let v := m' * 2 ^ 160
      let r := isqrt v
      f.round env false false r (e' / 2 - 80) (r * r != v)

/-! ## Comparison -/

/-- Compare two values, neither a NaN, as x < y, x = y. -/
def cmpVal (x y : Fv) : Bool × Bool :=
  match x, y with
  | .fin n1 m1 e1, .fin n2 m2 e2 =>
    let (n, m, _) := exactSum n1 m1 e1 (!n2) m2 e2
    (n && m != 0, m == 0)
  | .inf a, .inf b => (a && !b, a == b)
  | .inf a, _ => (a, false)
  | _, .inf b => (!b, false)
  | _, _ => (false, false)

/-- The six relations that comparisons use. -/
inductive Rel where
  | eq | ne | lt | le | gt | ge
  deriving DecidableEq, Repr

/-- A relation of two operands and its flags (R363, R444): NV for any NaN unless the relation is equality. -/
def fpRel (r : Rel) (x y : Fv) : Bool × Word :=
  if x.isNaN || y.isNaN then
    (r == .ne, match r with
      | .eq => snanFlag [x, y] | .ne => snanFlag [x, y] | _ => fNV)
  else
    let (lt, eq) := cmpVal x y
    (match r with
      | .eq => eq | .ne => !eq | .lt => lt | .le => lt || eq | .gt => !(lt || eq) | .ge => !lt, 0)

/-- The pattern of an operand as read under R128. -/
def Fmt.asRead (f : Fmt) (env : FpEnv) (bits : Nat) : Nat :=
  let b := bits % 2 ^ f.width
  let m := b % 2 ^ (f.width - 1)
  if env.sub && m < 2 ^ f.mbits then b - m else b

/-- `fmin` and `fmax` (R362): −0 lies below +0. -/
def Fmt.minmax (f : Fmt) (env : FpEnv) (isMax : Bool) (a b : Nat) : Nat × Word :=
  let x := f.read env a
  let y := f.read env b
  let fl := snanFlag [x, y]
  if x.isNaN && y.isNaN then (f.nanOf env [x, y], fl)
  else if x.isNaN then (f.asRead env b, fl)
  else if y.isNaN then (f.asRead env a, fl)
  else
    let (lt, eq) := cmpVal x y
    let xLow := lt || (eq && x.neg && !y.neg)
    (if xLow != isMax then f.asRead env a else if eq && x.neg == y.neg then f.asRead env a else f.asRead env b, fl)

/-- The class mask of a raw pattern (R363). -/
def Fmt.classMask (f : Fmt) (bits : Nat) : Word :=
  match f.decode bits with
  | .inf n => if n then 1 else 128
  | .nan _ q _ _ => if q then 512 else 256
  | .fin n m _ =>
    if m = 0 then (if n then 8 else 16)
    else if m < 2 ^ f.mbits then (if n then 4 else 32)
    else if n then 2 else 64

/-! ## Conversion -/

/-- To a floating-point format (R130): exact or narrowing. Only a narrowing one heeds FPC.SAT (entry 16). -/
def cvtFF (src dst : Fmt) (env : FpEnv) (bits : Nat) : Nat × Word :=
  let x := src.read env bits
  match x with
  | .nan .. => (dst.nanOf env [x], snanFlag [x])
  | .inf n =>
    if env.sat && (dst.ebits < src.ebits || dst.mbits < src.mbits) then (dst.signBit n + dst.maxBits, 0)
    else if dst.top = .ieee then (dst.inf n, 0)
    else (dst.nanBits, fNV)
  | .fin n m e => if m = 0 then (dst.signBit n, 0) else dst.round env env.sat n m e false

/-- From an integer (R131). -/
def cvtIF (dst : Fmt) (env : FpEnv) (v : Int) : Nat × Word :=
  if v = 0 then (0, 0) else dst.round env env.sat (v < 0) v.natAbs 0 false

/-- To an integer of a range (R131). -/
def cvtFI (env : FpEnv) (x : Fv) (lo hi : Int) : Int × Word :=
  match x with
  | .nan .. => (0, fNV)
  | .inf n => (if n then lo else hi, fNV)
  | .fin n m e =>
    let (k, inexact) := roundAt env.rm n m e 0 false
    let v : Int := if n then -(k : Int) else k
    if v < lo then (lo, fNV) else if hi < v then (hi, fNV) else (v, if inexact then fNX else 0)

end Sys2Proof.Machine
end

