-- ==== Sys2Proof/Machine/Flags.lean ====
section
/-! DEFINITION. FPC and FFLAGS (R124, R125), and how an operation that raises flags ends. -/

namespace Sys2Proof.Machine

/-- A rounding code (R124). The reserved 5 to 7 reach no FPC; a pushed record may hold one, and then some mode rounds
(entry 15). -/
def rmOf (c : Nat) : Rm :=
  match (if c < 5 then c else Config.reservedRm c) with
  | 1 => .rtz | 2 => .rdn | 3 => .rup | 4 => .rna | _ => .rne

/-- What FPC says. -/
def envOf (fpc : Word) : FpEnv := ⟨rmOf (field fpc 0 3), fpc.getLsbD 3, fpc.getLsbD 4, fpc.getLsbD 5⟩

/-- FPC after a write: reserved bits 0, a reserved RM ignored (R6, R124). -/
def writeFpc (old new : Word) : Word :=
  let w := new &&& 0x7FF
  if 4 < field new 0 3 then setField w 0 3 (field old 0 3) else w

namespace State

def env (s : State) : FpEnv := envOf s.strand.csr.fpc

/-- FPC.TE, in the places of FFLAGS. -/
def te (s : State) : Word := BitVec.ofNat 64 (field s.strand.csr.fpc 6 5)

/-- Raise flags and write the destination with `f`; a flag that TE enables traps with cause 16, the flags raised and
the destination not written (R125). -/
def flagged (s : State) (flags : Word) (f : State → State) : Eff Unit :=
  if flags &&& s.te ≠ 0 then .trap 16 (flags &&& s.te) flags else .ok () (f (s.raise flags))

end State

/-- A result narrower than a register, zero-extended (R360). -/
def zextNat (n : Nat) : Word := BitVec.ofNat 64 n

end Sys2Proof.Machine
end

