-- ==== Sys2Proof/Machine/Operands.lean ====
section
/-! DEFINITION. Operand forms: addresses from a base and an offset, branch targets, vector lanes and masks (R436), pairs
of vector registers, and the extension of what a load brings (R376). -/

namespace Sys2Proof.Machine

/-- Lane `i` of `w` bits. -/
def lane (v : V256) (w i : Nat) : Nat := (v.extractLsb' (w * i) w).toNat

/-- Lanes of `w` bits from a function, the lowest first, as one number. -/
def packLanes (w : Nat) (f : Nat → Nat) : Nat → Nat
  | 0 => 0
  | n + 1 => packLanes w f n + (f n % 2 ^ w) * 2 ^ (w * n)

/-- A register of 256/w lanes. -/
def ofLanes (w : Nat) (f : Nat → Nat) : V256 := BitVec.ofNat 256 (packLanes w f (256 / w))

/-- The number that a lane's bits mean, signed or unsigned. -/
def laneInt (signed : Bool) (w v : Nat) : Int := if signed then (BitVec.ofNat w v).toInt else (v : Int)

/-- The low `w` bits of an integer. -/
def wrapInt (w : Nat) (v : Int) : Nat := (BitVec.ofInt w v).toNat

namespace State

/-- ea = X[B] + imm, in signed bytes. -/
def ea (s : State) (b : XReg) (imm : BitVec n) : Word := s.x b + imm.signExtend 64

/-- PCF + 2 × imm (R340). -/
def rel (s : State) (off : BitVec n) : Word := s.pcf + 2 * off.signExtend 64

/-- Lane `i` is active (R436). -/
def active (s : State) (m : MaskMod) (i : Nat) : Bool :=
  match m with
  | .all => true
  | .lanes r _ => (s.x r).getLsbD i

end State

/-- The zeroing bit (R89). -/
def zeroing : MaskMod → Bool
  | .all => false
  | .lanes _ z => z

/-- Merge results into a destination under a mask (R436). -/
def mergeLanes (w : Nat) (act : Nat → Bool) (zero : Bool) (old : V256) (f : Nat → Nat) : V256 :=
  ofLanes w fun i => if act i then f i else if zero then 0 else lane old w i

/-- The active lanes below `n`, in lane order. -/
def activeLanes (act : Nat → Bool) (n : Nat) : List Nat := (List.range n).filter act

/-- The even and the odd register of a pair. -/
def evenOf (p : BitVec 4) : VReg := p ++ (0 : BitVec 1)
def oddOf (p : BitVec 4) : VReg := p ++ (1 : BitVec 1)

/-- Extend the bytes that a load brings. -/
def zextBytes (bs : List Byte) : Word := wordOfBytes bs
def sextBytes (bs : List Byte) : Word := sext (8 * bs.length) (natOfBytes bs)

/-- The lowest `n` bytes of a word, as a store writes them. -/
def lowBytes (w : Word) (n : Nat) : List Byte := bytesOfNat n w.toNat

end Sys2Proof.Machine
end

