-- ==== Sys2Proof/Machine/CopyEngine.lean ====
section
/-! DEFINITION. The copy engine's transfer: its chunks, its completion word, its stop and its faults (R345, R348 to R351). -/

namespace Sys2Proof.Machine

/-- Fields of a set (R345). -/
def ceRow (set : Vector Word 10) (dst : Bool) (r : Nat) : Word :=
  if dst then set[1] + BitVec.ofNat 64 r * set[5] else set[0] + BitVec.ofNat 64 r * set[4]
def ceLen (set : Vector Word 10) : Nat := field set[2] 0 33
def ceRows (set : Vector Word 10) : Nat := field set[3] 0 16
def ceTotal (set : Vector Word 10) : Nat := ceLen set * ceRows set
def ceProg (set : Vector Word 10) : Nat := field set[9] 0 48
/-- Byte `i` of the sequence of rows. -/
def ceByte (set : Vector Word 10) (dst : Bool) (i : Nat) : Word :=
  ceRow set dst (i / ceLen set) + BitVec.ofNat 64 (i % ceLen set)

/-- [a, a + n) lies in own LM, in the field window, or in global memory. -/
def ceReach (a : Word) (n : Nat) : Bool :=
  decide (a.toNat + n ≤ 0x1_0000)
    || (decide (0x100_0000 ≤ a.toNat) && decide (a.toNat + n ≤ 0x200_0000))
    || (decide (0x1_0000_0000 ≤ a.toNat) && decide (a.toNat + n ≤ 0x1_0000_0000_0000))

/-- A set is well formed (R345, R348; entry 44). -/
def ceGood (set : Vector Word 10) : Bool :=
  let n := ceLen set
  decide (8 ≤ n) && decide (n ≤ 2 ^ 32) && n % 8 == 0 && decide (1 ≤ ceRows set) && decide (ceTotal set ≤ 2 ^ 40)
    && decide (ceProg set ≤ ceTotal set)
    && field set[0] 0 3 == 0 && field set[1] 0 3 == 0 && field set[4] 0 3 == 0 && field set[5] 0 3 == 0
    && field set[6] 0 3 == 0
    && (List.range (ceRows set)).all fun r => ceReach (ceRow set false r) n && ceReach (ceRow set true r) n

/-- Bytes that an engine moves: where from, where to, and how many. -/
structure Move where
  from_ : Place
  to_   : Place
  n     : Nat
  deriving DecidableEq, Repr

/-- The slice's line or the port's word of a place. -/
def Place.target : Place → Target
  | .lm c off => .lm c (off / 8 * 8)
  | .glob l => .line (l.pa / 32 * 32)

/-- What stops a chunk: cause and SVAL (R351). -/
abbrev CeStop := Nat × Word

/-- SVAL of cause 4 from the engine. -/
def ceFault (code : Nat) (va : Word) : CeStop := (4, BitVec.ofNat 64 (1 + 16 * code + 2 ^ 16 * (va.toNat % 2 ^ 48)))

/-- The code of a translation fault's cause. -/
def ceCode (cause : Nat) : Nat :=
  match cause with
  | 4 => 2 | 5 => 3 | 6 => 4 | _ => 5

namespace State

/-- Where the engine of a core reaches for the strand `w`, in the mode in which the transfer was armed. -/
def cePlace (s : State) (w : Sid) (k : Access) (va : Word) : Except CeStop (Place × State) :=
  if isOwnLm va then .ok (.lm w.core va.toNat, s)
  else if isFieldLm va then
    let c := fieldOf w.core * 256 + (va.toNat - 0x100_0000) / 65536
    if (s.vdevOf w).any (inVdev · c) && !s.retired.contains (clusterOf c) then .ok (.lm c (va.toNat % 65536), s)
    else .error (ceFault 5 va)
  else if isGlobal va then
    match s.vdevOf w with
    | none => .error (ceFault (ceCode (faultCause k)) va)
    | some d =>
      match translate s w.core d (if (s.coreAt w.core).ce.priv then .S else .U) k false va with
      | .error c => .error (ceFault (ceCode c) va)
      | .ok (l, s) =>
        if s.lineBad (l.pa / 32) then .error (5, lineVal l) else .ok (.glob l, s)
  else .error (ceFault 5 va)

/-- Bytes at a place, past the L1s. -/
def ceRead (s : State) (p : Place) (n : Nat) : List Byte × State :=
  match p with
  | .lm c off => (Memory.readN (s.coreAt c).lm off n, s)
  | .glob l =>
    if s.isOwn l then (s.mem.readN l.pa n, s)
    else (bytesOfNat n (Config.peerData s.fresh l.pa).toNat, { s with fresh := s.fresh + 1 })

/-- A write of an engine that works for a strand, as a message: an LM word becomes full (R178, R197). -/
def engineWrite (s : State) (w : Sid) (q : Place × List Byte) : Flight :=
  match q.1 with
  | .lm c off => ⟨w, .lmWrite c (cellsAt off q.2) [(off / 8, true)] none, false⟩
  | .glob l => coreWrite w.core w.slot [s.rankAt w] (cellsAt l.pa q.2)

/-- What an engine's core and another core have sent each other is performed before the engine reads that one's LM, and before the
reply; whether something still waits (R177). -/
def meshReach (s : State) (w : Sid) (p : Place) : Bool × State :=
  match p with
  | .glob _ => (false, s)
  | .lm c off =>
    if c = w.core then (false, s)
    else
      let (there, s) := s.settleLm w.core c [.lm c (off / 8 * 8)]
      let (back, s) := s.settleLm c w.core []
      (there || back, s)

/-- Before an engine moves bytes, its core's L1 gives up the lines that it writes, and what the core has sent to these places is
performed; whether the bytes can be moved now: nothing of that still waits, no write is held where it writes, and no atomic
is held whole where it reads (R177, R195, R197). -/
def engineClear (s : State) (w : Sid) (ms : List Move) : Bool × State :=
  let s := ms.foldl (fun s m =>
    match m.to_ with
    | .lm .. => s
    | .glob l => if s.isOwn l then s.dropLine w.core (l.pa / 32) else s) s
  let fs := ms.map fun m => s.engineWrite w (m.to_, List.replicate m.n 0)
  let s := fs.foldl (fun s f => s.performAll (s.comesBefore f)) s
  let r := ms.foldl (fun (r : Bool × State) m => let q := r.2.meshReach w m.from_; (r.1 || q.1, q.2)) (false, s)
  (!r.1 && (fs.all fun f => !r.2.flights.any (r.2.comesBefore f) && !(placesOf f.msg).any fun p => r.2.blocked.any fun b => b.1 == p)
    && ms.all fun m => !r.2.heldWhole m.from_.target, r.2)

/-- The bytes of moves, all read before any is written (R267). -/
def engineReads (s : State) : List Move → List (Place × List Byte) × State
  | [] => ([], s)
  | m :: rest =>
    let (bs, s) := s.ceRead m.from_ m.n
    let r := engineReads s rest
    ((m.to_, bs) :: r.1, r.2)

/-- A write of an engine that finds its way clear is performed; another module's line leaves for it (R199, R348). -/
def enginePut (s : State) (w : Sid) (q : Place × List Byte) : State :=
  match q.1 with
  | .lm c off => s.lmPortWrite c (cellsAt off q.2) [(off / 8, true)] none
  | .glob l => if s.isOwn l then s.sendNow (s.engineWrite w q) else s

/-- An engine moves bytes; whether it could. -/
def engineMove (s : State) (w : Sid) (ms : List Move) : Bool × State :=
  match s.engineClear w ms with
  | (false, s) => (false, s)
  | (true, s) =>
    let (ws, s) := s.engineReads ms
    (true, { ws.foldl (fun s q => s.enginePut w q) s.atOnce with turn := s.turn })

/-- The moves of bytes [i, stop) by aligned words; every check of a chunk comes before its first access. -/
def ceGather (s : State) (w : Sid) (set : Vector Word 10) (stop i : Nat) (acc : List Move) :
    Nat → Except CeStop (List Move × State)
  | 0 => .ok (acc, s)
  | fuel + 1 =>
    if stop ≤ i then .ok (acc, s)
    else
      let n := min (8 - i % 8) (stop - i)
      match s.cePlace w .load (ceByte set false i) with
      | .error e => .error e
      | .ok (p, s) =>
        match s.cePlace w .store (ceByte set true i) with
        | .error e => .error e
        | .ok (q, s) => ceGather s w set stop (i + n) (acc ++ [⟨p, q, n⟩]) fuel

/-- The transfer stops: the set, with PROG, goes into the shadow set (R350, R351). -/
def ceHalt (s : State) (n : Nat) (fault : Bool) : State :=
  s.modCore n fun c =>
    let e := c.ce
    { c with ce := { e with
        shadow := e.active, stat := 0, due := false
        flt := vsetN e.flt e.owner fault
        stop := vsetN e.stop e.owner (!fault)
        prog := vsetN e.prog e.owner (ceProg e.active) } }

/-- PROG advances; after the last byte the completion word is due, or the transfer ends (R348), unless a stop is under way. -/
def ceAdvance (e : Copier) (p : Nat) (stopping : Bool) : Copier :=
  let fin := ceTotal e.active ≤ p
  let cw := e.active[8].getLsbD 0
  { e with
    active := e.active.set 9 (BitVec.ofNat 64 p)
    prog := vsetN e.prog e.owner p
    due := fin && cw
    stat := if fin && !cw && !stopping then 0 else e.stat }

/-- The running transfer of a core performs its next chunk, or stops there on a fault. -/
def ceChunk (s : State) (n : Nat) (stopping : Bool) : State :=
  let e := (s.coreAt n).ce
  if e.stat ≠ 2 || e.due then s
  else
    let w : Sid := ⟨n, e.owner⟩
    let p := ceProg e.active
    let stop := min ((p / 256 + 1) * 256) (ceTotal e.active)
    match s.ceGather w e.active stop p [] 34 with
    | .error (c, v) => (s.ceHalt n true).raiseAsync w c v
    | .ok (ms, s) =>
      match s.engineMove w ms with
      | (false, s) => s
      | (true, s) => s.modCore n fun c => { c with ce := ceAdvance c.ce (max p stop) stopping }

/-- The completion write, and the end of the transfer (R348). -/
def ceComplete (s : State) (n : Nat) : State :=
  let e := (s.coreAt n).ce
  if !e.due then s
  else
    let off := e.active[6].toNat
    if s.blocked.any fun b => b.1 == .lm n (off / 8 * 8) then s
    else
    let s := s.lmPortWrite n (cellsAt off (bytesOfNat 8 e.active[7].toNat)) [(off / 8, true)] none
    s.modCore n fun c => { c with ce := { c.ce with due := false, stat := 0 } }

/-- The engine finishes the current chunk of the slot's running transfer and stops; it writes no completion word (R74,
R350). -/
def stopCopy (s : State) (w : Sid) : State :=
  let e := (s.coreAt w.core).ce
  if e.owner = w.slot ∧ e.stat = 2 then
    let s := s.ceChunk w.core true
    if (s.coreAt w.core).ce.stat = 2 then s.ceHalt w.core false else s
  else s

end State

end Sys2Proof.Machine
end

