-- ==== Sys2Proof/Machine/Elements.lean ====
section
/-! DEFINITION. Accesses of several elements: all are checked before any is performed (R65, R176, R453), and what holds
part of a store lets none of it stand. -/

namespace Sys2Proof.Machine

namespace State

/-- Check accesses of `n` bytes at addresses, in their order, and say where each goes. -/
def checkEach (s : State) (k : Access) (n : Nat) : List Word → Eff (List (Word × Place))
  | [] => .ok [] s
  | va :: rest =>
    (s.element k false va n).bind fun p s =>
      (s.checkEach k n rest).map fun ps => (va, p) :: ps

/-- Read `n` bytes at each place. -/
def loadEach (s : State) (n : Nat) (mm : MemMod) : List (Word × Place) → Eff (List (List Byte))
  | [] => .ok [] s
  | (va, p) :: rest =>
    (s.placeLoad p va n mm).bind fun bs s => (s.loadEach n mm rest).map fun l => bs :: l

/-- Write bytes at each place, in order. -/
def storeEach (s : State) (mm : MemMod) : List ((Word × Place) × List Byte) → Eff Unit
  | [] => .ok () s
  | ((va, p), bs) :: rest => (s.placeStore p va bs mm).bind fun _ s => s.storeEach mm rest

/-- What holds leaves nothing behind of the instruction. -/
def orNone (s : State) (e : Eff Unit) : Eff Unit :=
  match e with
  | .hold _ b v => .hold s b v
  | e => e

/-- A store with release order finds no other strand's narrower release at its places; else that one is widened before
anything is stored (R195). -/
def clearTags (s : State) (mm : MemMod) : List (Word × Place) → Eff Unit
  | [] => .ok () s
  | (_, p) :: rest =>
    (match p with
      | .lm c off => s.releaseOver (.lm c (off / 8 * 8)) false
      | .glob l => if MemMod.releases (effective l mm) && s.isOwn l then s.releaseOver (.line (l.pa / 32 * 32)) false else .ok () s).bind
      fun _ s => s.clearTags mm rest

/-- Load elements. -/
def loadElems (s : State) (n : Nat) (mm : MemMod) (as : List Word) : Eff (List (List Byte)) :=
  (s.checkEach .load n as).bind fun ps s => s.loadEach n mm ps

/-- Store elements, with a release action first where the order asks for one (R190; entry 66). -/
def storeElems (s : State) (n : Nat) (mm : MemMod) (es : List (Word × List Byte)) : Eff Unit :=
  (s.checkEach .store n (es.map Prod.fst)).bind fun ps s =>
    let keep := s.turn
    let body (s : State) : Eff Unit :=
      s.orNone ((s.storeEach mm (ps.zip (es.map Prod.snd))).bind fun _ s => .ok () { s with turn := keep })
    let rel (q : Word × Place) : Bool := match q.2 with
      | .lm .. => MemMod.releases mm
      | .glob l => MemMod.releases (effective l mm)
    if !ps.any rel || s.strand.regionAccess then body s
    else
      (s.releaseFirst mm).bind fun _ s => (s.clearTags mm ps).bind fun _ s =>
        if s.unacked s.me then .hold s false 0 else body s.atOnce

/-- Consecutive addresses, `n` bytes apart. -/
def consecutive (_s : State) (va : Word) (n count : Nat) : List Word := (List.range count).map fun i => va + BitVec.ofNat 64 (n * i)

end State

end Sys2Proof.Machine
end

