-- ==== Sys2Proof/Machine/BitTile.lean ====
section
/-! DEFINITION. The bit-tile instructions (R161, R168 to R171, R342, R343). -/

namespace Sys2Proof.Machine

/-- Bit (i, j) of a bit tile (R161). -/
def btBit (v : V256) (i j : Nat) : Bool := v.getLsbD (16 * i + j)

/-- A bit tile from its bits. -/
def btOf (f : Nat → Nat → Bool) : V256 := BitVec.ofNat 256 (packLanes 1 (fun k => bit (f (k / 16) (k % 16))) 256)

/-- The Boolean product (R168). -/
def btProduct (a b : V256) : V256 := btOf fun i j => (List.range 16).any fun k => btBit a i k && btBit b k j

def btIdentity : V256 := btOf fun i j => i == j
def btTranspose (a : V256) : V256 := btOf fun i j => btBit a j i

/-- Reflexive-transitive closure: four squarings of a reflexive relation reach every path of 16 steps (R169). -/
def btClosure (a : V256) : V256 :=
  let r := a ||| btIdentity
  let r := btProduct r r
  let r := btProduct r r
  let r := btProduct r r
  btProduct r r

/-- Lanes i16 of a register, from counts. -/
def btCounts (f : Nat → Nat) : V256 := ofLanes 16 f

namespace State

/-- The 32 bytes of a bit-tile access as four words (R171), after the alignment check. In a compute phase the whole access
must lie in the member's LM reservation (R261). -/
def btAccess (s : State) (va : Word) (k : State → Eff Unit) : Eff Unit :=
  if s.regionPage va then .trap 11 5 0
  else if va.toNat % 32 ≠ 0 then .trap 2 va 0
  else if s.computePhase && isOwnLm va && !inReservation s va 32 then .trap 13 va 0
  else k s

end State

/-- R168. -/
def execBtAnd (bd b1 b2 : BReg) (s : State) : Out := done (s.setB bd (s.b b1 &&& s.b b2))
/-- R168. -/
def execBtOr (bd b1 b2 : BReg) (s : State) : Out := done (s.setB bd (s.b b1 ||| s.b b2))
/-- R168. -/
def execBtXor (bd b1 b2 : BReg) (s : State) : Out := done (s.setB bd (s.b b1 ^^^ s.b b2))
/-- R168. -/
def execBtAndn (bd b1 b2 : BReg) (s : State) : Out := done (s.setB bd (s.b b1 &&& ~~~(s.b b2)))
/-- R168. -/
def execBtComp (bd b1 b2 : BReg) (s : State) : Out := done (s.setB bd (btProduct (s.b b1) (s.b b2)))
/-- R169. -/
def execBtNot (bd bs : BReg) (s : State) : Out := done (s.setB bd (~~~(s.b bs)))
/-- R169. -/
def execBtTr (bd bs : BReg) (s : State) : Out := done (s.setB bd (btTranspose (s.b bs)))
/-- R169: one step and then any path. -/
def execBtClos (bd bs : BReg) (s : State) : Out := done (s.setB bd (btProduct (s.b bs) (btClosure (s.b bs))))
/-- R169. -/
def execBtClosr (bd bs : BReg) (s : State) : Out := done (s.setB bd (btClosure (s.b bs)))
/-- R169. -/
def execBtId (bd : BReg) (s : State) : Out := done (s.setB bd btIdentity)
/-- R169. -/
def execBtZero (bd : BReg) (s : State) : Out := done (s.setB bd 0)
/-- R170. -/
def execBtPopr (a : VReg) (bs : BReg) (s : State) : Out :=
  done (s.setV a (btCounts fun i => ((List.range 16).filter (btBit (s.b bs) i)).length))
/-- R170. -/
def execBtPopc (a : VReg) (bs : BReg) (s : State) : Out :=
  done (s.setV a (btCounts fun j => ((List.range 16).filter fun i => btBit (s.b bs) i j).length))
/-- R170. -/
def execBtMvbv (a : VReg) (bs : BReg) (s : State) : Out := done (s.setV a (s.b bs))
/-- R170. -/
def execBtMvvb (bd : BReg) (b : VReg) (s : State) : Out := done (s.setB bd (s.v b))
/-- R171. -/
def execBtLd (bd : BReg) (b : XReg) (imm : BitVec 20) (mm : MemMod) (s : State) : Out :=
  finish s (s.btAccess (s.ea b imm) fun s =>
    (s.loadElems 8 mm (s.consecutive (s.ea b imm) 8 4)).bind fun l s =>
      .ok () (s.setB bd (BitVec.ofNat 256 (natOfBytes l.flatten))))
/-- R171. -/
def execBtSt (bd : BReg) (b : XReg) (imm : BitVec 20) (mm : MemMod) (s : State) : Out :=
  finish s (s.btAccess (s.ea b imm) fun s =>
    s.storeElems 8 mm ((List.range 4).map fun i =>
      (s.ea b imm + BitVec.ofNat 64 (8 * i), bytesAt (s.b bd) (8 * i) 8)))

end Sys2Proof.Machine
end

