-- ==== Sys2Proof/Machine/Sfu.lean ====
section
/-! DEFINITION. The special functions (R368, R449): f(x) rounded once from a value whose first 500 bits are exact and
which is known to lie strictly between two such values unless it is exact (entry 9). -/

namespace Sys2Proof.Machine

/-- Bits after the point in fixed-point work. -/
def fxBits : Nat := 640
def fxOne : Nat := 2 ^ fxBits
/-- π and the natural logarithm of 2 in fixed point, cut. -/
def fxPi : Nat := 0x3_243f6a8885a308d3_13198a2e03707344_a4093822299f31d0_082efa98ec4e6c89_452821e638d01377_be5466cf34e90c6c_c0ac29b7c97c50dd_3f84d5b5b5470917_9216d5d98979fb1b_d1310ba698dfb5ac
def fxLn2 : Nat := 0xb17217f7d1cf79ab_c9e3b39803f2f6af_40f343267298b62d_8a0d175b8baafa2b_e7b876206debac98_559552fb4afa1b10_ed2eae35c1382144_27573b291169b825_3e96ca16224ae8c5_1acbda11317c387e

/-- Sum of xᵏ/k! from term `t` of index `k` on. -/
def expSum (x : Nat) : Nat → Nat → Nat → Nat → Nat
  | 0, _, _, acc => acc
  | n + 1, k, t, acc => expSum x n (k + 1) (t * x / fxOne / (k + 1)) (acc + t)
/-- eˣ for 0 ≤ x < 1. -/
def fxExp (x : Nat) : Nat := expSum x 130 0 fxOne 0

/-- Alternating sum with steps of two in the index, for sine and cosine: plus and minus terms apart. -/
def trigSum (x2 : Nat) : Nat → Nat → Nat → Nat → Nat → Nat
  | 0, _, _, plus, minus => plus - minus
  | n + 1, k, t, plus, minus => trigSum x2 n (k + 2) (t * x2 / fxOne / ((k + 1) * (k + 2))) (minus + t) plus

/-- The difference has the sign of the term count: an even count keeps plus first. -/
def fxSin (x : Nat) : Nat := trigSum (x * x / fxOne) 81 1 x 0 0
def fxCos (x : Nat) : Nat := trigSum (x * x / fxOne) 81 0 fxOne 0 0

/-- Sum of t^(2i+1)/(2i+1). -/
def atanhSum (t2 : Nat) : Nat → Nat → Nat → Nat → Nat
  | 0, _, _, acc => acc
  | n + 1, k, t, acc => atanhSum t2 n (k + 2) (t * t2 / fxOne) (acc + t / k)
/-- The natural logarithm of m/2^w for 2^w ≤ m < 2^(w+1). -/
def fxLn (m w : Nat) : Nat :=
  let t := (m - 2 ^ w) * fxOne / (m + 2 ^ w)
  2 * atanhSum (t * t / fxOne) 210 1 t 0

/-- A magnitude man × 2^exp in fixed point, cut. -/
def toFx (man : Nat) (exp : Int) : Nat :=
  if 0 ≤ exp + fxBits then man * 2 ^ (exp + fxBits).toNat else man / 2 ^ (-(exp + fxBits)).toNat

/-- A nonzero value: man × 2^exp, or strictly above it by less than one last place when `sticky`. -/
structure Approx where
  neg    : Bool
  man    : Nat
  exp    : Int
  sticky : Bool

/-- The eight functions. -/
inductive Sfu where
  | exp2 | log2 | rcp | rsq | sin | cos | tanh | lgst
  deriving DecidableEq, Repr

/-- A value just below man × 2^exp. -/
def justBelow (neg : Bool) (man : Nat) (exp : Int) : Approx := ⟨neg, man * 2 ^ 200 - 1, exp - 200, true⟩

/-- 2^(±x/2^640): an integer exponent and a fixed-point fraction in [1, 2). -/
def pow2Fx (neg : Bool) (x : Nat) : Nat × Int :=
  let n := x / fxOne
  let f := x % fxOne
  if !neg then (fxExp (f * fxLn2 / fxOne), n)
  else if f = 0 then (fxOne, -(n : Int))
  else (fxExp ((fxOne - f) * fxLn2 / fxOne), -(n : Int) - 1)

/-- sin or cos of a magnitude: the quadrant is counted exactly, then the series. -/
def trig (isCos neg : Bool) (man : Nat) (exp : Int) : Approx :=
  -- the argument in units of 2^-640, without cutting a bit of man; π/2 in the same units, for whole quadrants
  let e := (exp + fxBits).toNat
  let x := man * 2 ^ e
  let half := fxPi / 2
  let q := x / half
  let r := x % half
  -- what the cut of π costs after q quadrants stays below q units; the wide form holds it
  let q := q + (if isCos then 1 else 0)
  let v := if q % 2 = 0 then fxSin r else fxCos r
  let n : Bool := 2 ≤ q % 4
  ⟨if isCos then n else n != neg, v, -(fxBits : Int), true⟩

/-- e^(±x) of a magnitude below 2^8. -/
def expFx (neg : Bool) (man : Nat) (exp : Int) : Nat × Int := pow2Fx neg (toFx man exp * fxOne / fxLn2)

/-- The magnitude is below 2^k. -/
def below (man : Nat) (exp k : Int) : Bool := exp + Nat.log2 man < k

/-- f of a finite nonzero argument that gives a finite nonzero value other than a quotient or a root; `none` is zero. -/
def sfuApprox (fn : Sfu) (neg : Bool) (man : Nat) (exp : Int) : Option Approx :=
  match fn with
  | .exp2 =>
    if !below man exp 10 then some ⟨false, 1, if neg then -1100 else 1100, true⟩
    else
      let x := toFx man exp
      if x % fxOne = 0 then some ⟨false, 1, if neg then -(x / fxOne : Nat) else (x / fxOne : Nat), false⟩
      else
        let (f, n) := pow2Fx neg x
        some ⟨false, f, n - fxBits, true⟩
  | .log2 =>
    let w := Nat.log2 man
    let e := exp + w
    if man = 2 ^ w then (if e = 0 then none else some ⟨e < 0, e.natAbs, 0, false⟩)
    else
      let l := fxLn man w * fxOne / fxLn2
      if 0 ≤ e then some ⟨false, e.natAbs * fxOne + l, -(fxBits : Int), true⟩
      else some ⟨true, e.natAbs * fxOne - l - 1, -(fxBits : Int), true⟩
  | .sin => some (if below man exp (-60) then justBelow neg man exp else trig false neg man exp)
  | .cos => some (if below man exp (-60) then justBelow false 1 0 else trig true neg man exp)
  | .tanh =>
    if below man exp (-60) then some (justBelow neg man exp)
    else if !below man exp 6 then some (justBelow neg 1 0)
    else
      let (f, n) := expFx false (2 * man) exp
      let a := f * 2 ^ n.toNat
      some ⟨neg, (a - fxOne) * fxOne / (a + fxOne), -(fxBits : Int), true⟩
  | .lgst =>
    if !below man exp 7 then some (if neg then ⟨false, 1, -180, true⟩ else justBelow false 1 0)
    else
      let (f, n) := expFx true man exp
      let e := f / 2 ^ (-n).toNat
      some ⟨false, (if neg then e else fxOne) * fxOne / (fxOne + e), -(fxBits : Int), true⟩
  | .rcp => none
  | .rsq => none

/-- 1/√x of a positive finite value. -/
def rsqApprox (man : Nat) (exp : Int) : Approx :=
  let m := if exp % 2 = 0 then man else 2 * man
  let e := if exp % 2 = 0 then exp else exp - 1
  let n := 2 ^ 400
  let r := isqrt (n / m)
  ⟨false, r, -(e / 2) - 200, r * r * m != n⟩

/-- A special function on a pattern of a format (R368). -/
def Fmt.sfu (f : Fmt) (env : FpEnv) (fn : Sfu) (bits : Nat) : Nat × Word :=
  let x := f.read env bits
  let one := f.bias * 2 ^ f.mbits
  let put (a : Approx) : Nat × Word := f.round env false a.neg a.man a.exp a.sticky
  match x with
  | .nan .. => (f.nanOf env [x], snanFlag [x])
  | .inf n =>
    match fn with
    | .exp2 => (if n then 0 else f.inf false, 0)
    | .log2 => if n then (f.nanBits, fNV) else (f.inf false, 0)
    | .rcp => (f.signBit n, 0)
    | .rsq => if n then (f.nanBits, fNV) else (0, 0)
    | .sin => (f.nanBits, fNV)
    | .cos => (f.nanBits, fNV)
    | .tanh => (f.signBit n + one, 0)
    | .lgst => (if n then 0 else one, 0)
  | .fin n m e =>
    if m = 0 then
      match fn with
      | .exp2 => (one, 0)
      | .log2 => (f.inf true, fDZ)
      | .rcp => (f.inf n, fDZ)
      | .rsq => (f.inf n, fDZ)
      | .sin => (f.signBit n, 0)
      | .cos => (one, 0)
      | .tanh => (f.signBit n, 0)
      | .lgst => (one - 2 ^ f.mbits, 0)
    else
      match fn with
      | .rcp => f.div env (.fin false 1 0) x
      | .rsq => if n then (f.nanBits, fNV) else put (rsqApprox m e)
      | .log2 =>
        if n then (f.nanBits, fNV)
        else match sfuApprox .log2 n m e with
          | some a => put a
          | none => (0, 0)
      | fn =>
        match sfuApprox fn n m e with
        | some a => put a
        | none => (0, 0)

end Sys2Proof.Machine
end

