-- ==== Sys2Proof/Machine/FpScalar.lean ====
section
/-! DEFINITION. The scalar floating-point instructions (R360 to R364) and the special functions (R68, R368). -/

namespace Sys2Proof.Machine

namespace State

/-- Write a pattern to X[r], zero above it, with the flags of the operation (R360). -/
def putFp (s : State) (r : XReg) (p : Nat × Word) : Eff Unit := s.flagged p.2 fun s => s.setX r (zextNat p.1)

/-- An FP operand in X[r]. -/
def fpArg (s : State) (f : Fmt) (r : XReg) : Fv := f.read s.env (s.x r).toNat

/-- A two-operand form. -/
def fpBin (s : State) (f : Fmt) (op : FpEnv → Fv → Fv → Nat × Word) (a b d : XReg) : Eff Unit :=
  s.putFp d (op s.env (s.fpArg f a) (s.fpArg f b))

/-- A comparison, which writes an integer (R363). -/
def fpCmp (s : State) (f : Fmt) (r : Rel) (a b d : XReg) : Eff Unit :=
  let p := fpRel r (s.fpArg f a) (s.fpArg f b)
  s.flagged p.2 fun s => s.setX d (bitW p.1)

/-- From an integer of `w` bits in X[b]. -/
def fpFromInt (s : State) (w : Nat) (f : Fmt) (a b : XReg) : Eff Unit :=
  s.putFp a (cvtIF f s.env (laneInt true w ((s.x b).toNat % 2 ^ w)))

/-- To an integer of `w` bits, sign-extended. -/
def fpToInt (s : State) (w : Nat) (f : Fmt) (a b : XReg) : Eff Unit :=
  let p := cvtFI s.env (s.fpArg f b) (-(2 ^ (w - 1) : Int)) (2 ^ (w - 1) - 1)
  s.flagged p.2 fun s => s.setX a (BitVec.ofInt 64 p.1)

/-- The wait for the special-function unit (R68): with its queue empty the unit serves the strand at once; else the
requests queue, and the strand holds until the last of them has completed. -/
def viaSfu (s : State) (n : Nat) (k : State → Eff Unit) : Eff Unit :=
  let q := s.core.sfu
  if s.strand.sync.reply.isSome then k s
  else if q.contains s.me.slot then .hold s false 0
  else if q.isEmpty && !s.turn.post then k s
  else if q.length + n ≤ 8 then .hold (s.withCore fun c => { c with sfu := c.sfu ++ List.replicate n s.me.slot }) false 0
  else .hold s false 0

/-- A scalar special function (R368). -/
def scalarSfu (s : State) (fn : Sfu) (a b : XReg) : Eff Unit :=
  s.viaSfu 1 fun s => s.putFp a (Fmt.f32.sfu s.env fn (s.x b).toNat)

end State

/-- R361. -/
def execFaddS (a b d : XReg) (s : State) : Out := finish s (s.fpBin .f32 Fmt.f32.add a b d)
/-- R361. -/
def execFsubS (a b d : XReg) (s : State) : Out := finish s (s.fpBin .f32 Fmt.f32.sub a b d)
/-- R361. -/
def execFmulS (a b d : XReg) (s : State) : Out := finish s (s.fpBin .f32 Fmt.f32.mul a b d)
/-- R361. -/
def execFdivS (a b d : XReg) (s : State) : Out := finish s (s.fpBin .f32 Fmt.f32.div a b d)
/-- R362. -/
def execFminS (a b d : XReg) (s : State) : Out :=
  finish s (s.putFp d (Fmt.f32.minmax s.env false (s.x a).toNat (s.x b).toNat))
/-- R362. -/
def execFmaxS (a b d : XReg) (s : State) : Out :=
  finish s (s.putFp d (Fmt.f32.minmax s.env true (s.x a).toNat (s.x b).toNat))
/-- R361. -/
def execFsqrtS (a b : XReg) (s : State) : Out := finish s (s.putFp a (Fmt.f32.sqrt s.env (s.fpArg .f32 b)))
/-- R361: the destination is X[A], X[D] the addend. -/
def execFmaS (a b d : XReg) (s : State) : Out :=
  finish s (s.putFp a (Fmt.f32.fma s.env (s.fpArg .f32 a) (s.fpArg .f32 b) (s.fpArg .f32 d)))
/-- R363. -/
def execFeqS (a b d : XReg) (s : State) : Out := finish s (s.fpCmp .f32 .eq a b d)
/-- R363. -/
def execFltS (a b d : XReg) (s : State) : Out := finish s (s.fpCmp .f32 .lt a b d)
/-- R363. -/
def execFleS (a b d : XReg) (s : State) : Out := finish s (s.fpCmp .f32 .le a b d)
/-- R363. -/
def execFclassS (a b : XReg) (s : State) : Out := done (s.setX a (Fmt.f32.classMask (s.x b).toNat))
/-- R361. -/
def execFaddD (a b d : XReg) (s : State) : Out := finish s (s.fpBin .f64 Fmt.f64.add a b d)
/-- R361. -/
def execFsubD (a b d : XReg) (s : State) : Out := finish s (s.fpBin .f64 Fmt.f64.sub a b d)
/-- R361. -/
def execFmulD (a b d : XReg) (s : State) : Out := finish s (s.fpBin .f64 Fmt.f64.mul a b d)
/-- R361. -/
def execFdivD (a b d : XReg) (s : State) : Out := finish s (s.fpBin .f64 Fmt.f64.div a b d)
/-- R362. -/
def execFminD (a b d : XReg) (s : State) : Out :=
  finish s (s.putFp d (Fmt.f64.minmax s.env false (s.x a).toNat (s.x b).toNat))
/-- R362. -/
def execFmaxD (a b d : XReg) (s : State) : Out :=
  finish s (s.putFp d (Fmt.f64.minmax s.env true (s.x a).toNat (s.x b).toNat))
/-- R361. -/
def execFsqrtD (a b : XReg) (s : State) : Out := finish s (s.putFp a (Fmt.f64.sqrt s.env (s.fpArg .f64 b)))
/-- R361: the destination is X[A], X[D] the addend. -/
def execFmaD (a b d : XReg) (s : State) : Out :=
  finish s (s.putFp a (Fmt.f64.fma s.env (s.fpArg .f64 a) (s.fpArg .f64 b) (s.fpArg .f64 d)))
/-- R363. -/
def execFeqD (a b d : XReg) (s : State) : Out := finish s (s.fpCmp .f64 .eq a b d)
/-- R363. -/
def execFltD (a b d : XReg) (s : State) : Out := finish s (s.fpCmp .f64 .lt a b d)
/-- R363. -/
def execFleD (a b d : XReg) (s : State) : Out := finish s (s.fpCmp .f64 .le a b d)
/-- R363. -/
def execFclassD (a b : XReg) (s : State) : Out := done (s.setX a (Fmt.f64.classMask (s.x b).toNat))
/-- R364. -/
def execFcvtSD (a b : XReg) (s : State) : Out := finish s (s.putFp a (cvtFF .f64 .f32 s.env (s.x b).toNat))
/-- R364. -/
def execFcvtDS (a b : XReg) (s : State) : Out := finish s (s.putFp a (cvtFF .f32 .f64 s.env (s.x b).toNat))
/-- R364. -/
def execFcvtSBf (a b : XReg) (s : State) : Out := finish s (s.putFp a (cvtFF .bf .f32 s.env (s.x b).toNat))
/-- R364. -/
def execFcvtBfS (a b : XReg) (s : State) : Out := finish s (s.putFp a (cvtFF .f32 .bf s.env (s.x b).toNat))
/-- R364. -/
def execFcvtSHf (a b : XReg) (s : State) : Out := finish s (s.putFp a (cvtFF .hf .f32 s.env (s.x b).toNat))
/-- R364. -/
def execFcvtHfS (a b : XReg) (s : State) : Out := finish s (s.putFp a (cvtFF .f32 .hf s.env (s.x b).toNat))
/-- R364. -/
def execFcvtSE4 (a b : XReg) (s : State) : Out := finish s (s.putFp a (cvtFF .e4 .f32 s.env (s.x b).toNat))
/-- R364. -/
def execFcvtE4S (a b : XReg) (s : State) : Out := finish s (s.putFp a (cvtFF .f32 .e4 s.env (s.x b).toNat))
/-- R364. -/
def execFcvtSE5 (a b : XReg) (s : State) : Out := finish s (s.putFp a (cvtFF .e5 .f32 s.env (s.x b).toNat))
/-- R364. -/
def execFcvtE5S (a b : XReg) (s : State) : Out := finish s (s.putFp a (cvtFF .f32 .e5 s.env (s.x b).toNat))
/-- R364. -/
def execFcvtSL (a b : XReg) (s : State) : Out := finish s (s.fpFromInt 64 .f32 a b)
/-- R364. -/
def execFcvtDL (a b : XReg) (s : State) : Out := finish s (s.fpFromInt 64 .f64 a b)
/-- R364. -/
def execFcvtSW (a b : XReg) (s : State) : Out := finish s (s.fpFromInt 32 .f32 a b)
/-- R364. -/
def execFcvtLS (a b : XReg) (s : State) : Out := finish s (s.fpToInt 64 .f32 a b)
/-- R364. -/
def execFcvtLD (a b : XReg) (s : State) : Out := finish s (s.fpToInt 64 .f64 a b)
/-- R364. -/
def execFcvtWS (a b : XReg) (s : State) : Out := finish s (s.fpToInt 32 .f32 a b)
/-- R368. -/
def execFexp2 (a b : XReg) (s : State) : Out := finish s (s.scalarSfu .exp2 a b)
/-- R368. -/
def execFlog2 (a b : XReg) (s : State) : Out := finish s (s.scalarSfu .log2 a b)
/-- R368. -/
def execFrcp (a b : XReg) (s : State) : Out := finish s (s.scalarSfu .rcp a b)
/-- R368. -/
def execFrsq (a b : XReg) (s : State) : Out := finish s (s.scalarSfu .rsq a b)
/-- R368. -/
def execFsin (a b : XReg) (s : State) : Out := finish s (s.scalarSfu .sin a b)
/-- R368. -/
def execFcos (a b : XReg) (s : State) : Out := finish s (s.scalarSfu .cos a b)
/-- R368. -/
def execFtanh (a b : XReg) (s : State) : Out := finish s (s.scalarSfu .tanh a b)
/-- R368. -/
def execFlgst (a b : XReg) (s : State) : Out := finish s (s.scalarSfu .lgst a b)

end Sys2Proof.Machine
end

