-- ==== Sys2Proof/Machine/Vector.lean ====
section
/-! DEFINITION. The vector instructions (R436 to R475), but for `vxchg` and `vrng`. -/

namespace Sys2Proof.Machine

/-- The format of a floating-point type. -/
def tyFmt : ETy → Fmt
  | .e4 => .e4 | .e5 => .e5 | .bf => .bf | .hf => .hf | .f64 => .f64 | _ => .f32

/-- What one lane computes: a pattern and flags. -/
abbrev LaneFn := Nat → Nat → Nat → Nat × Word

/-- An integer lane (R436): exact on the numbers the lanes mean, then cut. -/
def intLane (ty : ETy) (f : Int → Int → Int) : LaneFn := fun x y _ =>
  (wrapInt ty.bits (f (laneInt ty.isSigned ty.bits x) (laneInt ty.isSigned ty.bits y)), 0)

/-- A floating-point lane of two operands. -/
def fpLane (ty : ETy) (env : FpEnv) (f : Fmt → FpEnv → Fv → Fv → Nat × Word) : LaneFn := fun x y _ =>
  f (tyFmt ty) env ((tyFmt ty).read env x) ((tyFmt ty).read env y)

/-- Integer or floating point, by the type. -/
def arithLane (ty : ETy) (env : FpEnv) (i : Int → Int → Int) (f : Fmt → FpEnv → Fv → Fv → Nat × Word) : LaneFn :=
  if ty.isInt then intLane ty i else fpLane ty env f

def minmaxLane (ty : ETy) (env : FpEnv) (isMax : Bool) : LaneFn :=
  if ty.isInt then intLane ty fun x y => if isMax then max x y else min x y
  else fun x y _ => (tyFmt ty).minmax env isMax x y

/-- Raw bits (R442, R462, R475). -/
def bitsLane (f : Nat → Nat → Nat) : LaneFn := fun x y _ => (f x y, 0)

/-- Shifts take the amount modulo the lane width (R467, R468, R471). -/
def shlLane (ty : ETy) : LaneFn := fun x y _ => (x <<< (y % ty.bits), 0)
def shrLane (ty : ETy) : LaneFn := fun x y _ => (x >>> (y % ty.bits), 0)
def sraLane (ty : ETy) : LaneFn := fun x y _ => (wrapInt ty.bits (laneInt true ty.bits x / 2 ^ (y % ty.bits)), 0)

/-- `vabs`, `vneg` (R440, R461). -/
def absLane (ty : ETy) : LaneFn := fun _ y _ =>
  (if ty.isInt then wrapInt ty.bits (laneInt true ty.bits y).natAbs else y % 2 ^ (ty.bits - 1), 0)
def negLane (ty : ETy) : LaneFn := fun _ y _ =>
  (if ty.isInt then wrapInt ty.bits (-(laneInt true ty.bits y)) else y ^^^ 2 ^ (ty.bits - 1), 0)

def fmaLane (ty : ETy) (env : FpEnv) : LaneFn := fun x y z =>
  (tyFmt ty).fma env ((tyFmt ty).read env x) ((tyFmt ty).read env y) ((tyFmt ty).read env z)

/-- Bits [2w − 1:w] of the exact product (R459). -/
def mulhLane (ty : ETy) : LaneFn := fun x y _ =>
  (wrapInt ty.bits (laneInt ty.isSigned ty.bits x * laneInt ty.isSigned ty.bits y / 2 ^ ty.bits), 0)

/-- The flags of the active lanes together. -/
def orFlags (l : List Word) : Word := l.foldl (· ||| ·) 0

/-- A conversion of one lane (R447). -/
def cvtLane (st dt : ETy) (env : FpEnv) (v : Nat) : Nat × Word :=
  if st = dt then (v, 0)
  else if st.isInt then
    let n := laneInt st.isSigned st.bits v
    if dt.isInt then
      let lo : Int := if dt.isSigned then -(2 ^ (dt.bits - 1) : Int) else 0
      let hi : Int := if dt.isSigned then 2 ^ (dt.bits - 1) - 1 else 2 ^ dt.bits - 1
      if st.bits < dt.bits then (wrapInt dt.bits n, 0) else (wrapInt dt.bits (max lo (min hi n)), 0)
    else cvtIF (tyFmt dt) env n
  else if dt.isInt then
    let lo : Int := if dt.isSigned then -(2 ^ (dt.bits - 1) : Int) else 0
    let hi : Int := if dt.isSigned then 2 ^ (dt.bits - 1) - 1 else 2 ^ dt.bits - 1
    let p := cvtFI env ((tyFmt st).read env v) lo hi
    (wrapInt dt.bits p.1, p.2)
  else cvtFF (tyFmt st) (tyFmt dt) env v

/-- A relation of two lanes (R444). -/
def relLane (ty : ETy) (env : FpEnv) (r : Rel) (x y : Nat) : Bool × Word :=
  if ty.isInt then
    let a := laneInt ty.isSigned ty.bits x
    let b := laneInt ty.isSigned ty.bits y
    (match r with
      | .eq => a == b | .ne => a != b | .lt => a < b | .le => a ≤ b | .gt => b < a | .ge => b ≤ a, 0)
  else fpRel r ((tyFmt ty).read env x) ((tyFmt ty).read env y)

/-- The fixed tree of a floating-point reduction (R464): pairs, until one is left. -/
def redTree (op : Nat → Nat → Nat × Word) : Nat → List Nat → Word → Nat × Word
  | 0, l, fl => (l.headD 0, fl)
  | n + 1, l, fl =>
    if l.length ≤ 1 then (l.headD 0, fl)
    else
      let ps := (List.range (l.length / 2)).map fun i => op (l.getD (2 * i) 0) (l.getD (2 * i + 1) 0)
      redTree op n (ps.map Prod.fst) (fl ||| orFlags (ps.map Prod.snd))

/-- The reductions. -/
inductive Red where
  | add | max | min
  deriving DecidableEq, Repr

/-- The contribution of an inactive lane (R464). -/
def redIdent (ty : ETy) (r : Red) : Nat :=
  if ty.isInt then
    match r with
    | .add => 0
    | .max => if ty.isSigned then 2 ^ (ty.bits - 1) else 0
    | .min => if ty.isSigned then 2 ^ (ty.bits - 1) - 1 else 2 ^ ty.bits - 1
  else
    match r with
    | .add => (tyFmt ty).signBit true
    | .max => (tyFmt ty).inf true
    | .min => (tyFmt ty).inf false

/-- The value of a reduction over contributions. -/
def reduce (ty : ETy) (env : FpEnv) (r : Red) (l : List Nat) : Word × Word :=
  if ty.isInt then
    let ns := l.map (laneInt ty.isSigned ty.bits)
    (BitVec.ofInt 64 (match r with
      | .add => ns.foldl (· + ·) 0
      | .max => ns.foldl max (ns.headD 0)
      | .min => ns.foldl min (ns.headD 0)), 0)
  else
    let op := match r with
      | .add => fun a b => (tyFmt ty).add env ((tyFmt ty).read env a) ((tyFmt ty).read env b)
      | .max => (tyFmt ty).minmax env true
      | .min => (tyFmt ty).minmax env false
    let p := redTree op 6 l 0
    (zextNat p.1, p.2)

namespace State

/-- The arithmetic frame (R439): every source is read, each active lane computes, and the destination is written unless
an enabled flag traps. -/
def vecOp (s : State) (ty : ETy) (f : LaneFn) (a b d dst : VReg) (m : MaskMod) : Eff Unit :=
  let w := ty.bits
  let r (i : Nat) : Nat × Word := f (lane (s.v a) w i) (lane (s.v b) w i) (lane (s.v d) w i)
  let fl := orFlags ((activeLanes (s.active m) ty.lanes).map fun i => (r i).2)
  s.flagged fl fun t => t.setV dst (mergeLanes w (s.active m) (zeroing m) (s.v dst) fun i => (r i).1)

/-- A comparison into an x register (R444). -/
def vecCmp (s : State) (ty : ETy) (r : Rel) (a : XReg) (b c : VReg) (m : MaskMod) : Eff Unit :=
  let q (i : Nat) : Bool × Word := relLane ty s.env r (lane (s.v b) ty.bits i) (lane (s.v c) ty.bits i)
  let fl := orFlags ((activeLanes (s.active m) ty.lanes).map fun i => (q i).2)
  let out (i : Nat) : Nat :=
    if s.active m i then bit (q i).1 else if (zeroing m) then 0 else bit ((s.x a).getLsbD i)
  s.flagged fl fun t => t.setX a (zextNat (packLanes 1 out ty.lanes))

/-- Write lanes under the mask, with no flag. -/
def vecPut (s : State) (ty : ETy) (a : VReg) (m : MaskMod) (f : Nat → Nat) : State :=
  s.setV a (mergeLanes ty.bits (s.active m) (zeroing m) (s.v a) f)

/-- `vcvt` (R446): lanes from the narrower count up are written 0. -/
def vecCvt (s : State) (st dt : ETy) (a b : VReg) (m : MaskMod) : Eff Unit :=
  let e := min st.lanes dt.lanes
  let r (i : Nat) : Nat × Word := cvtLane st dt s.env (lane (s.v b) st.bits i)
  let fl := orFlags ((activeLanes (s.active m) e).map fun i => (r i).2)
  s.flagged fl fun t =>
    t.setV a (mergeLanes dt.bits (fun i => decide (e ≤ i) || s.active m i) (zeroing m) (s.v a) fun i =>
      if e ≤ i then 0 else (r i).1)

/-- `vred` (R464). -/
def vecRed (s : State) (ty : ETy) (r : Red) (a : XReg) (b : VReg) (m : MaskMod) : Eff Unit :=
  let l := (List.range ty.lanes).map fun i => if s.active m i then lane (s.v b) ty.bits i else redIdent ty r
  let p := reduce ty s.env r l
  s.flagged p.2 fun s => s.setX a p.1

/-- A vector special function: two requests (R449). -/
def vecSfu (s : State) (ty : ETy) (fn : Sfu) (a b : VReg) (m : MaskMod) : Eff Unit :=
  s.viaSfu 2 fun s => s.vecOp ty (fun _ y _ => (tyFmt ty).sfu s.env fn y) a b a a m

/-- The lanes of V[B] that the mask selects, packed (R445). -/
def compressed (s : State) (ty : ETy) (b : VReg) (m : MaskMod) : List Nat :=
  (activeLanes (s.active m) ty.lanes).map fun i => lane (s.v b) ty.bits i

/-! ## Memory forms (R452 to R455) -/

/-- The distance of an index lane, times the element size. -/
def indexOf (s : State) (ty : ETy) (d : VReg) (i : Nat) : Word :=
  sext ty.bits (lane (s.v d) ty.bits i) * BitVec.ofNat 64 (ty.bits / 8)

/-- Load the active elements and merge them (R453). -/
def vecLoad (s : State) (ty : ETy) (a : VReg) (act : Nat → Bool) (zero : Bool) (addr : Nat → Word) :
    Eff Unit :=
  let is := activeLanes act ty.lanes
  (s.loadElems (ty.bits / 8) MemMod.none (is.map addr)).bind fun bs s =>
    let got (i : Nat) : Nat := match (is.zip bs).find? fun p => p.1 == i with
      | some p => natOfBytes p.2
      | none => 0
    .ok () (s.setV a (mergeLanes ty.bits act zero (s.v a) got))

/-- Store the active elements, in lane order (R453). -/
def vecStore (s : State) (ty : ETy) (a : VReg) (act : Nat → Bool) (addr : Nat → Word) : Eff Unit :=
  s.storeElems (ty.bits / 8) MemMod.none
    ((activeLanes act ty.lanes).map fun i => (addr i, bytesOfNat (ty.bits / 8) (lane (s.v a) ty.bits i)))

/-- A walk entry (R454): BASE, CNT, STR. -/
def walkEntry (s : State) (off : Nat) : Word × Nat × Word :=
  let e := Memory.readN s.core.lm off 16
  (wordOfBytes (e.take 8), natOfBytes ((e.drop 8).take 4), sextBytes (e.drop 12))

/-- A walk form: the entry's checks, the elements, then the advanced entry in one step at the LM port, once no other strand's
held write stands there (R195, R454). -/
def walkForm (s : State) (ty : ETy) (b : XReg) (imm : BitVec 20) (m : MaskMod)
    (go : State → (Nat → Bool) → Nat → (Nat → Word) → Eff Unit) : Eff Unit :=
  let ea := s.ea b imm
  if ea.toNat % 16 ≠ 0 then .trap 2 ea 0
  else if !isOwnLm ea then .trap 7 ea 0
  else if s.computePhase && !inReservation s ea 16 then .trap 13 ea 0
  else
    let (base, cnt, str) := s.walkEntry ea.toNat
    let size := ty.bits / 8
    let k := min cnt ty.lanes
    let act (i : Nat) : Bool := decide (i < k) && s.active m i
    let addr (i : Nat) : Word := base + BitVec.ofNat 64 i * str
    if (activeLanes act ty.lanes).any fun i => s.regionPage (addr i) then .trap 11 5 0
    else if base.toNat % size ≠ 0 ∨ str.toNat % size ≠ 0 then .trap 2 ea 0
    else if s.blockedBy (.lm s.me.core ea.toNat) true || s.blockedBy (.lm s.me.core (ea.toNat + 8)) true then .hold s false 0
    else
      (go s act k addr).bind fun _ s =>
        let bytes := bytesOfNat 8 (base + BitVec.ofNat 64 k * str).toNat ++ bytesOfNat 4 (cnt - k) ++ bytesOfNat 4 str.toNat
        .ok () (s.lmPortWrite s.me.core (cellsAt ea.toNat bytes) [] none)

end State

/-- R441. -/
def execVadd (ty : ETy) (a b d : VReg) (m : MaskMod) (s : State) : Out := finish s (s.vecOp ty (arithLane ty s.env (· + ·) Fmt.add) a b d d m)
/-- R472. -/
def execVsub (ty : ETy) (a b d : VReg) (m : MaskMod) (s : State) : Out := finish s (s.vecOp ty (arithLane ty s.env (· - ·) Fmt.sub) a b d d m)
/-- R458. -/
def execVmul (ty : ETy) (a b d : VReg) (m : MaskMod) (s : State) : Out := finish s (s.vecOp ty (arithLane ty s.env (· * ·) Fmt.mul) a b d d m)
/-- R457. -/
def execVmin (ty : ETy) (a b d : VReg) (m : MaskMod) (s : State) : Out := finish s (s.vecOp ty (minmaxLane ty s.env false) a b d d m)
/-- R456. -/
def execVmax (ty : ETy) (a b d : VReg) (m : MaskMod) (s : State) : Out := finish s (s.vecOp ty (minmaxLane ty s.env true) a b d d m)
/-- R442. -/
def execVand (ty : ETy) (a b d : VReg) (m : MaskMod) (s : State) : Out := finish s (s.vecOp ty (bitsLane (· &&& ·)) a b d d m)
/-- R462. -/
def execVor (ty : ETy) (a b d : VReg) (m : MaskMod) (s : State) : Out := finish s (s.vecOp ty (bitsLane (· ||| ·)) a b d d m)
/-- R475. -/
def execVxor (ty : ETy) (a b d : VReg) (m : MaskMod) (s : State) : Out := finish s (s.vecOp ty (bitsLane (· ^^^ ·)) a b d d m)
/-- R467. -/
def execVshl (ty : ETy) (a b d : VReg) (m : MaskMod) (s : State) : Out := finish s (s.vecOp ty (shlLane ty) a b d d m)
/-- R468. -/
def execVshr (ty : ETy) (a b d : VReg) (m : MaskMod) (s : State) : Out := finish s (s.vecOp ty (shrLane ty) a b d d m)
/-- R471. -/
def execVsra (ty : ETy) (a b d : VReg) (m : MaskMod) (s : State) : Out := finish s (s.vecOp ty (sraLane ty) a b d d m)
/-- R459. -/
def execVmulh (ty : ETy) (a b d : VReg) (m : MaskMod) (s : State) : Out := finish s (s.vecOp ty (mulhLane ty) a b d d m)
/-- R448. -/
def execVdiv (ty : ETy) (a b d : VReg) (m : MaskMod) (s : State) : Out := finish s (s.vecOp ty (fpLane ty s.env Fmt.div) a b d d m)
/-- R451: the destination is V[A], V[D] the addend. -/
def execVfma (ty : ETy) (a b d : VReg) (m : MaskMod) (s : State) : Out := finish s (s.vecOp ty (fmaLane ty s.env) a b d a m)
/-- R440. -/
def execVabs (ty : ETy) (a b : VReg) (m : MaskMod) (s : State) : Out := finish s (s.vecOp ty (absLane ty) a b a a m)
/-- R461. -/
def execVneg (ty : ETy) (a b : VReg) (m : MaskMod) (s : State) : Out := finish s (s.vecOp ty (negLane ty) a b a a m)
/-- R444. -/
def execVceq (ty : ETy) (a : XReg) (b c : VReg) (m : MaskMod) (s : State) : Out := finish s (s.vecCmp ty .eq a b c m)
/-- R444. -/
def execVcne (ty : ETy) (a : XReg) (b c : VReg) (m : MaskMod) (s : State) : Out := finish s (s.vecCmp ty .ne a b c m)
/-- R444. -/
def execVclt (ty : ETy) (a : XReg) (b c : VReg) (m : MaskMod) (s : State) : Out := finish s (s.vecCmp ty .lt a b c m)
/-- R444. -/
def execVcle (ty : ETy) (a : XReg) (b c : VReg) (m : MaskMod) (s : State) : Out := finish s (s.vecCmp ty .le a b c m)
/-- R453. -/
def execVld (ty : ETy) (a : VReg) (b : XReg) (imm : BitVec 20) (m : MaskMod) (s : State) : Out :=
  finish s (s.vecLoad ty a (s.active m) (zeroing m) fun i => s.ea b imm + BitVec.ofNat 64 (i * (ty.bits / 8)))
/-- R453. -/
def execVst (ty : ETy) (a : VReg) (b : XReg) (imm : BitVec 20) (m : MaskMod) (s : State) : Out :=
  finish s (s.vecStore ty a (s.active m) fun i => s.ea b imm + BitVec.ofNat 64 (i * (ty.bits / 8)))
/-- R453. -/
def execVlds (ty : ETy) (a : VReg) (b d : XReg) (imm : BitVec 20) (m : MaskMod) (s : State) : Out :=
  finish s (s.vecLoad ty a (s.active m) (zeroing m) fun i => s.ea b imm + BitVec.ofNat 64 i * s.x d)
/-- R453. -/
def execVsts (ty : ETy) (a : VReg) (b d : XReg) (imm : BitVec 20) (m : MaskMod) (s : State) : Out :=
  finish s (s.vecStore ty a (s.active m) fun i => s.ea b imm + BitVec.ofNat 64 i * s.x d)
/-- R453. -/
def execVldx (ty : ETy) (a : VReg) (b : XReg) (d : VReg) (imm : BitVec 20) (m : MaskMod) (s : State) : Out :=
  finish s (s.vecLoad ty a (s.active m) (zeroing m) fun i => s.ea b imm + s.indexOf ty d i)
/-- R453. -/
def execVstx (ty : ETy) (a : VReg) (b : XReg) (d : VReg) (imm : BitVec 20) (m : MaskMod) (s : State) : Out :=
  finish s (s.vecStore ty a (s.active m) fun i => s.ea b imm + s.indexOf ty d i)
/-- R454: lanes from k up are written 0. -/
def execVldsr (ty : ETy) (a : VReg) (b : XReg) (imm : BitVec 20) (m : MaskMod) (s : State) : Out :=
  finish s (s.walkForm ty b imm m fun t act k addr =>
    let was := t.v a
    (t.vecLoad ty a act (zeroing m) addr).bind fun _ u =>
      .ok () (u.setV a (ofLanes ty.bits fun i =>
        if k ≤ i then 0 else if act i then lane (u.v a) ty.bits i else if (zeroing m) then 0 else lane was ty.bits i)))
/-- R454. -/
def execVstsr (ty : ETy) (a : VReg) (b : XReg) (imm : BitVec 20) (m : MaskMod) (s : State) : Out :=
  finish s (s.walkForm ty b imm m fun t act _ addr => t.vecStore ty a act addr)
/-- R463. -/
def execVperm (ty : ETy) (a b d : VReg) (m : MaskMod) (s : State) : Out :=
  done (s.vecPut ty a m fun i =>
    let j := lane (s.v d) ty.bits i
    if j < ty.lanes then lane (s.v b) ty.bits j else 0)
/-- R445. -/
def execVcompress (ty : ETy) (a b : VReg) (m : MaskMod) (s : State) : Out :=
  let l := s.compressed ty b m
  done (s.setV a (mergeLanes ty.bits (fun i => decide (i < l.length)) (zeroing m) (s.v a) fun i => l.getD i 0))
/-- R450. -/
def execVexpand (ty : ETy) (a b : VReg) (m : MaskMod) (s : State) : Out :=
  done (s.vecPut ty a m fun i => lane (s.v b) ty.bits (activeLanes (s.active m) i).length)
/-- R470. -/
def execVslideup (ty : ETy) (a b : VReg) (d : XReg) (m : MaskMod) (s : State) : Out :=
  let t := (s.x d).toNat
  done (s.vecPut ty a m fun i => if t ≤ i then lane (s.v b) ty.bits (i - t) else lane (s.v a) ty.bits i)
/-- R469. -/
def execVslidedn (ty : ETy) (a b : VReg) (d : XReg) (m : MaskMod) (s : State) : Out :=
  let t := (s.x d).toNat
  done (s.vecPut ty a m fun i => if i + t < ty.lanes then lane (s.v b) ty.bits (i + t) else 0)
/-- R466. -/
def execVsel (ty : ETy) (a b d : VReg) (m : MaskMod) (s : State) : Out :=
  done (s.setV a (mergeLanes ty.bits (s.active m) false (s.v d) fun i => lane (s.v b) ty.bits i))
/-- R443. -/
def execVbcast (ty : ETy) (a : VReg) (b : XReg) (m : MaskMod) (s : State) : Out :=
  done (s.vecPut ty a m fun _ => (s.x b).toNat % 2 ^ ty.bits)
/-- R460. -/
def execVmvxv (ty : ETy) (a : XReg) (b : VReg) (l : BitVec 10) (m : MaskMod) (s : State) : Out :=
  let v := lane (s.v b) ty.bits l.toNat
  done (if s.active m l.toNat then s.setX a (if ty.isSigned then sext ty.bits v else zextNat v)
    else if (zeroing m) then s.setX a 0 else s)
/-- R460. -/
def execVmvvx (ty : ETy) (a : VReg) (b : XReg) (l : BitVec 10) (m : MaskMod) (s : State) : Out :=
  let put (v : Nat) : State := s.setV a (setField (s.v a) (ty.bits * l.toNat) ty.bits v)
  done (if s.active m l.toNat then put ((s.x b).toNat % 2 ^ ty.bits) else if (zeroing m) then put 0 else s)
/-- R446. -/
def execVcvt (st dt : ETy) (a b : VReg) (m : MaskMod) (s : State) : Out := finish s (s.vecCvt st dt a b m)
/-- R464. -/
def execVredAdd (ty : ETy) (a : XReg) (b : VReg) (m : MaskMod) (s : State) : Out := finish s (s.vecRed ty .add a b m)
/-- R464. -/
def execVredMax (ty : ETy) (a : XReg) (b : VReg) (m : MaskMod) (s : State) : Out := finish s (s.vecRed ty .max a b m)
/-- R464. -/
def execVredMin (ty : ETy) (a : XReg) (b : VReg) (m : MaskMod) (s : State) : Out := finish s (s.vecRed ty .min a b m)
/-- R449. -/
def execVexp2 (ty : ETy) (a b : VReg) (m : MaskMod) (s : State) : Out := finish s (s.vecSfu ty .exp2 a b m)
/-- R449. -/
def execVlog2 (ty : ETy) (a b : VReg) (m : MaskMod) (s : State) : Out := finish s (s.vecSfu ty .log2 a b m)
/-- R449. -/
def execVrcp (ty : ETy) (a b : VReg) (m : MaskMod) (s : State) : Out := finish s (s.vecSfu ty .rcp a b m)
/-- R449. -/
def execVrsq (ty : ETy) (a b : VReg) (m : MaskMod) (s : State) : Out := finish s (s.vecSfu ty .rsq a b m)
/-- R449. -/
def execVtanh (ty : ETy) (a b : VReg) (m : MaskMod) (s : State) : Out := finish s (s.vecSfu ty .tanh a b m)
/-- R449. -/
def execVlgst (ty : ETy) (a b : VReg) (m : MaskMod) (s : State) : Out := finish s (s.vecSfu ty .lgst a b m)

end Sys2Proof.Machine
end

