-- ==== Sys2Proof/Machine/Tile.lean ====
section
/-! DEFINITION. Tile storage (R138), configurations (R79, R139), ownership (R77, R78), the fields of a command record
(R152) and the order of instructions after queued records (R150). -/

namespace Sys2Proof.Machine

/-! ## Configurations (R79) -/

def cfgRows (c : BitVec 17) : Nat := field c 0 5
def cfgCols (c : BitVec 17) : Nat := field c 5 7
def cfgCode (c : BitVec 17) : Nat := field c 12 4
def cfgOn (c : BitVec 17) : Bool := c.getLsbD 16
/-- The type of a code; 15 stands in no configuration. -/
def tyOfCode (n : Nat) : ETy := (ETy.ofCode (BitVec.ofNat 4 n)).getD .cb4
def cfgTy (c : BitVec 17) : ETy := tyOfCode (cfgCode c)
/-- Bytes of an element. -/
def cfgSize (c : BitVec 17) : Nat := (cfgTy c).bits / 8
def mkCfg (rows cols code : Nat) : BitVec 17 := BitVec.ofNat 17 (rows + 32 * cols + 4096 * code + 65536)

/-- The grant for a request (R139); 0 refuses. `exact` is `tcfgr`. -/
def grantOf (req : Word) (exact : Bool) : BitVec 17 :=
  let rows := field req 0 8
  let cols := field req 8 8
  let code := field req 16 4
  let size := (tyOfCode code).bits / 8
  if rows = 0 ∨ cols = 0 ∨ code = 3 ∨ code = 7 ∨ code = 13 ∨ code = 15 then 0
  else if exact ∧ (16 < rows ∨ 64 / size < cols) then 0
  else mkCfg (min rows 16) (min cols (64 / size)) code

/-! ## Storage (R138) -/

/-- Element (i, j) of size `s` in an image, wherever the grant ends. -/
def imgElem (img : Image) (s i j : Nat) : Nat := field img (8 * (64 * i + j * s)) (8 * s)
def imgSet (img : Image) (s i j v : Nat) : Image := setField img (8 * (64 * i + j * s)) (8 * s) v

namespace Core

def tile (c : Core) (t : TReg) : Image := vget c.tiles t rfl
def cfg (c : Core) (t : TReg) : BitVec 17 := vget c.tcfg t rfl
def setTile (c : Core) (t : TReg) (i : Image) : Core := { c with tiles := vset c.tiles t i rfl }
def setCfg (c : Core) (t : TReg) (g : BitVec 17) : Core := { c with tcfg := vset c.tcfg t g rfl }

/-- An element as an instruction reads it: 0 outside the grant. -/
def elem (c : Core) (t : TReg) (i j : Nat) : Nat :=
  let g := c.cfg t
  if i < cfgRows g ∧ j < cfgCols g then imgElem (c.tile t) (cfgSize g) i j else 0

/-- Byte `b` of row `i` as read. -/
def rowByte (c : Core) (t : TReg) (i b : Nat) : Nat :=
  let g := c.cfg t
  if i < cfgRows g ∧ b < cfgCols g * cfgSize g then imgElem (c.tile t) 1 i b else 0

end Core

/-- An image with the elements that `f` gives, inside a grant. -/
def imgWrite (img : Image) (g : BitVec 17) (es : List (Nat × Nat × Nat)) : Image :=
  es.foldl (fun m e => if e.1 < cfgRows g ∧ e.2.1 < cfgCols g then imgSet m (cfgSize g) e.1 e.2.1 e.2.2 else m) img

/-! ## Ownership (R77, R78) -/

/-- The group of register `k`: a tile 0 to 7, or 8 + n for an accumulator. -/
def townGroup (town : Word) (k : Nat) : Nat := field town (5 * k) 5
def townSlot (town : Word) (k : Nat) : Nat := townGroup town k % 4
def townOwn (town : Word) (k : Nat) : Bool := town.getLsbD (5 * k + 2)
def townPark (town : Word) (k : Nat) : Bool := town.getLsbD (5 * k + 3)
def townDirty (town : Word) (k : Nat) : Bool := town.getLsbD (5 * k + 4)
def setTown (town : Word) (k g : Nat) : Word := setField town (5 * k) 5 g
def setDirty (town : Word) (k : Nat) (d : Bool) : Word := setField town (5 * k + 4) 1 (bit d)

/-- A strand of the slot may touch the register. -/
def mayTouch (town : Word) (k slot : Nat) : Bool :=
  !townOwn town k || (townSlot town k == slot && !townPark town k)
/-- The slot owns the register with PARK = 0 (R153). -/
def owns (town : Word) (k slot : Nat) : Bool := townOwn town k && townSlot town k == slot && !townPark town k
/-- The claim that a touch makes (entry 60). -/
def claimed (town : Word) (k slot : Nat) : Word := if townOwn town k then town else setTown town k (slot % 4 + 4)

/-- SVAL of cause 9 (R63). -/
def ownVal (town : Word) (k : Nat) : Word := BitVec.ofNat 64 (k + 16 * townSlot town k)

def tnum (t : TReg) : Nat := t.toNat
def anum (a : AReg) : Nat := 8 + a.toNat

/-! ## Command records (R152) -/

namespace Rec

def kind (r : Rec512) : Nat := field r 0 8
def form (r : Rec512) : Nat := field r 8 8
def acc (r : Rec512) : AReg := r.extractLsb' 16 2
def cba (r : Rec512) : KReg := r.extractLsb' 18 2
def cbb (r : Rec512) : KReg := r.extractLsb' 20 2
def ta (r : Rec512) : TReg := r.extractLsb' 24 3
def tb (r : Rec512) : TReg := r.extractLsb' 28 3
def xd (r : Rec512) : Nat := field r 32 5
def slot (r : Rec512) : Nat := field r 37 2
def scl (r : Rec512) : Bool := r.getLsbD 39
def env (r : Rec512) : FpEnv := ⟨rmOf (field r 40 3), r.getLsbD 43, r.getLsbD 44, false⟩
def mx1 (r : Rec512) : Nat := field r 48 4
def nx1 (r : Rec512) : Nat := field r 52 4
def kext (r : Rec512) : Nat := field r 64 16
def data (r : Rec512) : V256 := r.extractLsb' 128 256

/-- Every must-be-0 field is 0. -/
def zerosOk (r : Rec512) : Bool :=
  field r 22 2 == 0 && field r 27 1 == 0 && field r 31 1 == 0 && field r 45 3 == 0 && field r 56 8 == 0
    && field r 80 48 == 0 && field r 384 128 == 0

/-- A record as an instruction fills it (R152): extent whole, KEXT 0. -/
def make (kind form : Nat) (acc : AReg) (cba cbb : KReg) (ta tb : TReg) (xd slot : Nat) (scl : Bool) (fpc : Word)
    (data : V256) : Rec512 :=
  BitVec.ofNat 512 (kind + 2 ^ 8 * form + 2 ^ 16 * acc.toNat + 2 ^ 18 * cba.toNat + 2 ^ 20 * cbb.toNat
    + 2 ^ 24 * ta.toNat + 2 ^ 28 * tb.toNat + 2 ^ 32 * xd + 2 ^ 37 * slot + 2 ^ 39 * bit scl
    + 2 ^ 40 * field fpc 0 5 + 2 ^ 48 * 0xFF + 2 ^ 128 * data.toNat)

/-- A record with the pushing slot in SLOT (R153). -/
def withSlot (r : Rec512) (k : Nat) : Rec512 := setField r 37 2 k

end Rec

/-- What a form of `mma` or `smma` reads (R148): operand types, K, depth per A tile and per B tile, and whether it takes
scales and needs them. -/
structure MForm where
  tyA    : ETy
  tyB    : ETy
  k      : Nat
  ktA    : Nat
  ktB    : Nat
  scales : Bool
  mx     : Bool
  deriving DecidableEq, Repr

/-- The forms of `mma`, by function code (R102, R148). -/
def mmaForm (f : Nat) : Option MForm :=
  match f with
  | 0 => some ⟨.e4, .e4, 64, 64, 64, true, false⟩
  | 1 => some ⟨.e4, .e5, 64, 64, 64, true, false⟩
  | 2 => some ⟨.e5, .e4, 64, 64, 64, true, false⟩
  | 3 => some ⟨.e5, .e5, 64, 64, 64, true, false⟩
  | 4 => some ⟨.bf, .bf, 32, 32, 32, false, false⟩
  | 5 => some ⟨.hf, .hf, 32, 32, 32, false, false⟩
  | 6 => some ⟨.f32, .f32, 16, 16, 16, false, false⟩
  | 7 => some ⟨.i8, .i8, 64, 64, 64, true, false⟩
  | 8 => some ⟨.i8, .n8, 64, 64, 64, true, false⟩
  | 9 => some ⟨.cb4, .cb4, 128, 128, 128, false, false⟩
  | 10 => some ⟨.cb4, .e4, 128, 128, 64, false, false⟩
  | 11 => some ⟨.cb4, .bf, 128, 128, 32, false, false⟩
  | 12 => some ⟨.e4, .e4, 32, 32, 32, true, true⟩
  | 13 => some ⟨.n8, .n8, 32, 32, 32, true, true⟩
  | 14 => some ⟨.n8, .n8, 32, 32, 32, true, true⟩
  | 15 => some ⟨.i8, .i8, 32, 32, 32, true, true⟩
  | _ => none

/-- The forms of `smma` (R148, R420). -/
def smmaForm (f : Nat) : Option MForm :=
  match f with
  | 0 => some ⟨.e4, .e4, 128, 64, 64, true, false⟩
  | 1 => some ⟨.bf, .bf, 64, 32, 32, false, false⟩
  | 2 => some ⟨.i8, .i8, 128, 64, 64, true, false⟩
  | 3 => some ⟨.cb4, .cb4, 256, 128, 128, false, false⟩
  | _ => none

def Rec.mform (r : Rec512) : Option MForm :=
  match Rec.kind r with
  | 2 => mmaForm (Rec.form r)
  | 3 => smmaForm (Rec.form r)
  | _ => none

def MForm.tilesA (m : MForm) : Nat := m.k / m.ktA
def MForm.tilesB (m : MForm) : Nat := m.k / m.ktB

/-- The tiles of a group. -/
def group (t : TReg) (n : Nat) : List TReg := (List.range n).map fun i => t + BitVec.ofNat 3 i

/-- The type of an `mdraint` form. -/
def draintTy (f : Nat) : ETy :=
  match f with
  | 0 => .e4 | 1 => .e5 | _ => .i8

/-- The tiles that a record names, each with the type it must have (R153). -/
def Rec.tiles (r : Rec512) : List (TReg × ETy) :=
  match Rec.kind r with
  | 4 => [(Rec.ta r, tyOfCode (Rec.form r))]
  | 5 => [(Rec.ta r, draintTy (Rec.form r)), (Rec.tb r, draintTy (Rec.form r))]
  | 7 => [(Rec.ta r, .e4)]
  | _ =>
    match Rec.mform r with
    | some m => (group (Rec.ta r) m.tilesA).map (·, m.tyA) ++ (group (Rec.tb r) m.tilesB).map (·, m.tyB)
    | none => []

/-- The accumulator that a record names. -/
def Rec.accs (r : Rec512) : List AReg := if Rec.kind r = 6 then [] else [Rec.acc r]

/-- Codebook slots that a record reads. -/
def Rec.booksRead (r : Rec512) : List KReg :=
  match Rec.mform r with
  | some m => (if m.tyA = .cb4 then [Rec.cba r] else []) ++ (if m.tyB = .cb4 then [Rec.cbb r] else [])
  | none => []

/-- Registers that a record writes, and those it reads (R150). -/
def Rec.writes (r : Rec512) : List MReg :=
  let xs := (List.range 4).map fun i => MReg.xreg (Rec.slot r) (BitVec.ofNat 5 (Rec.xd r + i))
  match Rec.kind r with
  | 1 => [.acc (Rec.acc r)]
  | 2 => [.acc (Rec.acc r)]
  | 3 => [.acc (Rec.acc r)]
  | 4 => [.tile (Rec.ta r)]
  | 5 => [.tile (Rec.ta r), .tile (Rec.tb r)] ++ xs
  | 6 => [.book (Rec.cba r)]
  | 7 => [.tile (Rec.ta r)] ++ xs
  | _ => []
def Rec.reads (r : Rec512) : List MReg :=
  (if Rec.kind r = 4 ∨ Rec.kind r = 5 ∨ Rec.kind r = 7 then [.acc (Rec.acc r)]
    else if Rec.kind r = 2 ∨ Rec.kind r = 3 then (Rec.tiles r).map fun t => MReg.tile t.1 else [])
    ++ (Rec.booksRead r).map MReg.book

/-- A pushed record reads and writes every tile, accumulator and codebook slot that its fields name (R387). -/
def MRec.writes (m : MRec) : List MReg :=
  if m.pushed then
    Rec.writes m.bits ++ [.tile (Rec.ta m.bits), .tile (Rec.tb m.bits), .acc (Rec.acc m.bits), .book (Rec.cba m.bits), .book (Rec.cbb m.bits)]
      ++ (Rec.tiles m.bits).map fun t => MReg.tile t.1
  else Rec.writes m.bits
def MRec.reads (m : MRec) : List MReg := if m.pushed then m.writes else Rec.reads m.bits

namespace Core

/-- Some record has still to write the register. -/
def owesWrite (c : Core) (r : MReg) : Bool :=
  (c.matrix.run.any fun m => m.cmd.writes.contains r) || c.matrix.queue.any fun m => m.writes.contains r

/-- Some record has still to read or write the register; one that executes has read. -/
def owesUse (c : Core) (r : MReg) : Bool :=
  c.owesWrite r || c.matrix.queue.any fun m => m.reads.contains r

end Core

namespace State

/-- Cause 8 for an unconfigured tile, then cause 9, then the claim (R77). -/
def touchCfg (s : State) (t : TReg) : Eff Unit :=
  if !cfgOn (s.core.cfg t) then .trap 8 (BitVec.ofNat 64 (tnum t)) 0 else .ok () s
def touchOwn (s : State) (k : Nat) : Eff Unit :=
  if mayTouch s.core.town k s.me.slot then .ok () s else .trap 9 (ownVal s.core.town k) 0
def claimReg (s : State) (k : Nat) : State := s.withCore fun c => { c with town := claimed c.town k s.me.slot }

/-- A touch of one configured tile. -/
def touchTile (s : State) (t : TReg) : Eff Unit :=
  (s.touchCfg t).bind fun _ s => (s.touchOwn (tnum t)).map fun _ => ()

/-- DIRTY of a register. -/
def dirty (s : State) (k : Nat) (d : Bool) : State := s.withCore fun c => { c with town := setDirty c.town k d }

/-- Wait for every record that still has to use a register (R150). -/
def waitUse (s : State) (rs : List MReg) : Eff Unit := if rs.any s.core.owesUse then .hold s false 0 else .ok () s
/-- Wait for every record that still has to write a register. -/
def waitWrite (s : State) (rs : List MReg) : Eff Unit := if rs.any s.core.owesWrite then .hold s false 0 else .ok () s

end State

end Sys2Proof.Machine
end

