-- ==== Sys2Proof/Machine/TileOps.lean ====
section
/-! DEFINITION. The tile instructions of page 3 (R139 to R146, R155, R163 to R167, R424 to R435). -/

namespace Sys2Proof.Machine

/-- A request whose grant equals a word, so that `trs` accepts it (R434). -/
def grantable (w : Word) : Bool :=
  let g := w.truncate 17
  w.toNat < 2 ^ 17 && cfgOn g && w == (grantOf (BitVec.ofNat 64 (cfgRows g + 256 * cfgCols g + 65536 * cfgCode g)) true).zeroExtend 64

namespace State

/-! ## Configuration and release -/

/-- Apply a grant (R140). -/
def applyGrant (s : State) (t : TReg) (g : BitVec 17) : State :=
  let old := s.core.cfg t
  let keep := cfgOn old && cfgRows old == cfgRows g && cfgCols old * cfgSize old == cfgCols g * cfgSize g
  if keep then s.withCore (·.setCfg t g)
  else (s.withCore fun c => (c.setTile t 0).setCfg t g).dirty (tnum t) false

/-- `tcfg` and `tcfgr` (R139, R140, R424). -/
def tileConfig (s : State) (a : XReg) (t : TReg) (c : XReg) (exact : Bool) : Eff Unit :=
  (s.touchOwn (tnum t)).bind fun _ s =>
    (s.waitUse [.tile t]).bind fun _ s =>
      let g := grantOf (s.x c) exact
      let s := s.claimReg (tnum t)
      .ok () ((if g = 0 then s else s.applyGrant t g).setX a (g.zeroExtend 64))

/-- The register that a 4-bit field of `trel`, `tsv` and `trs` names. -/
def namedReg (r : BitVec 4) : MReg := if r.toNat < 8 then .tile (r.truncate 3) else .acc (r.truncate 2)

/-- `trel` (R141). -/
def release (s : State) (r : BitVec 4) : Eff Unit :=
  let k := r.toNat
  if !townOwn s.core.town k then .ok () s
  else if !owns s.core.town k s.me.slot then .trap 9 (ownVal s.core.town k) 0
  else
    (s.waitUse [namedReg r]).bind fun _ s =>
      .ok () (s.withCore fun c => { c with town := setTown c.town k (townSlot c.town k) })

/-! ## Loads and stores of tiles (R143, R144) -/

/-- The elements of a transfer, in the order of their checks: row and column of the tile, and the address (R299; entry 99). -/
def tileElems (g : BitVec 17) (base stride : Word) (transposed : Bool) : List (Nat × Nat × Word) :=
  (List.range (cfgRows g)).flatMap fun i => (List.range (cfgCols g)).map fun j =>
    let p := if transposed then (j, i) else (i, j)
    (i, j, base + BitVec.ofNat 64 p.1 * stride + BitVec.ofNat 64 (p.2 * cfgSize g))

/-- Row stride: X[C], or the packed one when c = 0. -/
def tileStride (s : State) (t : TReg) (c : XReg) (transposed : Bool) : Word :=
  let g := s.core.cfg t
  if c = 0 then BitVec.ofNat 64 ((if transposed then cfgRows g else cfgCols g) * cfgSize g) else s.x c

/-- The checks of a tile transfer in the order of R65: a region's page, the tile, alignment. -/
def tileChecks (s : State) (t : TReg) (base stride : Word) (transposed : Bool) : Eff Unit :=
  let g := s.core.cfg t
  let size := cfgSize g
  if (tileElems g base stride transposed).any fun e => s.regionPage e.2.2 then .trap 11 5 0
  else
    (s.touchCfg t).bind fun _ s =>
      if transposed && cfgTy g == .cb4 then .trap 8 (BitVec.ofNat 64 (tnum t)) 0
      else
        (s.touchOwn (tnum t)).bind fun _ s =>
          if base.toNat % size ≠ 0 then .trap 2 base 0
          else if stride.toNat % size ≠ 0 then .trap 2 (base + stride) 0
          else .ok () s

/-- Write loaded elements into a tile of a core, and set DIRTY. -/
def fillTile (s : State) (core : Nat) (t : TReg) (es : List (Nat × Nat × Nat)) : State :=
  s.modCore core fun c =>
    { c.setTile t (imgWrite (c.tile t) (c.cfg t) es) with town := setDirty c.town (tnum t) true }

/-- The values that a transfer reads. -/
def readElems (s : State) (t : TReg) (base stride : Word) (transposed : Bool) (mm : MemMod) : Eff (List (Nat × Nat × Nat)) :=
  let es := tileElems (s.core.cfg t) base stride transposed
  (s.loadElems (cfgSize (s.core.cfg t)) mm (es.map fun e => e.2.2)).map fun bs =>
    (es.zip bs).map fun p => (p.1.1, p.1.2.1, natOfBytes p.2)

/-- `tld` and `tldt` (R143, R427). -/
def tileLoad (s : State) (t : TReg) (base stride : Word) (transposed : Bool) (mm : MemMod) : Eff Unit :=
  (s.tileChecks t base stride transposed).bind fun _ s =>
    (s.waitUse [.tile t]).bind fun _ s =>
      (s.readElems t base stride transposed mm).bind fun es s =>
        .ok () ((s.claimReg (tnum t)).fillTile s.me.core t es)

/-- Queue a record, waiting while the queue is full (R149, R153). -/
def pushRec (s : State) (m : MRec) : Eff Unit :=
  let q := s.core.matrix
  if 16 ≤ q.queue.length + bit q.run.isSome then .hold s false 0
  else .ok () (s.withCore fun c => { c with matrix := { c.matrix with queue := c.matrix.queue ++ [m] } })

/-- `tst` (R143): a grant of one row of 64 bytes at 0x0200_0000 is the push store. -/
def tileStore (s : State) (t : TReg) (base stride : Word) (mm : MemMod) : Eff Unit :=
  let g := s.core.cfg t
  (s.tileChecks t base stride false).bind fun _ s =>
    (s.waitWrite [.tile t]).bind fun _ s =>
      if base = 0x200_0000 ∧ cfgRows g = 1 ∧ cfgCols g * cfgSize g = 64 then
        (s.releaseFirst mm).bind fun _ s =>
          (s.pushRec ⟨Rec.withSlot ((s.core.tile t).truncate 512) s.me.slot, true⟩).bind fun _ s =>
            .ok () (s.claimReg (tnum t))
      else
        let size := cfgSize g
        let es := (tileElems g base stride false).map fun e => (e.2.2, bytesOfNat size (s.core.elem t e.1 e.2.1))
        (s.storeElems size mm es).bind fun _ s => .ok () (s.claimReg (tnum t))

/-- The resident member `m` of the executing strand's piece. -/
def memberAt (s : State) (m : Nat) : Option Sid :=
  let i := s.strand.ident
  (s.residents.find? fun q =>
    q.2.ident.lnum == i.lnum && q.2.ident.stage == i.stage && q.2.ident.piece == i.piece && q.2.ident.member == m).map
      fun q => Sid.ofKey q.1

/-- An element of a multicast source: own LM, or an LM of the issuer's cluster (R144). -/
def castSource (s : State) (va : Word) : Bool :=
  isOwnLm va || (isFieldLm va && clusterOf (windowCore s va) == clusterOf s.me.core)

/-- The checks of a multicast, in the order of R65: the issuer's and the selected members' tiles and their owners, the
alignment, the places of the elements, and the members; in a compute phase the instruction traps after them (R261). -/
def castChecks (s : State) (t : TReg) (base stride : Word) (mask : Word) : Eff (List Sid) :=
  let g := s.core.cfg t
  let sel := (List.range 64).filter fun m => mask.getLsbD m
  let ws := sel.filterMap s.memberAt
  let gone := ws.length < sel.length || ws.any fun w => clusterOf w.core != clusterOf s.me.core
  (s.touchCfg t).bind fun _ s =>
    match ws.find? fun w => (s.coreAt w.core).cfg t != g with
    | some _ => .trap 8 (BitVec.ofNat 64 (tnum t)) 0
    | none =>
      (s.touchOwn (tnum t)).bind fun _ s =>
        match ws.find? fun w => !mayTouch (s.coreAt w.core).town (tnum t) w.slot with
        | some w => .trap 9 (ownVal (s.coreAt w.core).town (tnum t)) 0
        | none =>
          (s.tileChecks t base stride false).bind fun _ s =>
            match (tileElems g base stride false).find? fun e => !s.castSource e.2.2 with
            | some e => .trap 7 e.2.2 0
            | none => if gone then .trap 7 base 0 else (guardTrap s.computePhase 13 s.pcf s).map fun _ => ws

/-- With an empty mask `tldm` is `tld`, but in a compute phase it traps once the checks before cause 13 are past (R144,
R261). -/
def castNone (s : State) (t : TReg) (base stride : Word) (mm : MemMod) : Eff Unit :=
  if s.computePhase then
    (s.tileChecks t base stride false).bind fun _ s =>
      match (tileElems (s.core.cfg t) base stride false).find? fun e => s.offMap e.2.2 with
      | some e => .trap 7 e.2.2 0
      | none => .trap 13 s.pcf 0
  else s.tileLoad t base stride false mm

/-- `tldm` (R144, R427). -/
def tileCast (s : State) (t : TReg) (base stride : Word) (mask : Word) (mm : MemMod) : Eff Unit :=
  if s.strand.inRegion then .trap 11 4 0
  else if mask = 0 then s.castNone t base stride mm
  else
    (s.castChecks t base stride mask).bind fun ws s =>
      if (s.core.owesUse (.tile t)) || ws.any fun w => (s.coreAt w.core).owesUse (.tile t) then .hold s false 0
      else
        (s.readElems t base stride false mm).bind fun es s =>
          let all := s.me :: ws.filter (· != s.me)
          .ok () (all.foldl (fun s w =>
            (s.modCore w.core fun c => { c with town := claimed c.town (tnum t) w.slot }).fillTile w.core t es) s)

/-! ## Moves (R145) -/

/-- The 64 bytes of a pair. -/
def pairBits (s : State) (p : BitVec 4) : BitVec 512 := s.v (oddOf p) ++ s.v (evenOf p)
def setPair (s : State) (p : BitVec 4) (v : BitVec 512) : State :=
  (s.setV (evenOf p) (v.extractLsb' 0 256)).setV (oddOf p) (v.extractLsb' 256 256)

/-- Lane `q` of a pair. -/
def pairLane (v : BitVec 512) (size q : Nat) : Nat := field v (8 * size * q) (8 * size)

/-- Into the tile: lane `q` goes to the element that `at_ q` names. A move that writes no element of the grant claims the tile and
leaves DIRTY as it is (R78, R145, R428; DESIGN CHOICE, entry 112). -/
def moveIn (s : State) (t : TReg) (p : BitVec 4) (m : MaskMod) (n : Nat) (at_ : Nat → Nat × Nat) : Eff Unit :=
  (s.touchTile t).bind fun _ s =>
    (s.waitUse [.tile t]).bind fun _ s =>
      let g := s.core.cfg t
      let v := s.pairBits p
      let es := (List.range n).filterMap fun q =>
        let (i, j) := at_ q
        if i < cfgRows g ∧ j < cfgCols g ∧ (s.active m q ∨ zeroing m) then
          some (i, j, if s.active m q then pairLane v (cfgSize g) q else 0)
        else none
      let s := s.claimReg (tnum t)
      .ok () (if es.isEmpty then s else s.fillTile s.me.core t es)

/-- Out of the tile: lane `q` of the first `n` takes the element that `at_ q` names, and the others take 0. -/
def moveOut (s : State) (t : TReg) (p : BitVec 4) (m : MaskMod) (n : Nat) (at_ : Nat → Nat × Nat) : Eff Unit :=
  (s.touchTile t).bind fun _ s =>
    (s.waitWrite [.tile t]).bind fun _ s =>
      let size := cfgSize (s.core.cfg t)
      let old := s.pairBits p
      let f (q : Nat) : Nat :=
        if n ≤ q then 0
        else if s.active m q then s.core.elem t (at_ q).1 (at_ q).2
        else if zeroing m then 0 else pairLane old size q
      let s := s.claimReg (tnum t)
      .ok () (s.setPair p (BitVec.ofNat 512 (packLanes (8 * size) f (64 / size))))

/-! ## Compression (R155) -/

def compTypes : List ETy := [.i8, .n8, .i16, .n16, .e4, .e5, .bf, .hf, .cb4]

/-- The magnitude of an element: its absolute value, every NaN above infinity. -/
def magnitude (ty : ETy) (k0 : V256) (v : Nat) : Nat :=
  let ofFp (f : Fmt) (x : Nat) : Nat := if (f.decode x).isNaN then 2 ^ f.width else x % 2 ^ (f.width - 1)
  match ty with
  | .cb4 => ofFp .bf (lane k0 16 v)
  | .i8 => (laneInt true 8 v).natAbs
  | .i16 => (laneInt true 16 v).natAbs
  | .n8 => v
  | .n16 => v
  | _ => ofFp (tyFmt ty) v

/-- Bits of a logical element in compression. -/
def compBits (ty : ETy) : Nat := if ty = .cb4 then 4 else ty.bits

/-- Logical element `k` of a row as read. -/
def logical (c : Core) (t : TReg) (ty : ETy) (i k : Nat) : Nat :=
  if ty = .cb4 then (c.rowByte t i (k / 2) >>> (4 * (k % 2))) % 16
  else natOfBytes ((List.range (ty.bits / 8)).map fun b => BitVec.ofNat 8 (c.rowByte t i (k * (ty.bits / 8) + b)))

/-- The kept positions of a group, ascending: those of largest magnitude, ties to the lower index. -/
def keptOf (mags : List Nat) (keep : Nat) : List Nat :=
  (List.range mags.length).filter fun p =>
    let m := mags.getD p 0
    ((List.range mags.length).filter fun q =>
      m < mags.getD q 0 || (mags.getD q 0 == m && q < p)).length < keep

/-- The 64 bytes of a compressed row as a number. -/
def compRow (c : Core) (t : TReg) (g : Nat) (i : Nat) : Nat :=
  let ty := cfgTy (c.cfg t)
  let n := 512 / compBits ty
  let w := if g = 4 then 2 else 3
  let k0 := c.books[0]
  let kept := (List.range (n / g)).flatMap fun grp =>
    let es := (List.range g).map fun p => logical c t ty i (grp * g + p)
    (keptOf (es.map (magnitude ty k0)) (g / 2)).map fun p => (p, es.getD p 0)
  let vals := packLanes (compBits ty) (fun q => (kept.getD q (0, 0)).2) kept.length
  let idx := packLanes w (fun q => (kept.getD q (0, 0)).1) kept.length
  vals + idx * 2 ^ 256 + (if g = 8 then 2 ^ 504 else 0)

/-- `tcomp` (R155, R425): the grant of tb bounds what is written (R138; entry 19). -/
def compress (s : State) (t u : TReg) (g : Nat) : Eff Unit :=
  (s.touchCfg u).bind fun _ s =>
    let cfg := s.core.cfg u
    if !compTypes.contains (cfgTy cfg) then .trap 8 (BitVec.ofNat 64 (tnum u)) 0
    else
      (s.touchOwn (tnum t)).bind fun _ s =>
        (s.touchOwn (tnum u)).bind fun _ s =>
          (s.waitUse [.tile t, .tile u]).bind fun _ s =>
            (s.waitWrite (if cfgTy cfg = .cb4 then [.book 0] else [])).bind fun _ s =>
              let n := cfgCols cfg * cfgSize cfg
              let c := s.core
              let img := (List.range (cfgRows cfg)).foldl (fun m i =>
                setField m (512 * i) (8 * n) (compRow c u g i)) (c.tile t)
              let s := (s.claimReg (tnum u)).claimReg (tnum t)
              .ok () ((s.withCore fun c => (c.setTile t img).setCfg t cfg).dirty (tnum t) true)

/-! ## Outer comparison (R163 to R167) -/

/-- The sort key of a pattern (R166). -/
def sortKey (ty : ETy) (x : Nat) : Nat :=
  let top := 2 ^ (ty.bits - 1)
  if ty.isInt then (if ty.isSigned then x ^^^ top else x)
  else if x < top then x ^^^ top else 2 ^ ty.bits - 1 - x

/-- The relations of R165. -/
inductive ORel where
  | rel (r : Rel) | unord | ord | teq | tlt | tle | tltx | tgtx
  deriving DecidableEq, Repr

def orel (r : ORel) (ty : ETy) (env : FpEnv) (x y i j : Nat) : Bool :=
  let kx := sortKey ty x
  let ky := sortKey ty y
  match r with
  | .rel q =>
    if ty.isInt then (relLane ty env q x y).1
    else
      let a := (tyFmt ty).read env x
      let b := (tyFmt ty).read env y
      if a.isNaN || b.isNaN then q == .ne else (fpRel q a b).1
  | .unord => !ty.isInt && (((tyFmt ty).decode x).isNaN || ((tyFmt ty).decode y).isNaN)
  | .ord => ty.isInt || !(((tyFmt ty).decode x).isNaN || ((tyFmt ty).decode y).isNaN)
  | .teq => kx == ky
  | .tlt => kx < ky
  | .tle => kx ≤ ky
  | .tltx => kx < ky || (kx == ky && i < j)
  | .tgtx => ky < kx || (kx == ky && i < j)

/-- NV of a quiet relation: a signalling NaN among the 32 elements (R167). -/
def orelFlags (r : ORel) (ty : ETy) (xs : List Nat) : Word :=
  let quiet := match r with
    | .rel _ => true | .unord => true | .ord => true | _ => false
  if quiet && !ty.isInt && xs.any fun x => ((tyFmt ty).decode x).isSNaN then fNV else 0

/-- `ocmp` (R163, R164). -/
def outerCmp (s : State) (r : ORel) (bd : BReg) (t u : TReg) : Eff Unit :=
  (s.touchCfg t).bind fun _ s =>
    (s.touchCfg u).bind fun _ s =>
      let ty := cfgTy (s.core.cfg t)
      if cfgTy (s.core.cfg u) ≠ ty then .trap 8 (BitVec.ofNat 64 (tnum u)) 0
      else if ty = .cb4 then .trap 8 (BitVec.ofNat 64 (tnum t)) 0
      else
        (s.touchOwn (tnum t)).bind fun _ s =>
          (s.touchOwn (tnum u)).bind fun _ s =>
            (s.waitWrite [.tile t, .tile u]).bind fun _ s =>
              let s := (s.claimReg (tnum t)).claimReg (tnum u)
              let c := s.core
              let xs := (List.range 16).map (c.elem t 0)
              let ys := (List.range 16).map (c.elem u 0)
              s.flagged (orelFlags r ty (xs ++ ys)) fun s =>
                s.setB bd (btOf fun i j => orel r ty s.env (xs.getD i 0) (ys.getD j 0) i j)

/-! ## Save images (R142, R434) -/

/-- Bytes of a register's save image. -/
def imageBytes (c : Core) (r : BitVec 4) : List Byte :=
  if r.toNat < 8 then
    bytesOfNat 1024 (c.tile (r.truncate 3)).toNat ++ bytesOfNat 8 (c.cfg (r.truncate 3)).toNat
  else
    let a : AReg := r.truncate 2
    bytesOfNat 1024 (vget c.accE a rfl).toNat ++ bytesOfNat 1024 (vget c.accO a rfl).toNat

/-- A register from a save image: a TCFG word that no grant gives leaves the tile unconfigured. -/
def restoreImage (c : Core) (r : BitVec 4) (bs : List Byte) : Core :=
  let lo : Image := BitVec.ofNat 8192 (natOfBytes (bs.take 1024))
  if r.toNat < 8 then
    let w := wordOfBytes (bs.drop 1024)
    (c.setTile (r.truncate 3) lo).setCfg (r.truncate 3) (if grantable w then w.truncate 17 else 0)
  else
    let a : AReg := r.truncate 2
    { c with accE := vset c.accE a lo rfl, accO := vset c.accO a (BitVec.ofNat 8192 (natOfBytes (bs.drop 1024))) rfl }

/-- 8-byte words of a save image. -/
def imageWords (r : BitVec 4) : Nat := if r.toNat < 8 then 129 else 256

/-- `tsv` (R434). -/
def saveReg (s : State) (r : BitVec 4) (ea : Word) : Eff Unit :=
  if s.strand.mode = .U then .trap 1 s.latch.first 0
  else if ea.toNat % 8 ≠ 0 then .trap 2 ea 0
  else
    (s.checkEach .store 8 (s.consecutive ea 8 (imageWords r))).bind fun ps s =>
      (s.waitWrite [namedReg r]).bind fun _ s =>
        let bs := imageBytes s.core r
        let ws := (List.range (imageWords r)).map fun i => (bs.drop (8 * i)).take 8
        (s.orNone (s.storeEach MemMod.none (ps.zip ws))).bind fun _ s => .ok () (s.dirty r.toNat false)

/-- `trs` (R434). -/
def restoreReg (s : State) (r : BitVec 4) (ea : Word) : Eff Unit :=
  if s.strand.mode = .U then .trap 1 s.latch.first 0
  else if ea.toNat % 8 ≠ 0 then .trap 2 ea 0
  else
    (s.checkEach .load 8 (s.consecutive ea 8 (imageWords r))).bind fun ps s =>
      (s.waitUse [namedReg r]).bind fun _ s =>
        (s.loadEach 8 MemMod.none ps).bind fun bs s =>
          .ok () ((s.withCore fun c => restoreImage c r bs.flatten).dirty r.toNat false)

end State

/-- R139, R424. -/
def execTcfg (a : XReg) (t : TReg) (c : XReg) (s : State) : Out := finish s (s.tileConfig a t c false)
/-- R139, R424. -/
def execTcfgr (a : XReg) (t : TReg) (c : XReg) (s : State) : Out := finish s (s.tileConfig a t c true)
/-- R141, R430. -/
def execTrel (r : BitVec 4) (s : State) : Out := finish s (s.release r)
/-- R143, R427. -/
def execTld (t : TReg) (b c : XReg) (imm : BitVec 20) (mm : MemMod) (s : State) : Out :=
  finish s (s.tileLoad t (s.ea b imm) (s.tileStride t c false) false mm)
/-- R143, R427. -/
def execTst (t : TReg) (b c : XReg) (imm : BitVec 20) (mm : MemMod) (s : State) : Out :=
  finish s (s.tileStore t (s.ea b imm) (s.tileStride t c false) mm)
/-- R143, R427. -/
def execTldt (t : TReg) (b c : XReg) (imm : BitVec 20) (mm : MemMod) (s : State) : Out :=
  finish s (s.tileLoad t (s.ea b imm) (s.tileStride t c true) true mm)
/-- R144, R427. -/
def execTldm (t : TReg) (b c d : XReg) (imm : BitVec 20) (mm : MemMod) (s : State) : Out :=
  finish s (s.tileCast t (s.ea b imm) (s.tileStride t c false) (s.x d) mm)
/-- R145. -/
def execTmvVr (t : TReg) (r p : BitVec 4) (m : MaskMod) (s : State) : Out :=
  finish s (s.moveIn t p m 64 fun q => (r.toNat, q))
/-- R145. -/
def execTmvRv (t : TReg) (r p : BitVec 4) (m : MaskMod) (s : State) : Out :=
  finish s (s.moveOut t p m (cfgCols (s.core.cfg t)) fun q => (r.toNat, q))
/-- R145. -/
def execTmvVc (t : TReg) (r p : BitVec 4) (m : MaskMod) (s : State) : Out :=
  finish s (s.moveIn t p m 16 fun q => (q, r.toNat))
/-- R145. -/
def execTmvCv (t : TReg) (r p : BitVec 4) (m : MaskMod) (s : State) : Out :=
  finish s (s.moveOut t p m 16 fun q => (q, r.toNat))
/-- R146, R435. -/
def execTzero (t : TReg) (s : State) : Out :=
  finish s ((s.touchTile t).bind fun _ s =>
    (s.waitUse [.tile t]).bind fun _ s =>
      .ok () (((s.claimReg (tnum t)).withCore fun c => c.setTile t 0).dirty (tnum t) true))
/-- R155, R425. -/
def execTcomp24 (t u : TReg) (s : State) : Out := finish s (s.compress t u 4)
/-- R155, R425. -/
def execTcomp48 (t u : TReg) (s : State) : Out := finish s (s.compress t u 8)
/-- R165. -/
def execOcmpEq (bd : BReg) (t u : TReg) (s : State) : Out := finish s (s.outerCmp (.rel .eq) bd t u)
/-- R165. -/
def execOcmpNe (bd : BReg) (t u : TReg) (s : State) : Out := finish s (s.outerCmp (.rel .ne) bd t u)
/-- R165. -/
def execOcmpLt (bd : BReg) (t u : TReg) (s : State) : Out := finish s (s.outerCmp (.rel .lt) bd t u)
/-- R165. -/
def execOcmpLe (bd : BReg) (t u : TReg) (s : State) : Out := finish s (s.outerCmp (.rel .le) bd t u)
/-- R165. -/
def execOcmpGt (bd : BReg) (t u : TReg) (s : State) : Out := finish s (s.outerCmp (.rel .gt) bd t u)
/-- R165. -/
def execOcmpGe (bd : BReg) (t u : TReg) (s : State) : Out := finish s (s.outerCmp (.rel .ge) bd t u)
/-- R165. -/
def execOcmpUnord (bd : BReg) (t u : TReg) (s : State) : Out := finish s (s.outerCmp (.unord) bd t u)
/-- R165. -/
def execOcmpOrd (bd : BReg) (t u : TReg) (s : State) : Out := finish s (s.outerCmp (.ord) bd t u)
/-- R165. -/
def execOcmpTeq (bd : BReg) (t u : TReg) (s : State) : Out := finish s (s.outerCmp (.teq) bd t u)
/-- R165. -/
def execOcmpTlt (bd : BReg) (t u : TReg) (s : State) : Out := finish s (s.outerCmp (.tlt) bd t u)
/-- R165. -/
def execOcmpTle (bd : BReg) (t u : TReg) (s : State) : Out := finish s (s.outerCmp (.tle) bd t u)
/-- R165. -/
def execOcmpTltx (bd : BReg) (t u : TReg) (s : State) : Out := finish s (s.outerCmp (.tltx) bd t u)
/-- R165. -/
def execOcmpTgtx (bd : BReg) (t u : TReg) (s : State) : Out := finish s (s.outerCmp (.tgtx) bd t u)
/-- R434. -/
def execTsv (r : BitVec 4) (b : XReg) (imm : BitVec 20) (s : State) : Out := finish s (s.saveReg r (s.ea b imm))
/-- R434. -/
def execTrs (r : BitVec 4) (b : XReg) (imm : BitVec 20) (s : State) : Out := finish s (s.restoreReg r (s.ea b imm))

end Sys2Proof.Machine
end

