-- ==== Sys2Proof/Machine/Matrix.lean ====
section
/-! DEFINITION. The matrix engine: the arithmetic of its records (R132 to R135, R148, R156 to R160), the checks of a pushed
record (R153), its start and its completion (R149, R150), and the instructions that queue records. -/

namespace Sys2Proof.Machine

/-! ## Operands (R121, R122, R135, R148, R156) -/

/-- How the elements of a row are packed and what each means. -/
structure ElemCode where
  w   : Nat
  dec : Nat → Fv

/-- An integer as an exact value, in units of 2^e. -/
def fvOfInt (v : Int) (e : Int) : Fv := .fin (v < 0) v.natAbs e

/-- The element code of a type; CB4 goes through a codebook slot. -/
def elemCode (ty : ETy) (book : V256) : ElemCode :=
  match ty with
  | .cb4 => ⟨4, fun c => Fmt.bf.decode (lane book 16 c)⟩
  | .i8 => ⟨8, fun v => fvOfInt (laneInt true 8 v) 0⟩
  | .n8 => ⟨8, fun v => fvOfInt v 0⟩
  | ty => ⟨ty.bits, (tyFmt ty).decode⟩

/-- The element code of a form's operand: the MX forms read packed elements (R121). -/
def operandCode (kind form : Nat) (ty : ETy) (book : V256) : ElemCode :=
  if kind = 2 ∧ form = 13 then ⟨6, Fmt.e2m3.decode⟩
  else if kind = 2 ∧ form = 14 then ⟨4, Fmt.e2m1.decode⟩
  else if kind = 2 ∧ form = 15 then ⟨8, fun v => fvOfInt (laneInt true 8 v) (-6)⟩
  else elemCode ty book

/-- Row `i` of a tile as read: 64 bytes as one number. -/
def rowNat (c : Core) (t : TReg) (i : Nat) : Nat := packLanes 8 (c.rowByte t i) 64

/-- `n` elements of a row; every one stands. -/
def denseRow (e : ElemCode) (n row : Nat) : List (Option Fv) :=
  (List.range n).map fun k => some (e.dec (row / 2 ^ (e.w * k) % 2 ^ e.w))

/-- `n` logical elements of a compressed row (R156): a dropped one is `none`. -/
def sparseRow (e : ElemCode) (n row : Nat) : List (Option Fv) :=
  let g := if row / 2 ^ 504 % 2 = 0 then 4 else 8
  let w := if g = 4 then 2 else 3
  let idx := row / 2 ^ 256
  (List.range n).map fun k =>
    let first := k / g * (g / 2)
    ((List.range (g / 2)).find? fun q => idx / 2 ^ (w * (first + q)) % 2 ^ w == k % g).map fun q =>
      e.dec (row / 2 ^ (e.w * (first + q)) % 2 ^ e.w)

/-- A row of an operand group, over its tiles. -/
def groupRow (c : Core) (ts : List TReg) (read : Nat → Nat → List (Option Fv)) (kt i : Nat) : List (Option Fv) :=
  ts.flatMap fun t => read kt (rowNat c t i)

/-! ## Chains (R132, R134) -/

/-- The exact product with its scale: a NaN that is not quiet raises NV; a dropped value gives +0, and a scale byte of
0xFF makes that product a NaN too (entry 18). -/
def product (scale : Option Int) (a b : Option Fv) : Fv :=
  match scale, a, b with
  | none, _, _ => .nan false false 0 23
  | some s, some x, some y =>
    if x.isNaN || y.isNaN then .nan false (!(x.isSNaN || y.isSNaN)) 0 23
    else if (x.isZero && y.isInf) || (x.isInf && y.isZero) then .nan false false 0 23
    else match exactMul x y with
      | .fin n m e => .fin n m (e + s)
      | v => v
  | _, _, _ => .fin false 0 0

/-- One rounded addition to a chain. -/
def chainAdd (env : FpEnv) (acc : Nat) (p : Fv) : Nat × Word :=
  let x := Fmt.f32.read env acc
  if x.isNaN || p.isNaN then (Fmt.f32.nanBits, snanFlag [x, p]) else Fmt.f32.sumOf env false x p

/-- The two chains of an element over the depth: even indices enter E, odd ones O. -/
def chainPair (env : FpEnv) (scale : Option Int) : List (Option Fv × Option Fv) → Bool → Nat → Nat → Word → Nat × Nat × Word
  | [], _, e, o, fl => (e, o, fl)
  | (a, b) :: rest, odd, e, o, fl =>
    let (v, f) := chainAdd env (if odd then o else e) (product scale a b)
    if odd then chainPair env scale rest false e v (fl ||| f) else chainPair env scale rest true v o (fl ||| f)

/-- s(i, j) = 2^(sA + sB − 254), or NaN (R134). -/
def scaleOf (r : Rec512) (i j : Nat) : Option Int :=
  if !Rec.scl r then some 0
  else
    let a := field (Rec.data r) (8 * i) 8
    let b := field (Rec.data r) (128 + 8 * j) 8
    if a = 255 ∨ b = 255 then none else some (a + b - 254 : Int)

/-- Positions of the extent (R152). -/
def extent (r : Rec512) : List (Nat × Nat) :=
  (List.range (Rec.mx1 r + 1)).flatMap fun i => (List.range (Rec.nx1 r + 1)).map fun j => (i, j)

/-- Element (i, j) of a chain image. -/
def accElem (a : Image) (i j : Nat) : Nat := field a (32 * (16 * i + j)) 32
def accSet (a : Image) (i j v : Nat) : Image := setField a (32 * (16 * i + j)) 32 v

/-- The writes and flags of an `mma` or `smma` record. -/
def runMma (c : Core) (r : Rec512) (m : MForm) : List MWrite × Word :=
  let kind := Rec.kind r
  let depth := if Rec.kext r = 0 then m.k else Rec.kext r
  let ca := operandCode kind (Rec.form r) m.tyA (vget c.books (Rec.cba r) rfl)
  let cb := operandCode kind (Rec.form r) m.tyB (vget c.books (Rec.cbb r) rfl)
  let ra := (List.range 16).map fun i =>
    groupRow c (group (Rec.ta r) m.tilesA) (if kind = 3 then sparseRow ca else denseRow ca) m.ktA i
  let rb := (List.range 16).map fun j => groupRow c (group (Rec.tb r) m.tilesB) (denseRow cb) m.ktB j
  let a := Rec.acc r
  let e := vget c.accE a rfl
  let o := vget c.accO a rfl
  let (e', o', fl) := (extent r).foldl (fun (p : Image × Image × Word) ij =>
    let (i, j) := ij
    let row := ((ra.getD i []).zip (rb.getD j [])).take depth
    let (x, y, f) := chainPair (Rec.env r) (scaleOf r i j) row false (accElem e i j) (accElem o i j) p.2.2
    (accSet p.1 i j x, accSet p.2.1 i j y, f)) (e, o, 0)
  ([.acc a e' o'], fl)

/-! ## Drains (R133, R157 to R160) -/

/-- E + O, exactly: a NaN that is not quiet raises NV. -/
def drainSum (env : FpEnv) (e o : Nat) : Fv :=
  let x := Fmt.f32.read env e
  let y := Fmt.f32.read env o
  if x.isNaN || y.isNaN then .nan false (!(x.isSNaN || y.isSNaN)) 0 23
  else match x, y with
    | .inf a, .inf b => if a = b then .inf a else .nan false false 0 23
    | .inf a, _ => .inf a
    | _, .inf b => .inf b
    | .fin n1 m1 e1, .fin n2 m2 e2 =>
      let (n, m, q) := exactSum n1 m1 e1 n2 m2 e2
      if m = 0 then .fin (zeroSumNeg env.rm (m1 == 0) (m2 == 0) n1 n2) 0 0 else .fin n m q
    | _, _ => .nan false false 0 23

/-- One rounding of a drained value to a type (R157). -/
def drainTo (env : FpEnv) (ty : ETy) (v : Fv) : Nat × Word :=
  if ty.isInt then
    let p := cvtFI env v (-(2 ^ (ty.bits - 1) : Int)) (2 ^ (ty.bits - 1) - 1)
    (wrapInt ty.bits p.1, p.2)
  else
    let f := tyFmt ty
    match v with
    | .nan .. => (f.nanBits, snanFlag [v])
    | .inf n =>
      if ty ≠ .f32 ∧ env.sat then (f.signBit n + f.maxBits, 0)
      else if f.top = .ieee then (f.inf n, 0) else (f.nanBits, fNV)
    | .fin n m e => if m = 0 then (f.signBit n, 0) else f.round env (env.sat && ty != .f32) n m e false

/-- A quantised group (R160): scale, elements, flags. -/
def quantise (env : FpEnv) (ty : ETy) (vs : List Fv) : Nat × List Nat × Word :=
  let f := tyFmt ty
  let emax : Int := match ty with
    | .e4 => 8 | .e5 => 15 | _ => 6
  if vs.isEmpty then (0, [], 0)
  else if vs.any fun v => v.isNaN || v.isInf then
    (255, vs.map fun _ => if ty = .i8 then 0 else f.nanBits, fNV)
  else
    let logs := vs.filterMap fun v => match v with
      | .fin _ m e => if m = 0 then none else some (e + (Nat.log2 m : Int))
      | _ => none
    match logs with
    | [] => (0, vs.map fun v => if ty = .i8 then 0 else f.signBit v.neg, 0)
    | l :: ls =>
      let e := min (max (ls.foldl max l - emax) (-127)) 127
      let qs := vs.map fun v => match v with
        | .fin n m q =>
          if m = 0 then (if ty = .i8 then 0 else f.signBit n, 0)
          else if ty = .i8 then
            let (k, inexact) := roundAt env.rm n m (q - e) 0 false
            let k' := min k 127
            (wrapInt 8 (if n then -(k' : Int) else k'), if inexact || k != k' then fNX else 0)
          else
            let p := f.round env true n m (q - e) false
            (p.1, p.2 &&& ~~~fOF)
        | _ => (0, 0)
      ((e + 127).toNat, qs.map Prod.fst, orFlags (qs.map Prod.snd))

/-- The drained values of an accumulator. -/
def drained (c : Core) (r : Rec512) (i j : Nat) : Fv :=
  drainSum (Rec.env r) (accElem (vget c.accE (Rec.acc r) rfl) i j) (accElem (vget c.accO (Rec.acc r) rfl) i j)

/-- Quantise groups of positions: what each position takes, the scale bytes, the flags. -/
def quantGroups (c : Core) (r : Rec512) (ty : ETy) (groups : List (List (Nat × Nat))) :
    List (Nat × Nat × Nat) × List Nat × Word :=
  let qs := groups.map fun g => (g, quantise (Rec.env r) ty (g.map fun p => drained c r p.1 p.2))
  (qs.flatMap fun q => (q.1.zip q.2.2.1).map fun e => (e.1.1, e.1.2, e.2),
    qs.map fun q => q.2.1, orFlags (qs.map fun q => q.2.2.2))

/-- Eight scale bytes as a word. -/
def scaleWord (l : List Nat) : Word := BitVec.ofNat 64 (packLanes 8 (fun i => l.getD i 0) 8)

def xregAt (r : Rec512) (i : Nat) : BitVec 5 := BitVec.ofNat 5 (Rec.xd r + i)

/-- A record's writes and flags, computed at its start (R150). Where two writes name one register, as with `mdraint` and
TA = TC, the later in this list stands (entry 85). -/
def runRecord (c : Core) (r : Rec512) : List MWrite × Word :=
  let rows := List.range (Rec.mx1 r + 1)
  let cols := List.range (Rec.nx1 r + 1)
  match Rec.kind r with
  | 1 => ([.acc (Rec.acc r) 0 0], 0)
  | 4 =>
    let ty := tyOfCode (Rec.form r)
    let vs := (extent r).map fun p => (p, drainTo (Rec.env r) ty (drained c r p.1 p.2))
    ([.tile (Rec.ta r) (imgWrite (c.tile (Rec.ta r)) (c.cfg (Rec.ta r)) (vs.map fun v => (v.1.1, v.1.2, v.2.1)))],
      orFlags (vs.map fun v => v.2.2))
  | 5 =>
    let ty := draintTy (Rec.form r)
    let (ea, sa, fa) := quantGroups c r ty (rows.map fun i => cols.map fun j => (i, j))
    let (eb, sb, fb) := quantGroups c r ty (cols.map fun j => rows.map fun i => (i, j))
    let ia := imgWrite (c.tile (Rec.ta r)) (c.cfg (Rec.ta r)) ea
    let base := if Rec.ta r = Rec.tb r then ia else c.tile (Rec.tb r)
    let ib := imgWrite base (c.cfg (Rec.tb r)) (eb.map fun e => (e.2.1, e.1, e.2.2))
    ([.tile (Rec.ta r) ia, .tile (Rec.tb r) ib, .xreg (xregAt r 0) (scaleWord sa), .xreg (xregAt r 1) (scaleWord (sa.drop 8)),
      .xreg (xregAt r 2) (scaleWord sb), .xreg (xregAt r 3) (scaleWord (sb.drop 8))], fa ||| fb)
  | 6 => ([.book (Rec.cba r) (Rec.data r)], 0)
  | 7 =>
    let (es, sc, fl) := quantGroups c r .e4 ((List.range 8).map fun q =>
      ([2 * q, 2 * q + 1].filter fun i => i ≤ Rec.mx1 r).flatMap fun i => cols.map fun j => (i, j))
    ([.tile (Rec.ta r) (imgWrite (c.tile (Rec.ta r)) (c.cfg (Rec.ta r)) es), .xreg (xregAt r 0) (scaleWord sc),
      .xreg (xregAt r 1) 0, .xreg (xregAt r 2) 0, .xreg (xregAt r 3) 0], fl)
  | _ =>
    match Rec.mform r with
    | some m => runMma c r m
    | none => ([], 0)

/-! ## Checks of a pushed record (R153) -/

def drainCodes : List Nat := [12, 10, 11, 8, 9, 2, 0]

/-- The reason for which a pushed record fails, 0 for none; of several the lowest code (entry 86). KEXT is compared where the KIND
has a depth; of the others it is not looked at (R153; DESIGN CHOICE, entry 113). -/
def recordFails (c : Core) (r : Rec512) : Nat :=
  let kind := Rec.kind r
  let form := Rec.form r
  let mf := Rec.mform r
  let formBad :=
    if kind = 2 ∨ kind = 3 then mf.isNone
    else if kind = 4 then !drainCodes.contains form
    else if kind = 5 then decide (2 < form)
    else form != 0
  let sclBad := (mf.any (·.mx) && !Rec.scl r) || (Rec.scl r && !mf.any (·.scales))
  if kind = 0 ∨ 7 < kind ∨ formBad || !Rec.zerosOk r || sclBad then 1
  else
    let xdBad := (Rec.scl r || kind == 5 || kind == 7) && (Rec.xd r % 4 != 0 || Rec.xd r < 4)
    let depthBad := mf.any fun m =>
      decide (m.k < Rec.kext r) || (Rec.ta r).toNat % m.tilesA != 0 || (Rec.tb r).toNat % m.tilesB != 0
    if xdBad || depthBad then 2
    else if (Rec.tiles r).any fun t => !cfgOn (c.cfg t.1) || cfgTy (c.cfg t.1) != t.2 then 3
    else if ((Rec.tiles r).any fun t => !owns c.town (tnum t.1) (Rec.slot r))
        || ((Rec.accs r).any fun a => !owns c.town (anum a) (Rec.slot r)) then 4
    else 0

/-- SVAL of a failed record. -/
def failVal (reason : Nat) (r : Rec512) : Word :=
  BitVec.ofNat 64 (16 * reason + 256 * Rec.kind r + 65536 * Rec.form r)

/-! ## The engine's own steps -/

/-- A record starts: it reads its registers (R150); a pushed one is checked (R153). -/
def startRecord (c : Core) (m : MRec) : MRun :=
  let bad := if m.pushed then recordFails c m.bits else 0
  if bad = 0 then
    let (ws, fl) := runRecord c m.bits
    ⟨m, ws, fl, none⟩
  else ⟨m, [], 0, some (failVal bad m.bits)⟩

/-- One write of a completing record; it sets DIRTY (R78). -/
def Core.applyWrite (c : Core) (w : MWrite) : Core :=
  match w with
  | .tile t i => { c.setTile t i with town := setDirty c.town (tnum t) true }
  | .acc a e o => { c with accE := vset c.accE a e rfl, accO := vset c.accO a o rfl, town := setDirty c.town (anum a) true }
  | .book k v => { c with books := vset c.books k v rfl }
  | .xreg _ _ => c

def Strand.applyWrite (t : Strand) (w : MWrite) : Strand :=
  match w with
  | .xreg r v => t.setX r v
  | _ => t

namespace State

/-- The engine of a core starts the record at the head of its queue. -/
def matrixStart (s : State) (n : Nat) : State :=
  let c := s.coreAt n
  match c.matrix.run, c.matrix.queue with
  | none, m :: rest => s.setCore n { c with matrix := { c.matrix with run := some (startRecord c m), queue := rest } }
  | _, _ => s

/-- The executing record completes: its writes, its flags in the FFLAGS of its slot (R126), or asynchronous cause 4. -/
def matrixFinish (s : State) (n : Nat) : State :=
  let c := s.coreAt n
  match c.matrix.run with
  | none => s
  | some m =>
    let w : Sid := ⟨n, Rec.slot m.cmd.bits⟩
    let c' := m.writes.foldl Core.applyWrite c
    let s := s.setCore n { c' with matrix := { c'.matrix with run := none } }
    let s := s.modStrand w fun t =>
      (m.writes.foldl Strand.applyWrite t).modCsr fun r => { r with fflags := r.fflags ||| m.flags }
    match m.bad with
    | some v => if (s.strandAt w).live then s.raiseAsync w 4 v else s
    | none => s

/-- Queued or executing records, and those of a slot (R154). -/
def queued (c : Core) : List Rec512 :=
  (match c.matrix.run with
    | some m => [m.cmd.bits]
    | none => []) ++ c.matrix.queue.map MRec.bits
def queuedOf (c : Core) (slot : Nat) : Nat := ((queued c).filter fun r => Rec.slot r == slot).length

/-! ## The instructions that queue records (R149, R383 to R391, R420) -/

/-- Touch registers: cause 8 for a tile without the type, then cause 9 in order, then the claims. -/
def touchRecord (s : State) (tiles : List (TReg × ETy)) (accs : List AReg) : Eff Unit :=
  match tiles.find? fun t => !cfgOn (s.core.cfg t.1) || cfgTy (s.core.cfg t.1) != t.2 with
  | some t => .trap 8 (BitVec.ofNat 64 (tnum t.1)) 0
  | none =>
    let ks := (tiles.map fun t => tnum t.1) ++ accs.map anum
    match ks.find? fun k => !mayTouch s.core.town k s.me.slot with
    | some k => .trap 9 (ownVal s.core.town k) 0
    | none => .ok () (ks.foldl claimReg s)

/-- Queue the record of an instruction. -/
def queueRec (s : State) (r : Rec512) : Eff Unit :=
  (s.touchRecord (Rec.tiles r) (Rec.accs r)).bind fun _ s => s.pushRec ⟨r, false⟩

/-- X[d] to X[d + 3] as DATA holds them (R152). -/
def scaleData (s : State) (d : XReg) : V256 := s.x (d + 3) ++ s.x (d + 2) ++ s.x (d + 1) ++ s.x d

/-- An `mma` or `smma` record; d = 0 has no scales. -/
def mmaRec (s : State) (kind form : Nat) (n : AReg) (t u : TReg) (sc : XReg) (ka kb : KReg) : Rec512 :=
  Rec.make kind form n ka kb t u sc.toNat s.me.slot (sc != 0) s.strand.csr.fpc (if sc = 0 then 0 else s.scaleData sc)

end State

/-- R385. -/
def execMmaE4e4 (n : AReg) (t u : TReg) (sc : XReg) (s : State) : Out := finish s (s.queueRec (s.mmaRec 2 0 n t u sc 0 0))
/-- R385. -/
def execMmaE4e5 (n : AReg) (t u : TReg) (sc : XReg) (s : State) : Out := finish s (s.queueRec (s.mmaRec 2 1 n t u sc 0 0))
/-- R385. -/
def execMmaE5e4 (n : AReg) (t u : TReg) (sc : XReg) (s : State) : Out := finish s (s.queueRec (s.mmaRec 2 2 n t u sc 0 0))
/-- R385. -/
def execMmaE5e5 (n : AReg) (t u : TReg) (sc : XReg) (s : State) : Out := finish s (s.queueRec (s.mmaRec 2 3 n t u sc 0 0))
/-- R385. -/
def execMmaBfbf (n : AReg) (t u : TReg) (s : State) : Out := finish s (s.queueRec (s.mmaRec 2 4 n t u 0 0 0))
/-- R385. -/
def execMmaHfhf (n : AReg) (t u : TReg) (s : State) : Out := finish s (s.queueRec (s.mmaRec 2 5 n t u 0 0 0))
/-- R385. -/
def execMmaF32 (n : AReg) (t u : TReg) (s : State) : Out := finish s (s.queueRec (s.mmaRec 2 6 n t u 0 0 0))
/-- R385. -/
def execMmaI8i8 (n : AReg) (t u : TReg) (sc : XReg) (s : State) : Out := finish s (s.queueRec (s.mmaRec 2 7 n t u sc 0 0))
/-- R385. -/
def execMmaI8n8 (n : AReg) (t u : TReg) (sc : XReg) (s : State) : Out := finish s (s.queueRec (s.mmaRec 2 8 n t u sc 0 0))
/-- R385. -/
def execMmaMx8 (n : AReg) (t u : TReg) (sc : XReg) (s : State) : Out := finish s (s.queueRec (s.mmaRec 2 12 n t u sc 0 0))
/-- R385. -/
def execMmaMx6 (n : AReg) (t u : TReg) (sc : XReg) (s : State) : Out := finish s (s.queueRec (s.mmaRec 2 13 n t u sc 0 0))
/-- R385. -/
def execMmaMx4 (n : AReg) (t u : TReg) (sc : XReg) (s : State) : Out := finish s (s.queueRec (s.mmaRec 2 14 n t u sc 0 0))
/-- R385. -/
def execMmaMxi8 (n : AReg) (t u : TReg) (sc : XReg) (s : State) : Out := finish s (s.queueRec (s.mmaRec 2 15 n t u sc 0 0))
/-- R385. -/
def execMmaCbcb (n : AReg) (t u : TReg) (ka kb : KReg) (s : State) : Out := finish s (s.queueRec (s.mmaRec 2 9 n t u 0 ka kb))
/-- R385. -/
def execMmaCbe4 (n : AReg) (t u : TReg) (ka : KReg) (s : State) : Out := finish s (s.queueRec (s.mmaRec 2 10 n t u 0 ka 0))
/-- R385. -/
def execMmaCbbf (n : AReg) (t u : TReg) (ka : KReg) (s : State) : Out := finish s (s.queueRec (s.mmaRec 2 11 n t u 0 ka 0))
/-- R420. -/
def execSmmaE4e4 (n : AReg) (t u : TReg) (sc : XReg) (s : State) : Out := finish s (s.queueRec (s.mmaRec 3 0 n t u sc 0 0))
/-- R420. -/
def execSmmaBfbf (n : AReg) (t u : TReg) (s : State) : Out := finish s (s.queueRec (s.mmaRec 3 1 n t u 0 0 0))
/-- R420. -/
def execSmmaI8i8 (n : AReg) (t u : TReg) (sc : XReg) (s : State) : Out := finish s (s.queueRec (s.mmaRec 3 2 n t u sc 0 0))
/-- R420. -/
def execSmmaCbcb (n : AReg) (t u : TReg) (ka kb : KReg) (s : State) : Out := finish s (s.queueRec (s.mmaRec 3 3 n t u 0 ka kb))
/-- R391. -/
def execMzero (n : AReg) (s : State) : Out :=
  finish s (s.queueRec (Rec.make 1 0 n 0 0 0 0 0 s.me.slot false s.strand.csr.fpc 0))
/-- R157, R383. -/
def execMdrain (ty : ETy) (t : TReg) (n : AReg) (s : State) : Out :=
  finish s (s.queueRec (Rec.make 4 ty.code.toNat n 0 0 t 0 0 s.me.slot false s.strand.csr.fpc 0))
/-- R158, R383. -/
def execMdraint (ty : BitVec 2) (t : TReg) (n : AReg) (u : TReg) (d : XReg) (s : State) : Out :=
  finish s (s.queueRec (Rec.make 5 ty.toNat n 0 0 t u d.toNat s.me.slot false s.strand.csr.fpc 0))
/-- R159, R383: M only. -/
def execMdrainMx (t : TReg) (n : AReg) (d : XReg) (s : State) : Out :=
  if s.strand.mode = .M then
    finish s (s.queueRec (Rec.make 7 0 n 0 0 t 0 d.toNat s.me.slot false s.strand.csr.fpc 0))
  else trapOut s 1 s.latch.first
/-- R382: no owner, no touch. -/
def execMcb (k : KReg) (b : VReg) (s : State) : Out :=
  finish s (s.pushRec ⟨Rec.make 6 0 0 k 0 0 0 0 s.me.slot false s.strand.csr.fpc (s.v b), false⟩)
/-- R389. -/
def execMsync (s : State) : Out :=
  finish s (if State.queuedOf s.core s.me.slot = 0 then .ok () s else .hold s false 0)
/-- R154, R388. -/
def execMqs (a : XReg) (s : State) : Out :=
  if s.computePhase then trapOut s 13 s.pcf
  else
    let m := s.core.matrix
    let held := (List.range 4).any fun k => !(vgetN m.held k).isEmpty
    done (s.setX a (BitVec.ofNat 64 ((State.queued s.core).length + 32 * State.queuedOf s.core s.me.slot
      + 1024 * bit m.run.isSome + 2048 * bit held)))
/-- R387. -/
def execMpush (p : BitVec 4) (s : State) : Out :=
  finish s (s.pushRec ⟨Rec.withSlot (s.pairBits p) s.me.slot, true⟩)
/-- MATRIX_RECORD_START (R149). -/
def execMatrixRecordStart (core : Nat) (s : State) : Out := .next (s.matrixStart core)
/-- MATRIX_RECORD_COMPLETE (R150). -/
def execMatrixRecordComplete (core : Nat) (s : State) : Out := .next (s.matrixFinish core)

end Sys2Proof.Machine
end

