-- ==== Sys2Proof/Machine/Preempt.lean ====
section
/-! DEFINITION. Pre-emption requests and the quiesce of a strand's engine work (R70 to R74, R247, R350). -/

namespace Sys2Proof.Machine

namespace State

/-- The matrix engine gives up the records of a slot: the executing one completes, the queued ones go to the slot's
held image (R74), behind what an earlier quiesce left there (entry 84). -/
def quiesceMatrix (s : State) (w : Sid) : State :=
  let s :=
    match (s.coreAt w.core).matrix.run with
    | some m => if Rec.slot m.cmd.bits = w.slot then s.matrixFinish w.core else s
    | none => s
  s.modCore w.core fun c =>
    let mine := (c.matrix.queue.filter fun m => Rec.slot m.bits == w.slot).map MRec.bits
    { c with matrix := { c.matrix with
        queue := c.matrix.queue.filter fun m => Rec.slot m.bits != w.slot
        held := vsetN c.matrix.held w.slot (vgetN c.matrix.held w.slot ++ mine) } }

/-- A set that is owned and not running is copied to the shadow set and released (R350). -/
def dropSet (s : State) (w : Sid) : State :=
  s.modCore w.core fun c =>
    if c.ce.owner = w.slot ∧ c.ce.stat = 1 then { c with ce := { c.ce with shadow := c.ce.active, stat := 0 } } else c

/-- What the quiesce is about to take of a slot from the copy engine. -/
def notePre (s : State) (w : Sid) : State :=
  s.modCore w.core fun c =>
    if c.ce.owner = w.slot ∧ (c.ce.stat = 1 ∨ c.ce.stat = 2) then { c with ce := { c.ce with pre := vsetN c.ce.pre w.slot c.ce.stat } } else c

/-- The quiesce that runs before a pre-emption's trap (R74). -/
def quiesce (s : State) (w : Sid) : State := (((s.quiesceMatrix w).notePre w).stopCopy w).dropSet w

/-- Cause 1 becomes due with a value, the engine work quiesced first; once for a request (R70, R72). -/
def preemptNow (s : State) (w : Sid) (val : Word) : State :=
  if (s.strandAt w).causes.any fun c => c.1 == 1 then s else (s.quiesce w).raiseAsync w 1 val

/-- SVAL of a pre-emption taken at no safe point (R72). -/
def noSafePoint : Word := BitVec.allOnes 64

/-- The strand's launch is in step mode. -/
def inStep (s : State) (w : Sid) : Bool := (s.launchOf w).any (·.lrec.step)

/-- A request reaches a strand: a pending one takes in a later one, and an urgent mark stays (R64, R72). In U it is taken at
once with a region open, suspended or waiting to open (R247), and by a halted strand outside step mode (R73, R369). -/
def requestPreempt (s : State) (w : Sid) (urgent : Bool) : State :=
  let t := s.strandAt w
  if !t.live then s
  else
    let s := s.modStrand w fun t => { t with preq :=
      match t.preq with
      | some p => some { p with urgent := p.urgent || urgent }
      | none => some ⟨urgent, 0, false⟩ }
    if t.mode == .U && (t.inRegion || t.region.opened || (t.sync.halted && !s.inStep w)) then s.preemptNow w noSafePoint else s

/-- A request reaches every resident strand of a co-resident launch, which leaves as a whole (R39); else the strand
alone. -/
def requestAll (s : State) (w : Sid) (urgent : Bool) : State :=
  match s.launchOf w with
  | some l =>
    if l.lrec.cores && (s.strandAt w).live then
      (s.residents.filter fun q => q.2.ident.lnum == l.num).foldl (fun s q => s.requestPreempt (Sid.ofKey q.1) urgent) s
    else s.requestPreempt w urgent
  | none => s.requestPreempt w urgent

/-- A pending request is due 65,536 cycles after its arrival: in U, and in every mode when it is urgent (R72); never for a
strand of a step-mode launch (R73). -/
def preemptDue (s : State) (w : Sid) : Bool :=
  let t := s.strandAt w
  t.live && (t.preq.any fun p => 65536 ≤ p.age && (t.mode == .U || p.urgent))
    && !s.inStep w && !t.causes.any fun c => c.1 == 1

/-- Some member of the troupe that the executing strand leads has a request pending (R48). -/
def troupeAsked (s : State) : Bool := (s.troupeOf s.me.key).any fun k => (s.strandAt (Sid.ofKey k)).preq.isSome

/-- The executing strand leads a troupe. -/
def leads (s : State) : Bool := s.strand.troupe.size != 0 && s.strand.troupe.lead == s.me.key

end State

/-- PREEMPTION_REQUEST: a request from the launch engine reaches a resident strand (R72), and with it its co-resident launch
(R39). -/
def execPreemptionRequest (who : Sid) (urgent : Bool) (s : State) : Out := .next (s.requestAll who urgent)

/-- PREEMPTION_DEADLINE: 65,536 cycles after the request cause 1 falls due at the next boundary (R72). -/
def execPreemptionDeadline (who : Sid) (s : State) : Out :=
  .next (if s.preemptDue who then s.preemptNow who State.noSafePoint else s)

end Sys2Proof.Machine
end

