-- ==== Sys2Proof/Machine/System.lean ====
section
/-! DEFINITION. The system instructions: fences (R365 to R367), issue and waiting (R292, R369, R370), safe points (R70,
R407) and the return from a trap (R406). -/

namespace Sys2Proof.Machine

namespace State

/-- Inside an open region the instruction traps with cause 11 (R235). -/
def outside (s : State) (reason : Nat) : Eff Unit := guardTrap s.strand.inRegion 11 (BitVec.ofNat 64 reason) s
/-- In a step-mode compute phase the instruction traps with cause 13, SVAL the PCF (R261). -/
def notStep (s : State) : Eff Unit := guardTrap s.computePhase 13 s.pcf s

/-- A device whose runtime has ended a piece or yielded gets the commands held for it (R307). -/
def runtimeUp (s : State) (w : Sid) : State :=
  let t := s.strandAt w
  s.modVdev t.ident.vdev fun d => if d.runtime = t.ident.lnum then { d with waking := false } else d

end State

/-- R366. -/
def execFence (scope : BitVec 3) (s : State) : Out :=
  finish s ((s.outside 4).bind fun _ s => s.fenceAt scope.toNat)

/-- R367: what the strand holds in the combining buffer is performed too, and of what it has fetched ahead nothing is left, in the
repetition buffer neither. -/
def execFenceI (s : State) : Out :=
  finish s ((s.outside 4).bind fun _ s =>
    (((s.drainW s.me.core fun l => l.by_ == s.rankAt s.me).writeBackAll s.me.core).releaseAction 3).bind fun _ s =>
      .ok () ((s.dropBuffer s.me).withCore fun c => { c with icache := [] }))

/-- R292; a runtime's `yield` lets held commands go (R307). -/
def execYield (s : State) : Out :=
  done ((s.runtimeUp s.me).withCore fun c => { c with order := (c.order.erase s.me.slot) ++ [s.me.slot], recent := none, run := 0 })

/-- R369: the strand issues nothing more; in U a pending request is taken at once. -/
def execHalt (s : State) : Out :=
  match s.outside 4 with
  | .ok _ s =>
    let t := (s.retire).modSync fun y => { y with halted := true }
    .next (if t.strand.mode == .U && t.strand.preq.isSome && !t.stepMode then t.preemptNow t.me State.noSafePoint else t)
  | e => finish s e

/-- R370: a pending request counts as a pending cause. The mark in `reply` lets the `idle` retire before the trap (entry
35). -/
def execIdle (s : State) : Out :=
  finish s ((s.outside 4).bind fun _ s =>
    if s.strand.causes.isEmpty && s.strand.sPend.isEmpty && s.strand.preq.isNone then .hold (s.modSync fun y => { y with reply := some 0 }) false 0
    else .ok () s)

/-- R70, R407, and in a troupe R48. -/
def execSafe (n : BitVec 16) (s : State) : Out :=
  let t := s.retire
  if s.strand.mode != .U || s.stepMode || s.strand.inRegion then .next t
  else
    let t := if t.leads && t.troupeAsked then t.dissolve t.me.key t.pcf false else t
    .next (if t.strand.preq.isSome then t.preemptNow t.me (n.zeroExtend 64) else t)

/-- R61, R406. The repetition buffer is filled again from START when the strand goes on in the body (R404; entry 42). With a region
open a pre-emption request that came meanwhile is taken at once (R247). -/
def execRti (s : State) : Out :=
  if s.strand.mode = .U then trapOut s 1 s.latch.first
  else
    match s.returnTrap with
    | some t =>
      let t := t.dropBuffer t.me
      .next (if t.strand.mode == .U && t.strand.region.opened && t.strand.preq.isSome then t.preemptNow t.me State.noSafePoint else t)
    | none => .fault .reservedMode

end Sys2Proof.Machine
end

