-- ==== Sys2Proof/Machine/Atomic.lean ====
section
/-! DEFINITION. The atomics (R332 to R335). -/

namespace Sys2Proof.Machine

/-- FPC as `amofadd` has it: to nearest even, subnormals kept, no saturation, canonical NaN (R333). -/
def amoEnv : FpEnv := ⟨.rne, false, false, false⟩

/-- New of R333 for the integer functions, on numbers of `w` bits. -/
def amoInt (f : Nat → Nat → Nat) : Nat → Nat → Nat → Nat × Word := fun w old x => (f old x % 2 ^ w, 0)

/-- The smaller or the larger of two numbers, read as signed or unsigned. -/
def amoPick (signed larger : Bool) : Nat → Nat → Nat → Nat × Word := fun w old x =>
  let less := laneInt signed w old < laneInt signed w x
  (if less = larger then x else old, 0)

def amoFadd : Nat → Nat → Nat → Nat × Word := fun w old x =>
  let f := if w = 64 then Fmt.f64 else Fmt.f32
  f.add amoEnv (f.read amoEnv old) (f.read amoEnv x)

namespace State

/-- The address is of own LM, of a field window that can be reached, or global (R175, R333). -/
def mapped (s : State) (va : Word) : Bool :=
  isOwnLm va || (isFieldLm va && s.reachable (windowCore s va)) || isGlobal va

/-- The checks of the atomics and of `wait` that stand before the address is translated, in the order of R65; `ok` is the
condition of cause 7. -/
def wordChecks (s : State) (va : Word) (n : Nat) (ok : Bool) : Eff Unit :=
  (s.outside 4).bind fun _ s =>
    if va.toNat % n ≠ 0 then .trap 2 va 0 else if !ok then .trap 7 va 0 else s.notStep

/-- An atomic (R333): `new` gives New and its flags from the width, the old value and X[D]; `when` says whether it is
stored. -/
def amo (s : State) (w32 : Bool) (a b d : XReg) (imm : BitVec 20) (mm : MemMod) (new : Nat → Nat → Nat → Nat × Word)
    (stores : Nat → Nat → Bool) : Eff Unit :=
  let va := s.ea b imm
  let n := if w32 then 4 else 8
  let x := (s.x d).toNat % 2 ^ (8 * n)
  let cmp := (s.x a).toNat % 2 ^ (8 * n)
  (s.wordChecks va n (s.mapped va)).bind fun _ s =>
    (s.atomicAt va n mm fun old =>
      if stores (natOfBytes old) cmp then some (bytesOfNat n (new (8 * n) (natOfBytes old) x).1) else none).bind fun old s =>
        .ok () ((s.raise (new (8 * n) (natOfBytes old) x).2).setX a (sextBytes old))

end State

/-- R333. -/
def execAmoadd (w32 : Bool) (a b d : XReg) (imm : BitVec 20) (mm : MemMod) (s : State) : Out :=
  finish s (s.amo w32 a b d imm mm (amoInt (· + ·)) fun _ _ => true)
/-- R333. -/
def execAmoswap (w32 : Bool) (a b d : XReg) (imm : BitVec 20) (mm : MemMod) (s : State) : Out :=
  finish s (s.amo w32 a b d imm mm (amoInt fun _ x => x) fun _ _ => true)
/-- R333: stores when the old value equals X[A]. -/
def execAmocas (w32 : Bool) (a b d : XReg) (imm : BitVec 20) (mm : MemMod) (s : State) : Out :=
  finish s (s.amo w32 a b d imm mm (amoInt fun _ x => x) fun old cmp => old == cmp)
/-- R333. -/
def execAmoand (w32 : Bool) (a b d : XReg) (imm : BitVec 20) (mm : MemMod) (s : State) : Out :=
  finish s (s.amo w32 a b d imm mm (amoInt (· &&& ·)) fun _ _ => true)
/-- R333. -/
def execAmoor (w32 : Bool) (a b d : XReg) (imm : BitVec 20) (mm : MemMod) (s : State) : Out :=
  finish s (s.amo w32 a b d imm mm (amoInt (· ||| ·)) fun _ _ => true)
/-- R333. -/
def execAmoxor (w32 : Bool) (a b d : XReg) (imm : BitVec 20) (mm : MemMod) (s : State) : Out :=
  finish s (s.amo w32 a b d imm mm (amoInt (· ^^^ ·)) fun _ _ => true)
/-- R333. -/
def execAmomin (w32 : Bool) (a b d : XReg) (imm : BitVec 20) (mm : MemMod) (s : State) : Out :=
  finish s (s.amo w32 a b d imm mm (amoPick true false) fun _ _ => true)
/-- R333. -/
def execAmomax (w32 : Bool) (a b d : XReg) (imm : BitVec 20) (mm : MemMod) (s : State) : Out :=
  finish s (s.amo w32 a b d imm mm (amoPick true true) fun _ _ => true)
/-- R333. -/
def execAmominu (w32 : Bool) (a b d : XReg) (imm : BitVec 20) (mm : MemMod) (s : State) : Out :=
  finish s (s.amo w32 a b d imm mm (amoPick false false) fun _ _ => true)
/-- R333. -/
def execAmomaxu (w32 : Bool) (a b d : XReg) (imm : BitVec 20) (mm : MemMod) (s : State) : Out :=
  finish s (s.amo w32 a b d imm mm (amoPick false true) fun _ _ => true)
/-- R333: rounds to nearest even whatever FPC holds, and takes no cause 16. -/
def execAmofadd (w32 : Bool) (a b d : XReg) (imm : BitVec 20) (mm : MemMod) (s : State) : Out :=
  finish s (s.amo w32 a b d imm mm amoFadd fun _ _ => true)

end Sys2Proof.Machine
end

