-- ==== Sys2Proof/Machine/Slice.lean ====
section
/-! DEFINITION. Slice queues at their home slices (R221, R222) and the queue registers bound to them (R219, R220). -/

namespace Sys2Proof.Machine

/-- What a descriptor says: the binary logarithm of the capacity, HEAD and TAIL (R221). -/
structure SqDesc where
  lcap : Nat
  head : Nat
  tail : Nat
  deriving DecidableEq, Repr

def SqDesc.count (d : SqDesc) : Nat := (d.tail + 2 ^ 64 - d.head) % 2 ^ 64

/-- The descriptor at a physical address, with `room` bytes from it to the end of its page; `none` when it is
malformed. -/
def sqDesc (mem : Memory) (pa room : Nat) : Option SqDesc :=
  let w := mem.nat pa 8
  let d : SqDesc := ⟨w % 32, mem.nat (pa + 16) 8, mem.nat (pa + 24) 8⟩
  if w < 32 ∧ 1 ≤ d.lcap ∧ d.lcap ≤ 30 ∧ mem.nat (pa + 8) 8 = 0 ∧ d.count ≤ 2 ^ d.lcap ∧ 32 + 8 * 2 ^ d.lcap ≤ room then
    some d
  else none

/-- The place of the ring entry that a counter names. -/
def ringAt (pa : Nat) (d : SqDesc) (n : Nat) : Nat := pa + 32 + 8 * (n % 2 ^ d.lcap)

/-- The line of a physical address, as a tagged place. -/
def lineOf (pa : Nat) : Target := .line (pa / 32 * 32)

/-- What the core finds of a binding's descriptor: malformed; not to be judged yet; at another module's place; or its
physical address, the bytes from it to the end of its page, and what it says. -/
inductive Bound where
  | bad
  | later (s : State)
  | peer  (l : Loc) (s : State)
  | at_   (pa room : Nat) (d : SqDesc) (s : State)

namespace State

/-- `k` entries leave the queue in order. -/
def sqTake (s : State) (pa k : Nat) (d : SqDesc) (tag : Option Tag) : List Word × State :=
  let vals := (List.range k).map fun i => BitVec.ofNat 64 (s.mem.nat (ringAt pa d (d.head + i)) 8)
  (vals, s.sliceWrite (cellsAt (pa + 16) (bytesOfNat 8 (d.head + k))) tag)

/-- Entries arrive at a queue register, as many as it has room for; the others stay on their way (R218, R220; entry 71). -/
def refillQ (s : State) (core q : Nat) (vals : List Word) : State :=
  let room := 4 - (vgetN (s.coreAt core).q q).length
  let s := s.modCore core fun c =>
    { c with q := vsetN c.q q (vgetN c.q q ++ vals.take room), qBusy := vsetN c.qBusy q (decide (room < vals.length)) }
  if room < vals.length then { s with flights := s.flights ++ [⟨⟨core, 0⟩, .refill q (vals.drop room), false⟩] } else s

/-- The tags of a queue's lines let a strand acquire or release there; else a scope miss is sent and nothing happens yet
(R195). -/
def tagsAllow (s : State) (w : Sid) (pas : List Nat) (acquire : Bool) : Bool × State :=
  pas.foldl (fun (r : Bool × State) pa =>
    match r.2.tagAt (lineOf pa) with
    | none => r
    | some t =>
      let need := if acquire then r.2.needOf t w
        else if t.module = r.2.mp.module ∧ t.who = w ∧ t.lnum = (r.2.strandAt w).ident.lnum then 0 else 5
      if need ≤ t.scope.toNat then r
      else
        let s := r.2.sendMiss { place := lineOf pa, who := w, tag := t, need := BitVec.ofNat 3 need, age := 0 }
        (r.1 && (s.tagAt (lineOf pa)).all (fun u => decide (need ≤ u.scope.toNat)), s)) (true, s)

/-- Another strand's held release or atomic blocks a line of the queue that the strand would write (R195). -/
def sqHeldUp (s : State) (w : Sid) (pas : List Nat) : Bool :=
  pas.any fun pa => s.blocked.any fun q => q.1 == lineOf pa && q.2.1 != w

/-- A line's release tag is of a strand on a core that was retired since, and an acquire by the strand needs it wider: that is
answered as an uncorrectable error (R196). -/
def tagLost (s : State) (w : Sid) (pa : Nat) : Bool :=
  (s.tagAt (lineOf pa)).any fun t =>
    t.module == s.mp.module && s.retired.contains (clusterOf t.who.core) && decide (t.scope.toNat < s.needOf t w)

/-- The places of the next `k` entries of a queue. -/
def sqNext (pa k : Nat) (d : SqDesc) : List Nat := (List.range k).map fun i => ringAt pa d (d.head + i)

/-- The slice serves the parked dequeues and refills of a descriptor in their order while it holds entries (R222). One whose
line is held up, or which finds an error, stays; a refill that finds one ends there, and its strand is told (R67, R195, R196).
One that releases is held there, and the line with it, until an older release that stands there is wide enough (R195). -/
def serveParked (s : State) (pa : Nat) : List Parked → State
  | [] => s
  | p :: rest =>
    if p.desc ≠ pa then serveParked s pa rest
    else
      match sqDesc s.mem pa p.room with
      | none => s
      | some d =>
        let k := if p.q.isNone then 1 else min 4 d.count
        let bad := (pa :: sqNext pa k d).find? fun a => s.lineBad (a / 32) || (p.q.isSome && s.tagLost p.who a)
        if d.count = 0 || s.sqHeldUp p.who [pa] then s
        else
          match p.q, bad with
          | none, some _ => s
          | none, none =>
            let (ok, s) := if p.tag.isSome then s.tagsAllow p.who [pa] false else (true, s)
            if !ok then { s with blocked := (lineOf pa, p.who, false) :: s.blocked.erase (lineOf pa, p.who, false) }
            else
            let (vs, s) := { s with parked := s.parked.erase p, blocked := s.blocked.erase (lineOf pa, p.who, false) }.sqTake pa 1 d p.tag
            serveParked (s.modStrand p.who fun t => t.modSync fun y =>
              { y with sqHeld := y.sqHeld ++ vs.map fun v => (⟨pa, p.room, ringAt pa d d.head, v⟩ : SqEntry) }) pa rest
          | some q, some a =>
            ({ s with parked := s.parked.erase p }.modCore p.who.core fun c => { c with qBusy := vsetN c.qBusy q false }).lateError
              p.who.core p.by_ (a / 32)
          | some q, none =>
            -- the acquire of the refill; a reply that waits for a widening leaves the refill parked
            let (ok, s) := s.tagsAllow p.who (pa :: sqNext pa k d) true
            if !ok then s
            else
              let (vs, s) := { s with parked := s.parked.erase p }.sqTake pa k d none
              let s := (s.invalidateAll p.who.core).readAgain p.who.core fun _ => true
              serveParked (if s.turn.post then { s with flights := s.flights ++ [⟨p.who, .refill q vs, false⟩] }
                else s.refillQ p.who.core q vs) pa rest

/-- One entry enters the queue: the ring entry and TAIL in one write, then whoever waits for it is served. -/
def sqPut (s : State) (pa : Nat) (d : SqDesc) (v : Word) (tag : Option Tag) : State :=
  let s := s.sliceWrite (cellsAt (ringAt pa d d.tail) (bytesOfNat 8 v.toNat) ++ cellsAt (pa + 24) (bytesOfNat 8 (d.tail + 1))) tag
  s.serveParked pa s.parked

/-- A line that a core holds leaves its combining buffer and its L1, and what the strand has in flight there is performed: the
queue acts at the slice (R421, R485). Whether something still waits. -/
def sqLine (w : Sid) (r : Bool × State) (a : Nat) : Bool × State :=
  let (waits, s) := ((r.2.drainW w.core fun e => e.line == a / 32).dropLine w.core (a / 32)).settleLine w (a / 32)
  (r.1 || waits, s.received w.core (a / 32))

/-- The descriptor as the strand finds it at the slice, its own earlier bytes there performed, and those of the ring's next
entries and of its tail (R188, R222); with whether something still waits. -/
def sqLook (s : State) (w : Sid) (pa room : Nat) : Bool × Option SqDesc × State :=
  let r := sqLine w (false, s) pa
  match sqDesc r.2.mem pa room with
  | none => (r.1, none, r.2)
  | some d =>
    let r := (ringAt pa d d.tail :: sqNext pa 4 d).foldl (sqLine w) r
    (r.1, some d, r.2)

/-! ## Bindings (R219, R220) -/

def bindEn (w : Word) : Bool := w.getLsbD 0
def bindDir (w : Word) : Bool := w.getLsbD 1
def bindDesc (w : Word) : Nat := field w 5 43 * 32

/-- The binding in force for a queue register: the lowest slot of the core that enables one. -/
def binding (s : State) (core q : Nat) : Option (Sid × Word) :=
  ((List.range 4).map fun k => (⟨core, k⟩ : Sid)).findSome? fun w =>
    let t := s.strandAt w
    let b := vgetN t.csr.qbind q
    if t.live && bindEn b then some (w, b) else none

/-- The descriptor of a binding. It is malformed when it is not a well-formed descriptor at a global address that the binding
strand may write (entry 36). -/
def boundDesc (s : State) (w : Sid) (b : Word) : Bound :=
  let va := BitVec.ofNat 64 (bindDesc b)
  match (if isGlobal va then s.vdevOf w else none) with
  | none => .bad
  | some d =>
    match translate s w.core d (s.strandAt w).mode .store true va with
    | .error _ => .bad
    | .ok (l, s) =>
      match (s.leafFor w.core d va.toNat).1 with
      | .leaf lv _ =>
        let room := 2 ^ levelShift lv - va.toNat % 2 ^ levelShift lv
        if !s.isOwn l then .peer l s
        else
          match s.sqLook w l.pa room with
          | (true, _, s) => .later s
          | (false, some e, s) => .at_ l.pa room e s
          | (false, none, _) => .bad
      | _ => .bad

/-- Cause 4 of a malformed descriptor, and EN cleared (R220). -/
def badBinding (s : State) (w : Sid) (q : Nat) (b : Word) : State :=
  let s := s.modStrand w fun t => t.modCsr fun c => { c with qbind := vsetN c.qbind q (b &&& ~~~1) }
  s.raiseAsync w 4 (BitVec.ofNat 64 (2 + 16 * q + 256 * (bindDesc b % 2 ^ 48)))

/-- A refill from another module's queue: what the peer answers, at most 4 entries, or none yet; the acquire at module scope
(R17, R199, R220; entry 62). -/
def peerRefill (s : State) (w : Sid) (q : Nat) (l : Loc) : State :=
  if s.lineBad (l.pa / 32) then s.lateError w.core (s.rankAt w) (l.pa / 32)
  else
    let n := (Config.peerData s.fresh l.pa).toNat % 5
    let vs := (List.range n).map fun i => Config.peerData (s.fresh + 1 + i) l.pa
    let s := { s with fresh := s.fresh + 5 }
    if n = 0 then s else ((s.invalidateAll w.core).readAgain w.core fun _ => true).refillQ w.core q vs

/-- The core sends a refill of an empty bound register: one `sqdeq` with acquire at module scope, parked while the queue
is empty (R220). A refill that is parked is looked at again, whatever the binding says by then. -/
def startRefill (s : State) (core q : Nat) : State :=
  match s.parked.find? fun p => p.who.core == core && p.q == some q with
  | some p => s.serveParked p.desc s.parked
  | none =>
    match s.binding core q with
    | none => s
    | some (w, b) =>
      let c := s.coreAt core
      if bindDir b || !(vgetN c.q q).isEmpty || vgetN c.qBusy q then s
      else
        match s.boundDesc w b with
        | .bad => s.badBinding w q b
        | .later s => s
        | .peer l s => s.peerRefill w q l
        | .at_ pa room _ s =>
          let s := s.modCore core fun c => { c with qBusy := vsetN c.qBusy q true }
          let s := { s with parked := s.parked ++ [(⟨pa, w, some q, none, room, s.rankAt w⟩ : Parked)] }
          s.serveParked pa s.parked

/-- The core enqueues the oldest entry of a draining register: one `sqenq` with release at module scope, once the stores of
the binding strand are acknowledged; a full queue leaves it where it is (R190, R220). An error is told to the strand (R67). -/
def startDrain (s : State) (core q : Nat) : State :=
  match s.binding core q with
  | none => s
  | some (w, b) =>
    match vgetN (s.coreAt core).q q with
    | [] => s
    | v :: rest =>
      if !bindDir b then s
      else
        let lnum := (s.strandAt w).ident.lnum
        let gone (s : State) : State := s.modCore core fun c => { c with q := vsetN c.q q rest }
        match s.boundDesc w b with
        | .bad => s.badBinding w q b
        | .later s => s
        | .peer l s =>
          let s := s.writeBackAll core
          if s.unacked w then s
          else if s.lineBad (l.pa / 32) then s.lateError core (s.rankAt w) (l.pa / 32)
          else
            let taken := (Config.peerData s.fresh l.pa).getLsbD 0
            let s := { s with fresh := s.fresh + 1 }
            if taken then gone s else s
        | .at_ pa _ d s =>
          let lines := [pa, ringAt pa d d.tail]
          if d.count = 2 ^ d.lcap || s.sqHeldUp w lines then s
          else
            let s := s.writeBackAll core
            if s.unacked w then s
            else
              match lines.find? fun a => s.lineBad (a / 32) with
              | some a => s.lateError core (s.rankAt w) (a / 32)
              | none =>
                let (ok, s) := s.tagsAllow w lines false
                if !ok then s else (gone s).sqPut pa d v (some ⟨s.mp.module, w, lnum, 5⟩)

/-- The bindings of a core's queue registers act by themselves: an empty register is refilled, an entry that is to drain goes. One
whose strand has still to take an error of such an access waits for that (R220; DESIGN CHOICE, entry 122). -/
def serveBindings (s : State) (core : Nat) : State :=
  (List.range 8).foldl (fun s q =>
    match s.binding core q with
    | none => s
    | some (w, _) => if (s.strandAt w).causes.any fun c => c.1 == 5 then s else (s.startRefill core q).startDrain core q) s

end State

end Sys2Proof.Machine
end

