-- ==== Sys2Proof/Machine/Queues.lean ====
section
/-! DEFINITION. Waiting on a word (R223, R224, R476, R477), slice queues (R222, R421) and queue registers (R218, R400). -/

namespace Sys2Proof.Machine

namespace State

/-! ## wait -/

/-- The scope of the acquire that a `wait` makes (R204). -/
def waitScope (mm : MemMod) : Nat := if MemMod.acquires mm then mm.scope.toNat else 1

/-- The strand's own earlier stores to the word are performed first; whether one still waits (R223). -/
def performOwn (s : State) (l : Loc) : Bool × State :=
  let (waits, s) := ((s.drainW s.me.core fun w => w.line == l.pa / 32).dropLine s.me.core (l.pa / 32)).settleLine s.me (l.pa / 32)
  (waits, s.received s.me.core (l.pa / 32))

/-- Watch a word: complete with the acquire once a value has satisfied the condition, by the tag that then stood there (R477),
else stay in the table. -/
def watchWord (s : State) (p : Target) (word : Nat) (cond : BitVec 3) (x va : Word) (mm : MemMod) : Eff Unit :=
  let was := s.strand.sync.watch.filter fun w => w.place == p && w.word == word && w.sat
  let now := waitCond cond (s.watchedWord p word) x
  let s := s.modSync fun y => { y with watch := some (was.getD ⟨p, word, cond, x, now, s.tagAt p⟩) }
  if was.isSome || now then
    (s.acquireBy (fun u => u.strand.sync.watch.bind Watch.tag) p (waitScope mm) false).bind fun sc s => s.acquireAction sc
  else .hold s true va

/-- `wait` (R223, R224). -/
def waitOn (s : State) (a b : XReg) (cond : BitVec 3) (imm : BitVec 20) (mm : MemMod) : Eff Unit :=
  let va := s.ea b imm
  (s.wordChecks va 8 (isOwnLm va || isGlobal va)).bind fun _ s =>
    (place s .load false va 8).bind fun p s =>
      match p with
      | .lm c off =>
        if s.blockedBy (.lm c off) false then .hold s true va else s.watchWord (.lm c off) off cond (s.x a) va mm
      | .glob l =>
        if !s.isOwn l then .trap 7 va 0
        else if s.lineBad (l.pa / 32) then .trap 19 (lineVal l) 0
        else
          let (waits, s) := s.performOwn l
          let mm := effective l mm
          if waits || s.unacked s.me || s.blockedBy (lineOf l.pa) false then .hold s true va
          else if l.ty = 3 then
            s.atOnce.sysFence.bind fun _ s1 =>
              (s1.watchWord (lineOf l.pa) l.pa cond (s.x a) va mm).bind fun _ s2 =>
                s2.sysFence.bind fun _ s3 => .ok () { s3 with turn := s.turn }
          else s.watchWord (lineOf l.pa) l.pa cond (s.x a) va mm

/-! ## Slice queues -/

/-- SVAL of cause 14 (R203). -/
def errVal (reason : Nat) (operand : Word) : Word := BitVec.ofNat 64 (reason + 256 * (operand.toNat % 2 ^ 56))

/-- The checks of `sqenq` and `sqdeq` and the place of the descriptor, with the bytes from it to the end of its page. -/
def sqPlace (s : State) (va : Word) : Eff (Loc × Nat) :=
  (s.wordChecks va 32 (isGlobal va)).bind fun _ s =>
    (place s .store true va 8).bind fun p s =>
      match p, s.vdevOf s.me with
      | .glob l, some d =>
        if s.lineBad (l.pa / 32) then .trap 19 (lineVal l) 0
        else
          match (s.leafFor s.me.core d va.toNat).1 with
          | .leaf lv _ => .ok (l, 2 ^ levelShift lv - va.toNat % 2 ^ levelShift lv) s
          | _ => .trap 5 va 0
      | _, _ => .trap 7 va 0

/-- Before an operation at the slice: the acknowledgements that an order waits for, the release action (R190, R421). -/
def sqBefore (s : State) (mm : MemMod) : Eff Unit :=
  if mm.order != .plain && s.unacked s.me then .hold s false 0
  else s.releaseFirst mm

/-- An acquire of a descriptor and a ring entry (R191, R192). -/
def sqAcquire (s : State) (mm : MemMod) (pa at_ : Nat) : Eff Unit :=
  if !MemMod.acquires mm then .ok () s
  else
    (s.acquireScope (lineOf pa) mm.scope.toNat false).bind fun sc s =>
      (s.acquireScope (lineOf at_) sc false).bind fun sc s => s.acquireAction sc

/-- `sqenq`, on a well-formed descriptor: whatever it waits for comes first, then the entry enters, once (R202, R222). -/
def enqueue (s : State) (l : Loc) (room : Nat) (v va : Word) (mm : MemMod) : Eff Unit :=
  match s.sqLook s.me l.pa room with
  | (true, _, s) => .hold s false 0
  | (false, none, _) => .trap 14 (errVal 7 va) 0
  | (false, some d, s) =>
    let ring := ringAt l.pa d d.tail
    if d.count = 2 ^ d.lcap then .trap 14 (errVal 6 va) 0
    else if s.lineBad (ring / 32) then .trap 19 (s.lineShown s.me (ring / 32)) 0
    else if s.sqHeldUp s.me [l.pa, ring] then .hold s false 0
    else
      (s.sqBefore mm).bind fun _ s =>
        (if MemMod.acquires mm then s.acquireScope (lineOf l.pa) mm.scope.toNat true else .ok 0 s).bind fun sc s =>
          (if MemMod.releases mm then
              (s.releaseOver (lineOf l.pa) true).bind fun _ s => s.releaseOver (lineOf ring) true
            else .ok () s).bind fun _ s =>
            (if MemMod.acquires mm then s.acquireAction sc else .ok () s).bind fun _ s =>
              .ok () (s.unblock.sqPut l.pa d v (if MemMod.releases mm then some (s.myTag mm.scope.toNat) else none))

/-- The entry that a slice has taken for the strand at a descriptor, with its place in the ring. -/
def heldEntry (s : State) (pa : Nat) : Option SqEntry := s.strand.sync.sqHeld.find? fun e => e.desc == pa

/-- The strand takes its entry once the acquire is done. -/
def takeEntry (s : State) (a : XReg) (v : SqEntry) (mm : MemMod) : Eff Unit :=
  (s.sqAcquire mm v.desc v.ring).bind fun _ s =>
    .ok () ((s.modSync fun y => { y with sqHeld := y.sqHeld.erase v }).setX a v.val)

/-- What the slice has served, or the wait. -/
def dequeued (s : State) (a : XReg) (l : Loc) (va : Word) (mm : MemMod) : Eff Unit :=
  let s := s.serveParked l.pa s.parked
  match s.heldEntry l.pa with
  | some v => s.takeEntry a v mm
  | none => s.holdFor (.deq l.pa) va

/-- `sqdeq` on a descriptor: the held entry, else an entry in turn, else parked (R202, R222). -/
def dequeue (s : State) (a : XReg) (l : Loc) (room : Nat) (va : Word) (mm : MemMod) : Eff Unit :=
  match s.heldEntry l.pa with
  | some v => s.takeEntry a v mm
  | none =>
    match s.sqLook s.me l.pa room with
    | (true, _, s) => .hold s true va
    | (false, none, _) => .trap 14 (errVal 7 va) 0
    | (false, some d, s) =>
      let ring := ringAt l.pa d d.head
      if d.count != 0 && s.lineBad (ring / 32) then .trap 19 (s.lineShown s.me (ring / 32)) 0
      else if s.parked.any fun p => p.who == s.me && p.q.isNone then s.dequeued a l va mm
      else if s.sqHeldUp s.me [l.pa] then .hold s true va
      else
        (s.sqBefore mm).bind fun _ s =>
          (if MemMod.releases mm then s.releaseOver (lineOf l.pa) true else .ok () s).bind fun _ s =>
            let s := s.unblock
            let tag := if MemMod.releases mm then some (s.myTag mm.scope.toNat) else none
            { s with parked := s.parked ++ [(⟨l.pa, s.me, none, tag, room, s.rankAt s.me⟩ : Parked)] }.dequeued a l va mm

/-- A queue operation of either kind, with what the descriptor's page makes of its order (R186, R421); another module's queue
answers with a free value (R199). -/
def sqRun (s : State) (va : Word) (mm : MemMod) (own : Loc → Nat → MemMod → State → Eff Unit) (peer : Word → State → State) :
    Eff Unit :=
  (s.sqPlace va).bind fun (l, room) s =>
    let mm := effective l mm
    if s.provisional s.me then s.provStall
    else if !s.isOwn l then
      if mm.order != .plain && s.unacked s.me then .hold s false 0
      else (s.peerAccess l 8 mm).bind fun bs s => .ok () (peer (wordOfBytes bs) s)
    else s.fenced l fun s => (s.ordered l).bind fun _ s => own l room mm s

/-! ## Queue registers -/

/-- Entries of a queue register. -/
def qOf (s : State) (q : QReg) : List Word := vgetN s.core.q q.toNat
def setQ (s : State) (q : QReg) (l : List Word) : State := s.withCore fun c => { c with q := vsetN c.q q.toNat l }

/-- The strand may act on the queue: no strand that blocked there earlier with the same need waits (R218). -/
def qTurn (s : State) (q : QReg) (w : Bool) : Bool :=
  match (vgetN s.core.qWait q.toNat).find? fun p => p.2 == w with
  | some p => p.1 == s.me.slot
  | none => true

/-- The strand blocks on a queue. -/
def qBlock (s : State) (q : QReg) (w : Bool) : Eff Unit :=
  let put (l : List (Nat × Bool)) : List (Nat × Bool) := if l.contains (s.me.slot, w) then l else l ++ [(s.me.slot, w)]
  (s.withCore fun c => { c with qWait := vsetN c.qWait q.toNat (put (vgetN c.qWait q.toNat)) }).holdFor
    (if w then .qWrite q.toNat else .qRead q.toNat) (q.zeroExtend 64)

/-- The strand has been served. -/
def qServed (s : State) (q : QReg) (w : Bool) : State :=
  s.withCore fun c => { c with qWait := vsetN c.qWait q.toNat ((vgetN c.qWait q.toNat).erase (s.me.slot, w)) }

/-- Where queue and channel instructions may run (R235, R261). -/
def open_ (s : State) : Eff Unit := (s.outside 4).bind fun _ s => s.notStep

end State

/-- R223, R476. -/
def execWait (a b : XReg) (cond : BitVec 3) (imm : BitVec 20) (mm : MemMod) (s : State) : Out :=
  finish s (s.waitOn a b cond imm mm)
/-- R222, R421. -/
def execSqenq (a b : XReg) (imm : BitVec 20) (mm : MemMod) (s : State) : Out :=
  let va := s.ea b imm
  finish s (s.sqRun va mm (fun l room mm t => t.enqueue l room (s.x a) va mm) fun _ t => t)
/-- R222, R421. -/
def execSqdeq (a b : XReg) (imm : BitVec 20) (mm : MemMod) (s : State) : Out :=
  let va := s.ea b imm
  finish s (s.sqRun va mm (fun l room mm t => t.dequeue a l room va mm) fun v t => t.setX a v)
/-- R218, R400. -/
def execQw (a : XReg) (q : QReg) (s : State) : Out :=
  finish s ((s.open_).bind fun _ s =>
    if (s.qOf q).length < 4 && s.qTurn q true then .ok () ((s.setQ q (s.qOf q ++ [s.x a])).qServed q true)
    else s.qBlock q true)
/-- R218, R400. -/
def execQr (a : XReg) (q : QReg) (s : State) : Out :=
  finish s ((s.open_).bind fun _ s =>
    match s.qOf q, s.qTurn q false with
    | v :: rest, true => .ok () (((s.setQ q rest).qServed q false).setX a v)
    | _, _ => s.qBlock q false)
/-- R218, R400: with D = A an entry stands in X[A]. It takes an entry also while strands are blocked in `qr` there: it never waits,
and R218 orders the blocked strands alone (DESIGN CHOICE, entry 114). -/
def execQtr (a : XReg) (q : QReg) (d : XReg) (s : State) : Out :=
  finish s ((s.open_).bind fun _ s =>
    match s.qOf q with
    | v :: rest => .ok () (((s.setQ q rest).setX d 1).setX a v)
    | [] => .ok () (s.setX d 0))

/-- QBIND_WRITE: a QBIND register is written as `csrw` writes it, and a refill starts when it can (R219, R220). -/
def execQbindWrite (who : Sid) (q : QReg) (val : Word) (s : State) : Out :=
  .next ((s.modStrand who fun t => t.modCsr fun c =>
    { c with qbind := vsetN c.qbind q.toNat (val &&& 0xFFFF_FFFF_FFE3) }).startRefill who.core q.toNat)
/-- QUEUE_REFILL (R220). -/
def execQueueRefill (core : Nat) (q : QReg) (s : State) : Out := .next (s.startRefill core q.toNat)
/-- REFILL_ARRIVAL (R220): the entries of the core's refill on its way. -/
def execRefillArrival (core : Nat) (q : QReg) (s : State) : Out :=
  .next (match s.flights.find? fun f => f.src.core == core && (match f.msg with | .refill k _ => k == q.toNat | _ => false) with
    | some f =>
      match f.msg with
      | .refill k vs => { s with flights := s.flights.erase f }.refillQ core k vs
      | _ => s
    | none => s)
/-- QUEUE_DRAIN (R220). -/
def execQueueDrain (core : Nat) (q : QReg) (s : State) : Out := .next (s.startDrain core q.toNat)

namespace State

/-- The place of the next entry of a queue at the tail, and whether another strand's held write blocks it or the descriptor
(R195, R202). -/
def requeueHeld (s : State) (pa : Nat) (d : SqDesc) : Bool :=
  [pa, ringAt pa d d.tail].any fun a => s.blocked.any fun q => q.1 == lineOf a

/-- A held entry can go back now: its descriptor is malformed, or the queue has room and nothing is held there. -/
def requeueReady (s : State) (pa room : Nat) : Bool :=
  (sqDesc s.mem pa room).all fun d => d.count != 2 ^ d.lcap && !s.requeueHeld pa d

/-- An entry that an ended strand held goes to the tail of its queue; a malformed descriptor drops it, and the core's error log
gets the descriptor's physical address; an uncorrectable line drops it too, with a record of status 8 (R67, R202; entry 89). -/
def requeue (s : State) (core vdev pa room : Nat) (v : Word) : State :=
  match sqDesc s.mem pa room with
  | none => s.modCore core fun c => { c with log := c.log ++ [BitVec.ofNat 64 pa] }
  | some d =>
    match [pa, ringAt pa d d.tail].find? fun a => s.lineBad (a / 32) with
    | some a => (s.modCore core fun c => { c with log := c.log ++ [BitVec.ofNat 64 (a / 32 * 32)] }).postEvent vdev 8 0 (BitVec.ofNat 64 (a / 32 * 32))
    | none => s.sqPut pa d v none

end State

/-- HELD_ENTRY_REENQUEUE: once its queue has room (R202; entry 89). -/
def execHeldEntryReenqueue (n : Nat) (s : State) : Out :=
  .next (match s.flights[n]? with
    | some f =>
      match f.msg with
      | .requeue vdev pa room v =>
        if s.requeueReady pa room then { s with flights := s.flights.eraseIdx n }.requeue f.src.core vdev pa room v else s
      | _ => s
    | none => s)

end Sys2Proof.Machine
end

