-- ==== Sys2Proof/Machine/Barriers.lean ====
section
/-! DEFINITION. Named barriers (R206 to R209, R337, R338) and barrier wires (R210 to R212, R478). -/

namespace Sys2Proof.Machine

namespace State

/-! ## Named barriers -/

/-- The home core of a slot identifier, in the strand's field (R206). -/
def barHome (s : State) (id : Word) : Nat := fieldOf s.me.core * 256 + field id 8 8
def barSlot (id : Word) : Nat := field id 0 8
def barAt (s : State) (home slot : Nat) : Barrier := getK Barrier.reset slot (s.coreAt home).bars
def setBar (s : State) (home slot : Nat) (b : Barrier) : State := s.modCore home fun c => { c with bars := setK slot b c.bars }

/-- The checks of a slot identifier: cause 11, then 7, then 14 (R65, R338; entry 37). -/
def barChecks (s : State) (id : Word) : Eff Unit :=
  (s.outside 4).bind fun _ s =>
    if !s.reachable (s.barHome id) then .trap 7 id 0
    else if 2 ^ 16 ≤ id.toNat then .trap 14 (State.errVal 8 id) 0
    else .ok () s

/-- The identifier of a slot, as a token holds it. -/
def barId (home slot : Nat) : Word := BitVec.ofNat 64 (slot + 256 * inField home)

/-- The token of a phase of a slot of a home changes in every strand, in those saved with their launch too (R202); a barrier's
number stands for a slot of the field in which its token was taken (R205). -/
def modTokens (s : State) (home slot : Nat) (ph : Bool) (f : Token → Token) : State :=
  let mine (k : Token) : Bool := k.id == barId home slot && k.phase == ph && fieldOf k.core == fieldOf home
  let seen (t : Strand) : Strand :=
    t.modSync fun y => { y with token := y.token.map fun k => if mine k then f k else k }
  { s with
    strands := s.strands.map fun (q : Nat × Strand) => (q.1, seen q.2)
    saved := s.saved.map fun v => { v with strand := seen v.strand } }

/-- The home has released a phase: its tokens, and none taken later, wait for the release to reach them (R208). -/
def sentRelease (s : State) (home slot : Nat) (ph : Bool) : State :=
  s.modTokens home slot ph fun k => { k with sent := true }

/-- A release reaches a core: the tokens of that phase taken there (R208). -/
def releaseCore (s : State) (home slot : Nat) (ph : Bool) (core : Nat) : State :=
  s.modTokens home slot ph fun k => if k.core = core ∧ k.sent then { k with released := true } else k

/-- The home sends the release of a phase to a core: it arrives at once, or over the mesh behind what the home has sent there
(R177, R208). -/
def sendRelease (home slot : Nat) (ph : Bool) (s : State) (core : Nat) : State :=
  let f : Flight := ⟨⟨home, 0⟩, .barRel home slot ph core, false⟩
  if core = home then s.releaseCore home slot ph core
  else
    let (now, s) := s.meshReady f
    if now then s.releaseCore home slot ph core else { s with flights := s.flights ++ [f] }

/-- An arrival of a strand of a launch at the home (R208): the phase it joins, or `none` for reason 4. A strand that has ended
since it sent it takes no token. -/
def arrive (s : State) (w : Sid) (home slot lnum born : Nat) : Option State :=
  let b := s.barAt home slot
  if b.n = 0 ∨ b.lnum ≠ lnum then none
  else
    let s := if s.isBorn w born then
        s.modStrand w fun t => t.modSync fun y => { y with token := some ⟨barId home slot, b.ph, false, w.core, false⟩ }
      else s
    let cores := if b.cores.contains w.core then b.cores else b.cores ++ [w.core]
    if b.arr + 1 = b.n then
      let s := (s.setBar home slot { b with ph := !b.ph, arr := 0, n := b.nx, cores := [] }).sentRelease home slot b.ph
      some (cores.foldl (sendRelease home slot b.ph) s)
    else some (s.setBar home slot { b with arr := b.arr + 1, cores := cores })

/-- `bar.cfg` of a strand of a launch at the home (R207). -/
def configure (s : State) (home slot cnt lnum : Nat) : State :=
  let b := s.barAt home slot
  s.setBar home slot (if b.arr = 0 then { b with n := cnt, nx := cnt, lnum := lnum } else { b with nx := cnt })

/-- A message of the strand to a barrier's home is on its way or not yet acknowledged. -/
def barInFlight (s : State) : Bool :=
  s.flights.any fun f => f.src == s.me && (match f.msg with | .barArr .. => true | .barCfg .. => true | _ => false)

/-- A message of the strand goes to a barrier's home: whether it arrives in this turn (R177, R205). -/
def toHome (s : State) (home : Nat) (m : Msg) : Bool × State :=
  let f : Flight := ⟨s.me, m, false⟩
  if home = s.me.core then (true, s)
  else
    let (now, s) := s.meshReady f
    (now, if now then s else { s with flights := s.flights ++ [f] })

/-- The strand's arrival: an earlier token first, then the home, then the acknowledgement; `reply` holds what the home has
answered, 0 or reason 4. -/
def barArrive (s : State) (id : Word) : Eff Unit :=
  match s.strand.sync.reply with
  | some r => if r = 0 then .ok () (s.modSync fun y => { y with reply := none }) else .trap 14 (State.errVal 4 id) 0
  | none =>
    if s.barInFlight then .hold s false 0
    else if s.strand.sync.token.any fun t => !t.released then s.holdFor .token id
    else
      let home := s.barHome id
      let i := s.strand.ident
      match s.toHome home (.barArr home (barSlot id) i.lnum i.born) with
      | (false, s) => .hold s false 0
      | (true, s) =>
        match s.arrive s.me home (barSlot id) i.lnum i.born with
        | some s => .ok () s
        | none => .trap 14 (State.errVal 4 id) 0

/-- Wait for the token's phase, then drop the token (R208). -/
def barAwait (s : State) (id : Word) : Eff Unit :=
  match s.strand.sync.token with
  | some t =>
    if t.id ≠ id then .ok () s
    else if t.released then .ok () (s.modSync fun y => { y with token := none })
    else s.holdFor .token id
  | none => .ok () s

/-! ## Barrier wires -/

/-- Kinds of wire barrier, as `Sync.wire` holds them. -/
def wRow : Nat := 1
def wCol : Nat := 2
def wRc : Nat := 3

/-- The field rows of a piece of width `w` that has a member on `core` (R30). -/
def pieceRows (w core : Nat) : List Nat :=
  if w = 256 then List.range 16 else if w = 64 then (List.range 4).map (4 * (rowOf core / 4) + ·) else [rowOf core]

/-- The cores of the extent of a wire barrier of a kind on a core (R210). -/
def extentCores (w core kind : Nat) : List Nat :=
  (if kind = wRow then [rowOf core] else pieceRows w core).flatMap fun r =>
    (if kind = wCol then [colOf core] else List.range 16).map fun c => fieldOf core * 256 + 16 * r + c

/-- The wires that an extent uses: row r is r; column c of segment k is 16 + 16 k + c (R210). -/
def wiresOf (cores : List Nat) (kind : Nat) : List Nat :=
  ((if kind = wCol then [] else cores.map rowOf) ++
    (if kind = wRow then [] else cores.map fun c => 16 + 16 * (rowOf c / 4) + colOf c)).eraseDups

/-- A piece width admits a kind (R210). -/
def wireAdmits (kind width : Nat) : Bool := width == 64 || width == 256 || (kind == wRow && width == 16)

/-- A strand is one of the piece that an identity names. -/
def ofPiece (i : Ident) (t : Strand) : Bool :=
  t.live && t.ident.lnum == i.lnum && t.ident.stage == i.stage && t.ident.piece == i.piece

/-- The resident member on a core of the piece that an identity names. -/
def memberOn (s : State) (i : Ident) (core : Nat) : Option (Nat × Strand) :=
  s.residents.find? fun q => q.1 / 4 == core && ofPiece i q.2

/-- That member, or the one that was saved there: its arrival is kept with it (R202). -/
def wireMember (s : State) (i : Ident) (core : Nat) : Option Strand :=
  ((s.memberOn i core).map Prod.snd).or ((s.saved.find? fun v => v.from_.core == core && ofPiece i v.strand).map Saved.strand)

/-- The member on a core has arrived in the pending phase of a kind; one that has ended has not. -/
def arrivedOn (s : State) (i : Ident) (kind core : Nat) : Bool :=
  (s.wireMember i core).any fun t => t.sync.wire == kind && !t.sync.wireRel

/-- A claim is one of a piece. -/
def isClaimOf (i : Ident) (c : WireClaim) : Bool := c.lnum == i.lnum && c.stage == i.stage && c.piece == i.piece

/-- The claim of a piece on its wire set; `none` while another resident piece holds a wire of it by an earlier claim (R210). -/
def claimWires (s : State) : Option State :=
  let i := s.strand.ident
  let f := fieldOf s.me.core
  let rows := pieceRows i.width s.me.core
  let holds (c : WireClaim) : Bool :=
    c.field == f && (c.rows.any fun r => rows.any fun q => q / 4 == r / 4) && s.residents.any fun q => isClaimOf q.2.ident c
  if (s.wires.takeWhile fun c => !isClaimOf i c).any holds then none
  else if s.wires.any (isClaimOf i) then some s
  else some { s with wires := s.wires ++ [⟨f, i.lnum, i.stage, i.piece, rows, []⟩] }

/-- Another kind's phase is pending on a wire that the extent needs (R211). -/
def wireBusy (s : State) (kind : Nat) : Bool :=
  let i := s.strand.ident
  let need := wiresOf (extentCores i.width s.me.core kind) kind
  (extentCores i.width s.me.core wRc).any fun c =>
    (s.wireMember i c).any fun t =>
      let k := t.sync.wire
      k != 0 && !t.sync.wireRel && k != kind && (wiresOf (extentCores i.width c k) k).any fun r => need.contains r

/-- Every member of the extent has arrived: all are released and the planes of their wires flip (R211). -/
def releaseWires (s : State) (w : Sid) (kind : Nat) : State :=
  let i := (s.strandAt w).ident
  let cores := extentCores i.width w.core kind
  if cores.all (s.arrivedOn i kind) then
    let free (core : Nat) (t : Strand) : Strand :=
      if ofPiece i t && cores.contains core then t.modSync fun y => { y with wireRel := true } else t
    { s with
      strands := s.strands.map fun (q : Nat × Strand) => (q.1, free (q.1 / 4) q.2)
      saved := s.saved.map fun v => { v with strand := free v.from_.core v.strand }
      wires := s.wires.map fun (c : WireClaim) =>
        if c.lnum = i.lnum ∧ c.stage = i.stage ∧ c.piece = i.piece then
          { c with plane := (wiresOf cores kind).foldl (fun l r => setK r (!getK false r l) l) c.plane }
        else c }
  else s

/-- SVAL of a wire barrier's time-out: rows and columns that hold a member yet to arrive (R203). -/
def wireMissing (s : State) (kind : Nat) : Word :=
  let i := s.strand.ident
  (extentCores i.width s.me.core kind).foldl (fun w c =>
    if s.arrivedOn i kind c then w
    else setField (setField w (rowOf c) 1 1) (16 + colOf c) 1 1) 0

/-- A wire barrier (R210, R211): the arrival, then the release of its phase (entry 39). -/
def wireBarrier (s : State) (kind : Nat) : Eff Unit :=
  (s.outside 4).bind fun _ s =>
    if !wireAdmits kind s.strand.ident.width then .trap 14 (State.errVal 9 0) 0
    else
      let leave (s : State) : Eff Unit := .ok () (s.modSync fun y => { y with wire := 0, wireRel := false })
      let y := s.strand.sync
      if y.began then
        if y.wireRel || y.wire == 0 then leave s else s.holdFor .wire (s.wireMissing kind)
      else
        let s := if y.wireRel then s.modSync fun y => { y with wire := 0, wireRel := false } else s
        if s.strand.sync.wire != 0 then s.holdFor .wire (s.wireMissing s.strand.sync.wire)
        else
          match s.claimWires with
          | none => s.holdFor (.claim kind) (s.wireMissing kind)
          | some s =>
            if s.wireBusy kind then s.holdFor (.claim kind) (s.wireMissing kind)
            else
              let s := s.modSync fun y => { y with wire := kind, began := true }
              let s := if s.turn.post then s else s.releaseWires s.me kind
              if s.strand.sync.wireRel then leave s else s.holdFor .wire (s.wireMissing kind)

/-- The first message of a strand at place `n` in flight. -/
def flightAt (s : State) (n : Nat) : Option Flight := s.flights[n]?
def dropFlight (s : State) (n : Nat) : State := { s with flights := s.flights.eraseIdx n }
def doneFlight (s : State) (n : Nat) : State :=
  { s with flights := s.flights.mapIdx fun i (f : Flight) => if i = n then { f with done := true } else f }

/-- The home's answer reaches the strand, if it still stands. -/
def barReply (s : State) (w : Sid) (born : Nat) (v : Word) : State :=
  if s.isBorn w born then s.modStrand w fun t => t.modSync fun y => { y with reply := some v } else s

end State

/-- R208: retires when its acknowledgement returns. -/
def execBarArr (a : XReg) (s : State) : Out := finish s ((s.barChecks (s.x a)).bind fun _ t => t.barArrive (s.x a))
/-- R208. -/
def execBarWait (a : XReg) (s : State) : Out := finish s ((s.barChecks (s.x a)).bind fun _ t => t.barAwait (s.x a))
/-- R208: `bar.arr` then `bar.wait` as one instruction; with its arrival done it only waits (R202). -/
def execBarSync (a : XReg) (s : State) : Out :=
  finish s ((s.barChecks (s.x a)).bind fun _ t =>
    if t.strand.sync.began then t.barAwait (s.x a)
    else (t.barArrive (s.x a)).bind fun _ t => (t.modSync fun y => { y with began := true }).barAwait (s.x a))
/-- R207: retires when its acknowledgement returns (entry 38). -/
def execBarCfg (a b : XReg) (s : State) : Out :=
  finish s ((s.barChecks (s.x a)).bind fun _ t =>
    let id := s.x a
    let cnt := s.x b
    if 2 ^ 9 ≤ cnt.toNat then .trap 14 (State.errVal 8 cnt) 0
    else if 256 < cnt.toNat then .trap 14 (State.errVal 5 cnt) 0
    else if t.strand.sync.reply.isSome then .ok () t
    else if t.barInFlight then .hold t false 0
    else
      let home := t.barHome id
      let i := t.strand.ident
      match t.toHome home (.barCfg home (State.barSlot id) cnt.toNat i.lnum i.born) with
      | (false, t) => .hold t false 0
      | (true, t) => .ok () (t.configure home (State.barSlot id) cnt.toNat i.lnum))
/-- R210. -/
def execWbarRow (s : State) : Out := finish s (s.wireBarrier State.wRow)
/-- R210. -/
def execWbarCol (s : State) : Out := finish s (s.wireBarrier State.wCol)
/-- R210. -/
def execWbarRc (s : State) : Out := finish s (s.wireBarrier State.wRc)

/-- BARRIER_CONFIG: a `bar.cfg` reaches the home (R207). -/
def execBarrierConfig (n : Nat) (s : State) : Out :=
  .next (match s.flightAt n with
    | some ⟨_, .barCfg home slot cnt lnum _, false⟩ =>
      if s.meshWaits n then s else (s.configure home slot cnt lnum).doneFlight n
    | _ => s)
/-- BARRIER_ARRIVAL: an arrival reaches the home (R208). A refused one is answered at once with reason 4. -/
def execBarrierArrival (n : Nat) (s : State) : Out :=
  .next (match s.flightAt n with
    | some ⟨w, .barArr home slot lnum born, false⟩ =>
      if s.meshWaits n then s
      else
        match s.arrive w home slot lnum born with
        | some t => t.doneFlight n
        | none => (s.dropFlight n).barReply w born 4
    | _ => s)
/-- BARRIER_RELEASE: a release reaches a core (R208). -/
def execBarrierRelease (n : Nat) (s : State) : Out :=
  .next (match s.flightAt n with
    | some ⟨_, .barRel home slot ph core, _⟩ => if s.meshWaits n then s else (s.dropFlight n).releaseCore home slot ph core
    | _ => s)
/-- BARRIER_ACKNOWLEDGEMENT (R205). -/
def execBarrierAcknowledgement (n : Nat) (s : State) : Out :=
  .next (match s.flightAt n with
    | some ⟨w, .barArr _ _ _ born, true⟩ => (s.dropFlight n).barReply w born 0
    | some ⟨w, .barCfg _ _ _ _ born, true⟩ => (s.dropFlight n).barReply w born 0
    | _ => s)
/-- WIRE_PHASE_RELEASE: the extent of a strand's wire barrier is released once all of it has arrived (R211). -/
def execWirePhaseRelease (who : Sid) (s : State) : Out :=
  let k := (s.strandAt who).sync.wire
  .next (if k = 0 then s else s.releaseWires who k)

end Sys2Proof.Machine
end

