-- ==== Sys2Proof/Machine/Csr.lean ====
section
/-! DEFINITION. The control and status registers (R57 to R60) and the instructions that access them (R356 to R358). -/

namespace Sys2Proof.Machine

/-- SSTATUS as it reads: PPEND shows a pending pre-emption request (R62). -/
def sstatusOf (t : Strand) : Word := setField t.sBank.status 3 1 (bit t.preq.isSome)

/-- STRAND (R60). -/
def strandWord (module : Nat) (w : Sid) : Word :=
  BitVec.ofNat 64 (w.slot + 4 * inField w.core + 1024 * (fieldOf w.core % 8) + 8192 * dieOf w.core + 32768 * module)

/-- The U-mode CSRs of R59, by number. -/
def csrReadU (s : State) (n : Nat) : Option Word :=
  let t := s.strand
  match n with
  | 0x00 => some t.csr.fpc
  | 0x01 => some t.csr.fflags
  | 0x02 => some s.core.cycle
  | 0x03 => some t.csr.instret
  | 0x10 => some (strandWord s.mp.module s.me)
  | 0x11 => some t.csr.pcoord
  | 0x12 => some t.csr.member
  | 0x13 => some t.csr.stage
  | 0x14 => some t.csr.launch
  | 0x15 => some t.csr.shapep
  | 0x20 => some t.csr.issuepol
  | 0x21 => some t.csr.bto
  | 0x30 => some t.csr.rgs
  | 0x31 => some t.csr.rgspc
  | 0x32 => some t.csr.rngkeylo
  | 0x33 => some t.csr.rngkeyhi
  | 0x34 => some t.csr.rngmode
  | 0x35 => some t.csr.rngtab
  | 0x40 => some s.core.town
  | _ =>
    if 0x22 ≤ n ∧ n ≤ 0x29 then some (vgetN t.csr.qbind (n - 0x22))
    else if 0x41 ≤ n ∧ n ≤ 0x48 then some ((vgetN s.core.tcfg (n - 0x41)).zeroExtend 64)
    else none

/-- A register of a trap bank, by the last digit of its number. -/
def bankRead (bk : Bank) (status : Word) (i : Nat) : Option Word :=
  match i with
  | 0 => some bk.tvec | 1 => some bk.epc | 2 => some bk.cause | 3 => some bk.tval | 4 => some status
  | 5 => some bk.scratch | _ => none

/-- The value of a listed CSR (R59). -/
def csrRead (s : State) (n : Nat) : Option Word :=
  if n < 0x1000 then csrReadU s n
  else if n < 0x2000 then bankRead s.strand.sBank (sstatusOf s.strand) (n - 0x1000)
  else if n < 0x3000 then bankRead s.strand.mBank s.strand.mBank.status (n - 0x2000)
  else none

/-- The lowest mode that may access a CSR number is the current one or lower (R58). -/
def csrMode (m : Mode) (n : Nat) : Bool := n / 0x1000 ≤ m.code

/-- CSRs that are RO in a mode (R59). -/
def csrRo (m : Mode) (n : Nat) : Bool :=
  n == 0x02 || (0x10 ≤ n && n ≤ 0x15) || (0x41 ≤ n && n ≤ 0x48)
    || (m == .U && (n == 0x03 || n == 0x30 || n == 0x31 || n == 0x40))

/-- RGS after a write: a reserved STATE is ignored (R6, R228). -/
def writeRgs (old new : Word) : Word := if 4 < rgsState new then setRgsState new (rgsState old) else new

/-- MSTATUS after a write: a reserved MPP is ignored (R6, R62). -/
def writeMstatus (old new : Word) : Word :=
  if field new 2 2 = 3 then setField (new &&& 0xF) 2 2 (field old 2 2) else new &&& 0xF

def bankWrite (bk : Bank) (i : Nat) (status w : Word) : Bank :=
  match i with
  | 0 => { bk with tvec := w } | 1 => { bk with epc := w } | 2 => { bk with cause := w } | 3 => { bk with tval := w }
  | 4 => { bk with status := status } | 5 => { bk with scratch := w } | _ => bk

/-- A group of TOWN that a write leaves parked, with its slot, is still its strand's (R78). -/
def stillParked (old new : Word) (q : Nat × Rank) : Bool :=
  field new (5 * q.1 + 2) 2 == 3 && field new (5 * q.1) 2 == field old (5 * q.1) 2

/-- Write a CSR (R357): reserved bits become 0, RO fields keep their value (R5, R6; entry 20). -/
def csrWrite (s : State) (n : Nat) (w : Word) : State :=
  if n < 0x1000 then
    match n with
    | 0x00 => s.modCsr fun c => { c with fpc := writeFpc c.fpc w }
    | 0x01 => s.modCsr fun c => { c with fflags := w &&& 0x1F }
    | 0x03 => s.modCsr fun c => { c with instret := w }
    | 0x20 => s.modCsr fun c => { c with issuepol := w &&& 1 }
    | 0x21 => s.modCsr fun c => { c with bto := w }
    | 0x30 => s.modCsr fun c => { c with rgs := writeRgs c.rgs w }
    | 0x31 => s.modCsr fun c => { c with rgspc := w &&& 0xFFFF_FFFF_FFFF }
    | 0x32 => s.modCsr fun c => { c with rngkeylo := w &&& 0xFFFF_FFFF }
    | 0x33 => s.modCsr fun c => { c with rngkeyhi := w &&& 0xFFFF_FFFF }
    | 0x34 => s.modCsr fun c => { c with rngmode := w &&& 7 }
    | 0x35 => s.modCsr fun c => { c with rngtab := w &&& 0xFFF0 }
    | 0x40 => s.withCore fun c => { c with town := w &&& 0xFFF_FFFF_FFFF_FFFF, parked := c.parked.filter (stillParked c.town w) }
    | _ =>
      if 0x22 ≤ n ∧ n ≤ 0x29 then
        (s.modCsr fun c => { c with qbind := vsetN c.qbind (n - 0x22) (w &&& 0xFFFF_FFFF_FFE3) }).startRefill s.me.core (n - 0x22)
      else s
  else if n < 0x2000 then s.withStrand fun t => { t with sBank := bankWrite t.sBank (n - 0x1000) (w &&& 7) w }
  else s.withStrand fun t => { t with mBank := bankWrite t.mBank (n - 0x2000) (writeMstatus t.mBank.status w) w }

namespace State

/-- The CSR instructions (R357): the checks, the read, and the write of a writing form. -/
def csrAccess (s : State) (csr : BitVec 14) (writes : Bool) (f : Word → Word) (put : State → Word → State) :
    Eff Unit :=
  let n := csr.toNat
  let timed := n == 0x10 || n == 0x02 || n == 0x40
  if s.computePhase && (timed || (writes && 0x22 ≤ n && n ≤ 0x29)) then .trap 13 s.pcf 0
  else
    match csrRead s n with
    | none => .trap 1 s.latch.first 0
    | some old =>
      if !csrMode s.strand.mode n || (writes && csrRo s.strand.mode n) then .trap 1 s.latch.first 0
      else .ok () (put (if writes then csrWrite s n (f old) else s) old)

end State

/-- R356. -/
def execCsrr (a : XReg) (csr : BitVec 14) (s : State) : Out :=
  finish s (s.csrAccess csr false id fun t old => t.setX a old)
/-- R356. -/
def execCsrw (a : XReg) (csr : BitVec 14) (s : State) : Out :=
  finish s (s.csrAccess csr true (fun _ => s.x a) fun t _ => t)
/-- R356. -/
def execCsrs (a : XReg) (csr : BitVec 14) (s : State) : Out :=
  finish s (s.csrAccess csr true (fun old => old ||| s.x a) fun t _ => t)
/-- R356. -/
def execCsrc (a : XReg) (csr : BitVec 14) (s : State) : Out :=
  finish s (s.csrAccess csr true (fun old => old &&& ~~~(s.x a)) fun t _ => t)
/-- R356. -/
def execCsrx (a d : XReg) (csr : BitVec 14) (s : State) : Out :=
  finish s (s.csrAccess csr true (fun _ => s.x a) fun t old => t.setX d old)

end Sys2Proof.Machine
end

