-- ==== Sys2Proof/Machine/Devices.lean ====
section
/-! DEFINITION. What the engines of a virtual device see of it: its memory by virtual address, its cores and positions
(R30, R31, R294), and what room its cores have. -/

namespace Sys2Proof.Machine

namespace State

/-! ## Memory as the launch engine and the E-die reach it -/

/-- Where an engine's access of a virtual address goes: a place; a fault of translation; or an uncorrectable error, as for
a module that does not answer (R17, R67, R320). -/
inductive Reach where
  | place (l : Loc)
  | fault
  | bad
  deriving DecidableEq, Repr

/-- The place of a virtual address in the memories of the modules. -/
def engineLoc (s : State) (d : VDev) (k : Access) (va : Nat) : Option Loc :=
  if !isGlobal (BitVec.ofNat 64 va) then none
  else
    match walk s d va with
    | .leaf lv e => if !permits k false e then none else locOf s d va lv e
    | _ => none

def engineReach (s : State) (d : VDev) (k : Access) (va : Nat) : Reach :=
  match s.engineLoc d k va with
  | none => .fault
  | some l => if s.lineBad (l.pa / 32) then .bad else .place l

/-- The physical address of a byte of this module's memory, at the home slices. -/
def enginePa (s : State) (d : VDev) (k : Access) (va : Nat) : Option Nat :=
  match s.engineReach d k va with
  | .place l => if moduleOfPa l.pa = s.mp.module then some l.pa else none
  | _ => none

/-- The 8-byte word at a place: memory, a free value of a peer, or 0 of a module that does not answer (R199; entry 62). -/
def wordAt (s : State) (pa : Nat) : Nat :=
  if moduleOfPa pa = s.mp.module then s.mem.nat pa 8
  else if s.moduleUp (moduleOfPa pa) then (Config.peerData s.fresh pa).toNat else 0

/-- A launch has a dependence word or its shape word in another module's memory, whose slice watches it there (R17, R224). -/
def looksFar (s : State) (l : Launch) : Bool :=
  (l.lrec.shp && moduleOfPa l.shapePa != s.mp.module) || l.deps.any fun p => moduleOfPa p.pa != s.mp.module

/-- Another module's slice tells what stands in the words that it watches for a launch (R17, R278, R284). -/
def lookFar (s : State) (lnum : Nat) : State :=
  if (s.launchNo lnum).any s.looksFar then { s.modLaunch lnum (lookLaunch s.wordAt) with fresh := s.fresh + 1 } else s

/-- Bytes of one page at a place: memory, or free values of a peer (R199). -/
def pageBytes (s : State) (l : Loc) (n : Nat) : List Byte :=
  if moduleOfPa l.pa = s.mp.module then s.mem.readN l.pa n
  else (List.range n).map fun i => byteAt (Config.peerLine s.fresh ((l.pa + i) / 32)) ((l.pa + i) % 32)

/-- A line of the run that the turn finds uncorrectable. -/
def badIn (s : State) (pa n : Nat) : Bool := s.turn.err.any fun l => decide (pa / 32 ≤ l) && decide (l ≤ (pa + n - 1) / 32)

/-- `n` bytes from a virtual address up, by pages of 64 KiB; or the first address that fails, and whether it ends with an
uncorrectable error. -/
def engineRun (s : State) (d : VDev) (va n : Nat) : Nat → Except (Bool × Nat) (List Byte)
  | 0 => .ok []
  | fuel + 1 =>
    if n = 0 then .ok []
    else
      let k := min n (65536 - va % 65536)
      match s.engineReach d .load va with
      | .fault => .error (false, va)
      | .bad => .error (true, va)
      | .place l => if s.badIn l.pa k then .error (true, va) else (engineRun s d (va + k) (n - k) fuel).map (s.pageBytes l k ++ ·)

def engineRead (s : State) (d : VDev) (va n : Nat) : Except (Bool × Nat) (List Byte) := s.engineRun d va n (n / 65536 + 2)

def engineBytes (s : State) (d : VDev) (va n : Nat) : Option (List Byte) :=
  match s.engineRead d va n with
  | .ok l => some l
  | .error _ => none

/-- The cells of bytes from a virtual address up, or the first address that cannot be written, as `engineRun` gives it. -/
def engineCells (s : State) (d : VDev) (va : Nat) : List Byte → Except (Bool × Nat) (List Host.Cell)
  | [] => .ok []
  | b :: bs =>
    match s.engineReach d .store va with
    | .fault => .error (false, va)
    | .bad => .error (true, va)
    | .place l => (engineCells s d (va + 1) bs).map ((l.pa, b) :: ·)

/-- Those of the cells that this module's memory holds; the others have gone to their modules (R199). -/
def ownCells (s : State) (cells : List Host.Cell) : List Host.Cell := cells.filter fun c => moduleOfPa c.1 == s.mp.module

/-- The E-die and the launch engine as the releasers of their writes: no core and no slot is theirs (entry 72). -/
def engineSid : Sid := ⟨8192, 0⟩

/-- An engine may acquire, or write with release order, at places: no older release narrower than module stands there, which
is widened first, and no held write (R192, R195, R278, R279). -/
def allWide (s : State) (ps : List Target) : Bool × State :=
  let s := ps.foldl (fun s p => match s.tagAt p with
    | some t => if t.scope.toNat < 5 then s.sendMiss (widenFirst engineSid p t) else s
    | none => s) s
  (ps.all fun p => ((s.tagAt p).all fun t => decide (5 ≤ t.scope.toNat)) && !s.blocked.any fun q => q.1 == p, s)

/-- A write of an engine waits there: another's release is held, or the widening that it asked for is under way. -/
def stuckAt (s : State) (ps : List Target) : Bool :=
  ps.any fun p => (s.blocked.any fun q => q.1 == p)
    || (s.tagAt p).any fun t => decide (t.scope.toNat < 5) && s.missSent (widenFirst engineSid p t)

/-- A write of an engine with release order at system scope (R279, R314). -/
def engineRelease (s : State) (cells : List Host.Cell) : State :=
  s.sliceWrite cells (some ⟨s.mp.module, engineSid, 0, 7⟩)

/-- The line of a completion counter. -/
def counterLine (s : State) (d : VDev) (va : Word) : List Target :=
  (s.enginePa d .store va.toNat).toList.map fun pa => .line (pa / 32 * 32)

/-- `amoadd` of 1 at a completion counter, by an engine, with acquire-release order at system scope (R279, R314); one in
another module's memory goes to its slice (R17). Or how it fails: true where with an uncorrectable error. -/
def countUp (s : State) (d : VDev) (va : Word) : Except Bool State :=
  match s.engineReach d .store va.toNat with
  | .fault => .error false
  | .bad => .error true
  | .place l =>
    .ok (if moduleOfPa l.pa = s.mp.module then s.engineRelease (cellsAt l.pa (bytesOfNat 8 (s.mem.nat l.pa 8 + 1))) else s)

/-! ## Cores and positions -/

/-- The clusters of a node (R294). -/
def nodeClusters (level index : Nat) : List Nat :=
  (List.range (2 ^ (level - 4))).map fun i => index * 2 ^ (level - 4) + i

/-- The cores of a device that no retired cluster takes away (R309). -/
def devCores (s : State) (d : VDev) : List Nat :=
  ((nodeClusters d.level d.index).filter fun c => !s.retired.contains c).flatMap fun c => (List.range 16).map (coreOfCluster c)

/-- The dies that a device spans, in ascending order (R32). -/
def devDies (d : VDev) : List Nat := ((nodeClusters d.level d.index).map fun c => c / 128).eraseDups

/-- Widths of a piece (R30), from the widest. -/
def widths : List Nat := [256, 64, 16, 8, 4, 2, 1]

/-- The cores of the position of width `w` whose lowest core is `low`: core of member m is low + m (R30). -/
def position (w low : Nat) : List Nat := (List.range w).map (low + ·)

/-- A position of the device (R30, R31): aligned, every core in the device and in no retired cluster. -/
def isPosition (s : State) (d : VDev) (w low : Nat) : Bool :=
  widths.contains w && low % w == 0 &&
    (position w low).all fun c => inVdev d c && !s.retired.contains (clusterOf c)

/-- The lowest cores of the positions of a width. -/
def positions (s : State) (d : VDev) (w : Nat) : List Nat := (s.devCores d).filter (s.isPosition d w)

/-! ## Room on a core -/

/-- What a strand, or a member that is to start, takes of a core: its slot and its LM reservation. -/
structure Take where
  who  : Sid
  base : Nat
  size : Nat
  deriving DecidableEq, Repr

/-- LM of a member of a launch (R274). -/
def lmNeed (l : Launch) : Nat := l.kd.lmsz + l.kd.srsz

/-- A co-resident launch, which is open until the last of its strands is saved, has not saved them all: the positions that the
saved ones left are not free (R39). -/
def leaving (s : State) (lnum : Nat) : Bool :=
  (s.launchNo lnum).any fun l => l.lrec.cores && l.open_ && l.pieces.any fun (p : Piece) => p.st == .running

/-- What is taken of a core. -/
def takes (s : State) (core : Nat) : List Take :=
  let here := (s.residents.filter fun q => q.1 / 4 == core).map fun q =>
    (⟨Sid.ofKey q.1, q.2.ident.lmBase, q.2.ident.lmSize⟩ : Take)
  let soon := s.launches.flatMap fun l =>
    (l.pieces.filter fun (p : Piece) => p.st == .placed).flatMap fun p =>
      ((p.at_.zip p.lm).filter fun q => q.1.core == core).map fun q => (⟨q.1, q.2, lmNeed l⟩ : Take)
  let held := (s.saved.filter fun v => v.from_.core == core && s.leaving v.strand.ident.lnum).map fun v =>
    (⟨v.from_, v.strand.ident.lmBase, v.strand.ident.lmSize⟩ : Take)
  here ++ soon ++ held

/-- The lowest LM base at which `need` bytes are free (entry 24). -/
def lmGap (ts : List Take) (need : Nat) : Option Nat :=
  let fits (b : Nat) : Bool := decide (b + need ≤ 65536) && ts.all fun t => decide (b + need ≤ t.base) || decide (t.base + t.size ≤ b)
  ((0 :: ts.map fun t => t.base + t.size).filter fits).foldl (fun r b => match r with
    | none => some b
    | some c => some (min b c)) none

/-- The lowest slot that is free. -/
def freeSlot (ts : List Take) : Option Nat := (List.range 4).find? fun k => !ts.any fun t => t.who.slot == k

/-- Where a member with `need` bytes of LM goes on a core. -/
def memberPlace (core : Nat) (ts : List Take) (need : Nat) : Option Take :=
  (freeSlot ts).bind fun k => (lmGap ts need).map fun b => ⟨⟨core, k⟩, b, need⟩

/-- How many members of `need` bytes a core can take. -/
def roomFor (core : Nat) (ts : List Take) (need : Nat) : Nat → Nat
  | 0 => 0
  | n + 1 =>
    match memberPlace core ts need with
    | none => 0
    | some t => roomFor core (t :: ts) need n + 1

/-- A fused launch runs on fused clusters only, and no other launch does (R181). -/
def fuseFits (s : State) (fuse : Bool) (core : Nat) : Bool := s.fused.contains (clusterOf core) == fuse

/-- The cluster holds no strand. -/
def clusterEmpty (s : State) (cl : Nat) : Bool := !s.residents.any fun q => clusterOf (q.1 / 4) == cl

/-- The members that a core can take, the slots of `gone` given up. A cluster without a strand can still be fused or
unfused. -/
def coreRoom (s : State) (fuse : Bool) (need : Nat) (gone : List Sid) (core : Nat) : Nat :=
  if s.retired.contains (clusterOf core) || !(s.fuseFits fuse core || s.clusterEmpty (clusterOf core)) then 0
  else roomFor core ((s.takes core).filter fun t => !gone.contains t.who) need 4

/-- Pieces wanted, by width. -/
abbrev Wanted := List (Nat × Nat)

def wantedAt (ws : Wanted) (w : Nat) : Nat := (ws.filter fun p => p.1 == w).foldl (fun n p => n + p.2) 0

/-- Pieces of several widths fit at once when, for every width, the positions' room covers them and the wider ones, each
counted by the positions it covers: a position is a union of the narrower ones in it. -/
def fits (s : State) (d : VDev) (room : Nat → Nat) (ws : Wanted) : Bool :=
  widths.all fun w =>
    let need := (widths.filter (w ≤ ·)).foldl (fun n v => n + wantedAt ws v * (v / w)) 0
    need == 0 || decide (wantedAt ws w = 0) ||
      decide (need ≤ (s.positions d w).foldl (fun n low => n + ((position w low).map room).foldl min 4) 0)

/-! ## Stages of a launch -/

/-- The grid's width and number of pieces of a stage (R28, R285). -/
def stageWidth (l : Launch) (st : Nat) : Nat := (l.lrec.grids[st]?).elim 1 Grid.wc
def stagePieces (l : Launch) (st : Nat) : Nat :=
  if l.lrec.shp && st == 0 then l.p else (l.lrec.grids[st]?).elim 0 fun g => g.gx * g.gy * g.gz

/-- Indices of a stage still on its carousels. -/
def waitingIdx (l : Launch) (st : Nat) : Nat :=
  (l.carousels.filter fun c => c.stage == st).foldl (fun n c => c.runs.foldl (fun n r => n + (r.2 - r.1)) n) 0

/-- Pieces of a stage that are saved. -/
def savedPieces (l : Launch) (st : Nat) : Nat := (l.pieces.filter fun (p : Piece) => p.stage == st && p.st == .saved).length

/-- The pieces of a launch that are still to be handed out or to be placed again, by width. -/
def stillWanted (l : Launch) : Wanted :=
  (List.range l.lrec.nst).map fun st => (stageWidth l st, waitingIdx l st + savedPieces l st)

def hasWaiting (l : Launch) : Bool := (stillWanted l).any fun p => decide (0 < p.2)

end State

end Sys2Proof.Machine
end

