-- ==== Sys2Proof/Machine/Keep.lean ====
section
/-! DEFINITION. What the firmware saves beside a strand, and how it puts it back (R55, R72, R78; entry 77). -/

namespace Sys2Proof.Machine

/-- The registers that a slot owns are parked (R78). -/
def parkSlot (town : Word) (slot : Nat) : Word :=
  (List.range 12).foldl (fun t k => if owns t k slot then setField t (5 * k + 3) 1 1 else t) town

/-- Register `k` of a core is the strand's of slot `slot` and rank `r`: a parked one by the note of whose it is, any other by its
slot (R78). -/
def ownedBy (c : Core) (slot : Nat) (r : Rank) (k : Nat) : Bool :=
  townOwn c.town k && match c.parked.find? fun q => q.1 == k with
    | some q => q.2 == r
    | none => townSlot c.town k == slot

/-- A parked group is its strand's no longer. -/
def Core.unpark (c : Core) (k : Nat) : Core := { c with parked := c.parked.filter fun q => q.1 != k }

/-- The groups that a strand left parked are released (R80). -/
def Core.releaseParked (c : Core) (r : Rank) : Core :=
  { c with
    town := (c.parked.filter fun q => q.2 == r).foldl (fun t q => setTown t q.1 0) c.town
    parked := c.parked.filter fun q => q.2 != r }

namespace State

/-- The registers of the strand's slot are parked, and its engine set is no longer its own (R36, R78). -/
def parkRegs (s : State) (w : Sid) : State :=
  s.modCore w.core fun c => { c with town := parkSlot c.town w.slot, ce := { c.ce with pre := vsetN c.ce.pre w.slot 0 } }

/-- The registers that the strand owns are parked, each with the note that it is this strand's (R78). -/
def parkOwn (s : State) (w : Sid) : State :=
  let r := s.rankAt w
  let mine := (List.range 12).filter (ownedBy (s.coreAt w.core) w.slot r)
  (s.modCore w.core fun c => { c with parked := c.parked.filter (fun q => !mine.contains q.1) ++ mine.map fun k => (k, r) }).parkRegs w

/-- A strand that ends, wherever it lies, releases the registers that it left parked on any core (R80). -/
def releaseParked (s : State) (r : Rank) : State :=
  { s with cores := s.cores.map fun (q : Nat × Core) => (q.1, q.2.releaseParked r) }

/-- The dirty bytes of a strand's core are performed, and what the strand holds in the combining buffer. -/
def flushOf (s : State) (w : Sid) : State :=
  { (s.atOnce.drainW w.core fun e => e.by_ == s.rankAt w).writeBackAll w.core with turn := s.turn }

/-- Another strand of the launch is on the core. -/
def launchStays (s : State) (w : Sid) (lnum : Nat) : Bool :=
  s.residents.any fun q => q.1 / 4 == w.core && q.1 != w.key && q.2.ident.lnum == lnum

/-- What the firmware keeps of a strand that it saves. -/
def keepOf (s : State) (w : Sid) : Stash :=
  let c := s.coreAt w.core
  let i := (s.strandAt w).ident
  let inside (a : Nat) : Bool := decide (i.lmBase ≤ a) && decide (a < i.lmBase + i.lmSize)
  { lm := (c.lm.filter fun q => inside q.1).map fun (q : Host.Cell) => (q.1 - i.lmBase, q.2)
    empty := (c.empty.filter fun k => inside (8 * k)).map fun k => k - i.lmBase / 8
    owned := (List.range 12).filter (ownedBy c w.slot (s.rankAt w))
    tcfg := c.tcfg
    tiles := c.tiles
    accE := c.accE
    accO := c.accO
    held := vgetN c.matrix.held w.slot
    copy := vgetN c.ce.pre w.slot
    set := c.ce.shadow
    priv := c.ce.priv
    ceBits := (vgetN c.ce.flt w.slot, vgetN c.ce.stop w.slot, vgetN c.ce.prog w.slot)
    books := if s.launchStays w i.lnum then none else some (c.books, c.q) }

/-- The engines of a core can take back what the firmware kept: room for the records, and the copy engine idle. -/
def canPutBack (s : State) (w : Sid) (k : Stash) : Bool :=
  let c := s.coreAt w.core
  decide (c.matrix.queue.length + bit c.matrix.run.isSome + k.held.length ≤ 16) && (k.copy == 0 || ceShown c.ce == 0)

/-- The strand's own parked group on the core that it left (R78). -/
def ownParked (s : State) (v : Saved) (w : Sid) (k : Nat) : Bool :=
  w.core == v.from_.core && (s.coreAt w.core).parked.any fun q => q.1 == k && ofRankIn q.2 v.strand

/-- A register that the strand owned, as R78's table treats it: its own parked group changes the slot; an unowned one gets
the strand's image and is claimed; another strand's is left. -/
def giveBack (s : State) (v : Saved) (k : Stash) (w : Sid) (r : Nat) : State :=
  let mine := setTown (s.coreAt w.core).town r (w.slot % 4 + 4)
  if s.ownParked v w r then
    s.modCore w.core fun c => { c.unpark r with town := setDirty mine r (townDirty c.town r) }
  else if townOwn (s.coreAt w.core).town r then s
  else
    s.modCore w.core fun c =>
      if r < 8 then { c with town := mine, tiles := vsetN c.tiles r (vgetN k.tiles r), tcfg := vsetN c.tcfg r (vgetN k.tcfg r) }
      else { c with town := mine, accE := vsetN c.accE (r - 8) (vgetN k.accE (r - 8)), accO := vsetN c.accO (r - 8) (vgetN k.accO (r - 8)) }

/-- The firmware puts back what it kept of a strand that now stands in slot `w`: LM and its empty words, the registers, the
held records pushed again, the copy transfer armed from its set. Its LM is written as by any store: waits there look (R224). -/
def putBack (s : State) (v : Saved) (k : Stash) (w : Sid) : State :=
  let i := (s.strandAt w).ident
  let inside (a : Nat) : Bool := decide (i.lmBase ≤ a) && decide (a < i.lmBase + i.lmSize)
  let alone := !s.launchStays w i.lnum
  let s := k.owned.foldl (fun s r => s.giveBack v k w r) s
  let s := s.modCore w.core fun c =>
    { c with
      lm := Memory.writeCells (c.lm.filter fun q => !inside q.1) (k.lm.map fun (q : Host.Cell) => (q.1 + i.lmBase, q.2))
      empty := (c.empty.filter fun n => !inside (8 * n)) ++ k.empty.map fun n => n + i.lmBase / 8
      matrix := { c.matrix with queue := c.matrix.queue ++ k.held.map fun r => ⟨Rec.withSlot r w.slot, true⟩ }
      ce := { c.ce with
        active := if k.copy = 0 then c.ce.active else k.set
        owner := if k.copy = 0 then c.ce.owner else w.slot
        stat := if k.copy = 0 then c.ce.stat else k.copy
        priv := if k.copy = 2 then k.priv else c.ce.priv
        flt := vsetN c.ce.flt w.slot k.ceBits.1
        stop := vsetN c.ce.stop w.slot k.ceBits.2.1
        prog := vsetN c.ce.prog w.slot k.ceBits.2.2 }
      books := match k.books with
        | some b => if alone then b.1 else c.books
        | none => c.books
      q := match k.books with
        | some b => if alone then b.2 else c.q
        | none => c.q }
  let s := s.wakeAll fun p => match p with
    | .lm c off => c == w.core && inside off
    | .line _ => false
  (((s.coreAt w.core).port.map fun r => r.off / 8).eraseDups).foldl (fun s n => s.servePort w.core n (s.coreAt w.core).port) s

end State

end Sys2Proof.Machine
end

