-- ==== Sys2Proof/Machine/Shake.lean ====
section
/-! DEFINITION. SHAKE256 with 256-bit output (FIPS 202), which the signature of R136 and the layout journal of R326 use. -/

namespace Sys2Proof.Machine

/-- The 25 lanes of the permutation's state, lane (x, y) at x + 5y. -/
abbrev Lanes := List Word

def keccakLane (a : Lanes) (x y : Nat) : Word := a.getD (x % 5 + 5 * (y % 5)) 0

/-- Lanes from a function of their coordinates. -/
def lanesOf (f : Nat → Nat → Word) : Lanes := (List.range 25).map fun i => f (i % 5) (i / 5)

def theta (a : Lanes) : Lanes :=
  let c (x : Nat) : Word := keccakLane a x 0 ^^^ keccakLane a x 1 ^^^ keccakLane a x 2 ^^^ keccakLane a x 3 ^^^ keccakLane a x 4
  let cs := (List.range 5).map c
  lanesOf fun x y => keccakLane a x y ^^^ cs.getD ((x + 4) % 5) 0 ^^^ (cs.getD ((x + 1) % 5) 0).rotateLeft 1

/-- Rotation of lane x + 5y. -/
def rhoOffsets : List Nat := [0, 1, 62, 28, 27, 36, 44, 6, 55, 20, 3, 10, 43, 25, 39, 41, 45, 15, 21, 8, 18, 2, 61, 56, 14]

/-- Rotate the lanes, then move lane (x, y) to (y, 2x + 3y). -/
def rhoPi (a : Lanes) : Lanes :=
  lanesOf fun x y => (keccakLane a (x + 3 * y) x).rotateLeft (rhoOffsets.getD ((x + 3 * y) % 5 + 5 * (x % 5)) 0)

def chi (a : Lanes) : Lanes := lanesOf fun x y => keccakLane a x y ^^^ (~~~keccakLane a (x + 1) y &&& keccakLane a (x + 2) y)

def roundConstants : List Word :=
  [0x0000000000000001, 0x0000000000008082, 0x800000000000808A, 0x8000000080008000, 0x000000000000808B,
    0x0000000080000001, 0x8000000080008081, 0x8000000000008009, 0x000000000000008A, 0x0000000000000088,
    0x0000000080008009, 0x000000008000000A] ++
  [0x000000008000808B, 0x800000000000008B, 0x8000000000008089, 0x8000000000008003, 0x8000000000008002,
    0x8000000000000080, 0x000000000000800A, 0x800000008000000A, 0x8000000080008081, 0x8000000000008080,
    0x0000000080000001, 0x8000000080008008]

def keccakRound (a : Lanes) (rc : Word) : Lanes :=
  let b := chi (rhoPi (theta a))
  b.set 0 (b.getD 0 0 ^^^ rc)

def keccak (a : Lanes) : Lanes := roundConstants.foldl keccakRound a

/-- One block of 136 bytes into the state. -/
def absorb (a : Lanes) (block : List Byte) : Lanes :=
  keccak ((List.range 25).map fun i => a.getD i 0 ^^^ wordOfBytes ((block.drop (8 * i)).take 8))

/-- Blocks of a padded message. -/
def absorbAll (a : Lanes) (m : List Byte) : Nat → Lanes
  | 0 => a
  | n + 1 => absorbAll (absorb a (m.take 136)) (m.drop 136) n

/-- The message with the suffix of SHAKE and the padding. -/
def shakePad (m : List Byte) : List Byte :=
  let z := 135 - m.length % 136
  if z = 0 then m ++ [0x9F] else m ++ [0x1F] ++ List.replicate (z - 1) 0 ++ [0x80]

/-- SHAKE256, 256 bits. -/
def shake256 (m : List Byte) : V256 :=
  let p := shakePad m
  let a := absorbAll (List.replicate 25 0) p (p.length / 136)
  BitVec.ofNat 256 (natOfBytes ((a.take 4).flatMap fun w => bytesOfNat 8 w.toNat))

end Sys2Proof.Machine
end

