-- ==== Sys2Proof/Machine/Record.lean ====
section
/-! DEFINITION. Launch records, kernel descriptors and transfer schedules as the launch engine reads and checks them
(R27 to R31, R40, R213, R265, R266, R273 to R275, R284, R288). -/

namespace Sys2Proof.Machine

/-- The 8-byte word at offset 8i of a record. -/
def recWord (bs : List Byte) (i : Nat) : Nat := natOfBytes ((bs.drop (8 * i)).take 8)

/-- Bits [lo + n - 1 : lo] of a number. -/
def bitsOf (v lo n : Nat) : Nat := v / 2 ^ lo % 2 ^ n

/-- A check of a record: the status with which it is refused. -/
def needs (c : Bool) (status : Nat) : Except Nat Unit := if c then .ok () else .error status

/-- The piece width of a width code (R273). -/
def widthOf (code : Nat) : Nat := [1, 2, 4, 8, 16, 64, 256].getD code 0

/-- A grid word (R28, R30, R273); the first dimension is 1 for a stage that takes its grid from a shape source (R285). -/
def gridOf (w : Nat) (shp : Bool) : Except Nat Grid :=
  let g : Grid := ⟨if shp then 1 else bitsOf w 0 16, bitsOf w 16 16, bitsOf w 32 16, widthOf (bitsOf w 48 3)⟩
  if bitsOf w 51 13 = 0 ∧ g.wc ≠ 0 ∧ g.gx ≠ 0 ∧ g.gy ≠ 0 ∧ g.gz ≠ 0 ∧ g.gx * g.gy * g.gz ≤ 2 ^ 24
      ∧ (shp → g.gy = 1 ∧ g.gz = 1) then .ok g else .error 1

/-- A dependence word, its address still to be translated. -/
def depOf (w : Nat) : Except Nat Dep :=
  if bitsOf w 1 2 = 0 then .ok ⟨w % 2 = 1, BitVec.ofNat 64 (bitsOf w 3 45 * 8), bitsOf w 48 16, 0, false⟩ else .error 1

/-- An allocation descriptor: its first 8 bytes and its last 4. -/
def allocOf (w v : Nat) : Except Nat Alloc :=
  if bitsOf w 48 16 = 0 ∧ bitsOf v 24 7 = 0 then
    .ok ⟨BitVec.ofNat 64 (bitsOf w 16 32 * 65536), bitsOf w 0 16 * 256, bitsOf v 0 24, bitsOf v 31 1 = 1, 0, 0⟩
  else .error 1

/-- What a launch record holds beside its fields. -/
structure Parsed where
  lrec   : LRec
  grids  : Nat                         -- address of the table of further grids
  deps   : List Dep
  allocs : List Alloc
  deriving DecidableEq, Repr

/-- The fields of the 128 bytes of a record, with the rules that need nothing else (R29, R40, R273, R275). -/
def parseRecord (bs : List Byte) : Except Nat Parsed := do
  let w (i : Nat) : Nat := recWord bs i
  let nst := bitsOf (w 0) 0 3 + 1
  let step := bitsOf (w 0) 3 1 == 1
  let cores := bitsOf (w 0) 4 1 == 1
  let rscope := bitsOf (w 0) 5 2
  let shp := bitsOf (w 0) 16 1 == 1
  let ndep := bitsOf (w 0) 13 3
  needs (bitsOf (w 0) 17 47 == 0 && decide (ndep ≤ 4) && bitsOf (w 0) 11 2 != 3) 1
  needs (w 1 % 256 == 0) 1
  needs (bitsOf (w 3) 11 5 == 0 && bitsOf (w 3) 32 2 != 3 && bitsOf (w 3) 58 6 == 0 && decide (bitsOf (w 3) 0 3 < 5)) 1
  needs (w 4 % 8 == 0 && (shp || w 4 == 0)) 1
  needs (w 5 % 8 == 0 && (decide (1 < nst) || w 8 == 0)) 1
  needs ((!(decide (1 < nst) || step || rscope != 0) || cores) && !(shp && (cores || decide (1 < nst)))) 1
  let g0 ← gridOf (w 7) shp
  needs ((List.range 4).all fun i => bitsOf (w (9 + i)) 1 2 == 0) 1
  let deps ← (List.range ndep).mapM fun i => depOf (w (9 + i))
  let a0 ← allocOf (w 13) (natOfBytes ((bs.drop 112).take 4))
  let a1 ← allocOf (natOfBytes ((bs.drop 116).take 8)) (natOfBytes ((bs.drop 124).take 4))
  let allocs := [a0, a1].filter (·.en)
  let g := bitsOf (w 3) 34 24
  needs (allocs.all fun a => decide (g ≤ a.resv)) 1
  .ok
    { lrec :=
        { nst := nst, step := step, cores := cores, rscope := rscope, fuse := bitsOf (w 0) 7 1 == 1
          prio := bitsOf (w 0) 8 3, dclass := bitsOf (w 0) 11 2, shp := shp
          kdesc := BitVec.ofNat 64 (w 1)
          keylo := BitVec.ofNat 64 (bitsOf (w 2) 0 32), keyhi := BitVec.ofNat 64 (bitsOf (w 2) 32 32)
          fpc := BitVec.ofNat 64 (bitsOf (w 3) 0 11)
          pred := bitsOf (w 3) 16 8, margin := bitsOf (w 3) 24 8, pol := bitsOf (w 3) 32 2, g := g
          shapew := BitVec.ofNat 64 (w 4), done := BitVec.ofNat 64 (w 5), srec := BitVec.ofNat 64 (w 6)
          grids := [g0] }
      grids := w 8
      deps := deps
      allocs := allocs }

/-- A transfer record (R265). One whose first or last byte at GADDR lies outside the global range is refused too: it names no
global bytes (R175; DESIGN CHOICE, entry 117). -/
def xferOf (bs : List Byte) : Except Nat Xfer :=
  let w (i : Nat) : Nat := recWord bs i
  let x : Xfer :=
    { kind := bitsOf (w 0) 0 2, sstg := bitsOf (w 0) 2 3, dstg := bitsOf (w 0) 5 3, nw := bitsOf (w 0) 16 16
      srank := bitsOf (w 0) 32 32, drank := bitsOf (w 1) 0 32, soff := bitsOf (w 1) 32 16, doff := bitsOf (w 1) 48 16
      per := bitsOf (w 2) 0 16, ofs := bitsOf (w 2) 16 16, gaddr := BitVec.ofNat 64 (w 3) }
  let far := x.kind == 1 || x.kind == 2
  let good :=
    x.kind != 3 && bitsOf (w 0) 8 8 == 0 && bitsOf (w 2) 32 32 == 0
      && decide (1 ≤ x.nw) && decide (x.nw ≤ 8192) && x.soff % 8 == 0 && x.doff % 8 == 0
      && decide (x.ofs < x.per)
      && (if far then isGlobal x.gaddr && isGlobal (x.gaddr + BitVec.ofNat 64 (8 * x.nw - 1)) && w 3 % 8 == 0 else w 3 == 0)
      && (x.kind != 1 || (x.sstg == 0 && x.srank == 0 && x.soff == 0))
      && (x.kind != 2 || (x.dstg == 0 && x.drank == 0 && x.doff == 0))
  if good then .ok x else .error 1

/-- A run of bytes that a record reads or writes: `none` for global memory, or the rank whose LM holds it. -/
structure Span where
  rank : Option (Nat × Nat)
  lo   : Nat
  len  : Nat
  deriving DecidableEq, Repr

def xferFrom (x : Xfer) : Span :=
  if x.kind = 1 then ⟨none, x.gaddr.toNat, 8 * x.nw⟩ else ⟨some (x.sstg, x.srank), x.soff, 8 * x.nw⟩
def xferTo (x : Xfer) : Span :=
  if x.kind = 2 then ⟨none, x.gaddr.toNat, 8 * x.nw⟩ else ⟨some (x.dstg, x.drank), x.doff, 8 * x.nw⟩

def Span.meets (a b : Span) : Bool := a.rank == b.rank && decide (a.lo < b.lo + b.len) && decide (b.lo < a.lo + a.len)

/-- Two records that can be active in one exchange conflict (R266). Bytes in global memory meet by their virtual addresses: two
addresses of one physical byte are not looked for (DESIGN CHOICE, entry 118). -/
def xferConflict (x y : Xfer) : Bool :=
  let n := Nat.gcd x.per y.per
  x.ofs % n == y.ofs % n
    && ((xferTo x).meets (xferTo y) || (xferTo x).meets (xferFrom y) || (xferTo y).meets (xferFrom x))

/-- No two records of a schedule conflict. -/
def noConflicts : List Xfer → Bool
  | [] => true
  | x :: rest => (rest.all fun y => !xferConflict x y) && noConflicts rest

/-- A channel entry (R274): slots, and whether the payload is of 32 bytes. -/
def chanOf (w : Nat) : Except Nat (Nat × Bool) :=
  if bitsOf w 8 8 = 0 ∧ 1 ≤ bitsOf w 0 7 ∧ bitsOf w 0 7 ≤ 64 then .ok (bitsOf w 0 7, bitsOf w 7 1 = 1) else .error 1

namespace State

/-- Bytes that the engine must be able to read: status 3 else. -/
def mustRead (s : State) (d : VDev) (va n : Nat) : Except Nat (List Byte) :=
  match s.engineBytes d va n with
  | some l => .ok l
  | none => .error 3

/-- The global image of a kernel's object, as the memory of the device holds it when the record is read (R136; entry 12). -/
def objectImage (s : State) (d : VDev) (kdesc : Nat) (raw : List Byte) : List Byte :=
  let q := Config.imageSpan kdesc raw
  (s.engineBytes d q.1 q.2).getD (Config.globalImage kdesc)

/-- The kernel descriptor with its channels and, for step mode, its schedule (R274). -/
def readKernel (s : State) (d : VDev) (va : Nat) (nst : Nat) (step : Bool) : Except Nat KDesc := do
  let bs ← s.mustRead d va 128
  let w (i : Nat) : Nat := recWord bs i
  let nch := bitsOf (w 8) 32 7
  let srsz := bitsOf (w 8) 16 16
  needs (bitsOf (w 8) 40 24 == 0 && decide (nch ≤ 64) && srsz % 8 == 0 && decide (8 ≤ srsz) && bitsOf (w 8) 0 16 % 8 == 0) 1
  needs (bitsOf (w 13) 32 32 == 0 && bitsOf (w 15) 32 32 == 0) 1
  needs ((List.range nst).all fun i => w i != 0) 1
  let ch ← s.mustRead d (w 11) (2 * nch)
  let chans ← (List.range nch).mapM fun i => chanOf (natOfBytes ((ch.drop (2 * i)).take 2))
  let nx := if step then bitsOf (w 15) 0 32 else 0
  let xr ← s.mustRead d (w 14) (32 * nx)
  let xs ← (List.range nx).mapM fun i => xferOf ((xr.drop (32 * i)).take 32)
  .ok
    { entries := (List.range 8).map fun i => BitVec.ofNat 64 (w i)
      lmsz := bitsOf (w 8) 0 16
      srsz := srsz
      priv := bitsOf (w 8) 39 1 == 1
      lmimg := BitVec.ofNat 64 (w 9)
      shimg := BitVec.ofNat 64 (w 10)
      chans := chans
      xfer := xs
      raw := bs
      xferRaw := xr
      image := if step then s.objectImage d va bs else [] }

/-- The rules of R266 for a schedule in a launch. -/
def scheduleGood (l : LRec) (kd : KDesc) : Bool :=
  let inStage (st r : Nat) : Bool :=
    (l.grids[st]?).any fun g => decide (st < l.nst) && decide (r < g.gx * g.gy * g.gz * g.wc)
  let inLm (off nw : Nat) : Bool := decide (off + 8 * nw ≤ kd.lmsz + kd.srsz)
  (kd.xfer.all fun x =>
    (x.kind == 1 || (inStage x.sstg x.srank && inLm x.soff x.nw)) && (x.kind == 2 || (inStage x.dstg x.drank && inLm x.doff x.nw)))
    && noConflicts kd.xfer

/-- A dependence word at its home slice: its place, and whether it is satisfied already (R278). -/
def placeDep (s : State) (d : VDev) (p : Dep) : Except Nat Dep :=
  match s.engineLoc d .load p.addr.toNat with
  | none => .error 3
  | some l => .ok { p with pa := l.pa, sat := depHolds p (s.wordAt l.pa) }

/-- The ranges of the partition that allocations reserve. -/
def reserved (s : State) (d : VDev) (more : List Alloc) : List (Nat × Nat) :=
  (allocsOf s d ++ more).map fun a => (a.pra, (a.resv * a.per + 65535) / 65536 * 65536)

/-- Reserve memory for an allocation: the highest free range of the HBM4E part (entry 25). -/
def reserve (s : State) (d : VDev) (more : List Alloc) (a : Alloc) : Except Nat Alloc :=
  let n := (a.resv * a.per + 65535) / 65536 * 65536
  let rs := s.reserved d more
  let ok (e : Nat) : Bool := decide (n ≤ e) && rs.all fun r => decide (e ≤ r.1) || decide (r.1 + r.2 ≤ e - n)
  let ends := (d.hbound :: rs.map Prod.fst).filter ok
  match ends with
  | [] => .error 6
  | e :: es => .ok { a with pra := es.foldl max e - n }

/-- The virtual range of an allocation is free in the device (R288). -/
def rangeFree (s : State) (d : VDev) (more : List Alloc) (a : Alloc) : Bool :=
  let n := a.resv * a.per
  let lo := a.base.toNat
  decide (0x1_0000_0000 ≤ lo) && decide (lo + n ≤ 0x1_0000_0000_0000)
    && ((allocsOf s d ++ more).all fun b =>
      decide (lo + n ≤ b.base.toNat) || decide (b.base.toNat + b.resv * b.per ≤ lo))
    && (List.range ((n + 65535) / 65536)).all fun i =>
      match walk s d (lo + 65536 * i) with
      | .leaf .. => false
      | _ => true

/-- Reserve every allocation of a record in turn. -/
def reserveAll (s : State) (d : VDev) : List Alloc → List Alloc → Except Nat (List Alloc)
  | [], acc => .ok acc
  | a :: rest, acc =>
    if !s.rangeFree d acc a then .error 3
    else
      match s.reserve d acc a with
      | .error e => .error e
      | .ok b => reserveAll s d rest (acc ++ [b])

/-! ## Predictors (R285) -/

/-- The sizes that an entry holds, oldest first. -/
def sizesOf (s : State) (vdev : Nat) (kdesc : Word) (entry : Nat) : List Nat :=
  ((s.preds.find? fun p => p.vdev == vdev && p.kdesc == kdesc && p.entry == entry).elim [] Pred.sizes)

/-- The predicted number of pieces of an entry. -/
def predict (h : List Nat) (l : LRec) : Nat :=
  match h.getLast? with
  | none => l.g
  | some n =>
    match l.pol with
    | 0 => n
    | 1 => h.foldl max 0
    | _ => (n * (100 + l.margin) + 99) / 100

/-- The most pieces that a shape launch can have. -/
def mostPieces (allocs : List Alloc) : Nat := allocs.foldl (fun n a => min n a.resv) (2 ^ 24)

/-- A size is appended to an entry, which holds four; the table of an identity used last comes first, and a device keeps
64 identities. -/
def learn (s : State) (vdev : Nat) (kdesc : Word) (entry n : Nat) : State :=
  let h := s.sizesOf vdev kdesc entry ++ [n]
  let h := h.drop (h.length - 4)
  let mine := s.preds.filter fun p => p.vdev == vdev && p.kdesc == kdesc
  let rest := s.preds.filter fun p => !(p.vdev == vdev && p.kdesc == kdesc)
  let others := ((rest.filter fun p => p.vdev == vdev).map Pred.kdesc).eraseDups
  let keep := others.take 63
  { s with preds :=
      ⟨vdev, kdesc, entry, h⟩ :: (mine.filter fun p => p.entry != entry) ++
        rest.filter fun p => p.vdev != vdev || keep.contains p.kdesc }

/-- The tables of an identity are used: they come first. -/
def usePred (s : State) (vdev : Nat) (kdesc : Word) : State :=
  let mine (p : Pred) : Bool := p.vdev == vdev && p.kdesc == kdesc
  { s with preds := s.preds.filter mine ++ s.preds.filter fun p => !mine p }

end State

end Sys2Proof.Machine
end

