-- ==== Sys2Proof/Machine/Launch.lean ====
section
/-! DEFINITION. Admission of launch records (R275, R277, R278, R281, R282, R285, R288) and the `launch` instruction. -/

namespace Sys2Proof.Machine

namespace State

/-! ## Pre-emption for a launch that finds no position (R281, R283) -/

/-- A running piece that may be pre-empted: its launch, and its strands. -/
structure Victim where
  lnum : Nat
  prio : Nat
  born : Nat
  whos : List Sid
  deriving DecidableEq, Repr

/-- The running pieces of a device; a co-resident launch counts as one (R39). -/
def victimsOf (s : State) (d : VDev) (l : Launch) : List Victim :=
  let mk (ps : List Piece) : Victim :=
    let ws := (ps.filter fun (p : Piece) => p.st == .running).flatMap Piece.at_
    ⟨l.num, l.lrec.prio, (ws.map fun w => (s.strandAt w).ident.born).foldl max 0, ws⟩
  if l.vdev ≠ d.num then []
  else if l.lrec.cores then (if l.pieces.any fun (p : Piece) => p.st == .running then [mk l.pieces] else [])
  else (l.pieces.filter fun (p : Piece) => p.st == .running).map fun p => mk [p]

/-- The youngest first. -/
def youngest : List Victim → List Victim
  | [] => []
  | v :: rest =>
    let r := youngest rest
    r.takeWhile (fun u => decide (v.born < u.born)) ++ v :: r.dropWhile fun u => decide (v.born < u.born)

/-- Positions that a launch lacks to have its next pieces placed: one of each width, or all at once when it is co-resident
(R38). -/
def lacking (l : Launch) : List Wanted :=
  let ws := (stillWanted l).filter fun p => decide (0 < p.2)
  if l.lrec.cores then (if ws.isEmpty then [] else [ws]) else ws.map fun p => [(p.1, 1)]

/-- Pieces of a launch that stand on positions. -/
def standing (l : Launch) : Nat := (l.pieces.filter fun (p : Piece) => p.st == .placed || p.st == .running).length

/-- Pieces of a queue's launches that stand on positions. -/
def standingOf (s : State) (q : Nat) : Nat :=
  ((s.launches.filter fun l => l.origin.any fun o => o.queue == q).map standing).sum

/-- The co-resident launches of a device that are half placed, and the launch itself when it is one (R38). -/
def partly (s : State) (d : VDev) (l : Launch) : List Launch :=
  s.launches.filter fun k =>
    k.vdev == d.num && k.lrec.cores && hasWaiting k && (k.num == l.num || k.pieces.any fun (p : Piece) => p.st == .placed || p.st == .running)

/-- Best-effort work in free mode, not co-resident: it may stand on positions that a queue of class 500 µs reserves (R283). -/
def soft (l : Launch) : Bool := l.lrec.dclass == 0 && !l.lrec.step && !l.lrec.cores

/-- What those and reservations still want of a device: of a queue's reservation what its launches do not stand on, which those
that are accepted and have not started hold (R38, R282, R283). -/
def promised (s : State) (d : VDev) (l : Launch) : Wanted :=
  let queues := s.host.queues.filter fun q =>
    q.2.vdev == d.num && q.2.dclass != 0 && !(l.origin.any fun o => o.queue == q.1) && !(q.2.dclass == 2 && soft l)
  (s.partly d l).flatMap stillWanted ++ queues.map fun q => (q.2.width, q.2.count - s.standingOf q.1)

/-- Those promises can still be kept, with the LM that the half-placed launches need, and on clusters of their kind (R181; entry
51). -/
def keepsPromises (s : State) (d : VDev) (lnum : Nat) : Bool :=
  match s.launchNo lnum with
  | none => true
  | some l =>
    let ks := s.partly d l
    let need := ks.foldl (fun n k => max n (lmNeed k)) 0
    let fit (ok : Nat → Bool) (ws : Wanted) : Bool :=
      let room (c : Nat) : Nat := if s.retired.contains (clusterOf c) || !ok c then 0 else roomFor c (s.takes c) need 4
      ws.isEmpty || s.fits d room ws
    let kind (b : Bool) : Bool := fit (s.fuseFits b) ((ks.filter fun k => k.lrec.fuse == b).flatMap stillWanted)
    fit (fun _ => true) (s.promised d l) && kind false && kind true

/-- The state as it will be once strands have left. -/
def once (s : State) (gone : List Sid) : State :=
  { s with
    strands := s.strands.filter fun q => !gone.contains (Sid.ofKey q.1)
    launches := s.launches.map fun l => { l with pieces := l.pieces.map fun (p : Piece) =>
      if p.st == .running && (p.at_.all fun w => gone.contains w) then { p with st := .saved, at_ := [] } else p } }

/-- Where the members of a piece of a launch can go at a position, once the clusters without a strand are of its kind. -/
def couldTake (s : State) (d : VDev) (l : Launch) (w low : Nat) : Option (List Take) :=
  if !s.isPosition d w low then none
  else (position w low).mapM fun c =>
    if s.fuseFits l.lrec.fuse c || s.clusterEmpty (clusterOf c) then memberPlace c (s.takes c) (lmNeed l) else none

/-- A piece of a launch of width `w` can be placed at a position, and what is promised to others is kept (R38, R282, R283). -/
def canPlace (s : State) (d : VDev) (l : Launch) (w low : Nat) : Bool :=
  (s.couldTake d l w low).any fun ts =>
    (s.modLaunch l.num fun k => { k with pieces := k.pieces ++ [⟨0, 0, .placed, ts.map Take.who, ts.map Take.base, []⟩] }).keepsPromises d l.num

/-- Those positions are free for `l` once the strands `gone` have left, and not promised to others. -/
def wouldFit (s : State) (d : VDev) (l : Launch) (ws : Wanted) (gone : List Sid) : Bool :=
  let s := s.once gone
  if l.lrec.cores then s.fits d (s.coreRoom l.lrec.fuse (lmNeed l) []) ws && s.keepsPromises d l.num
  else ws.all fun q => (s.positions d q.1).any (s.canPlace d l q.1)

/-- The strands of the fewest victims, taken in order, that free the positions. -/
def freeing (s : State) (d : VDev) (l : Launch) (ws : Wanted) (gone : List Sid) : List Victim → Option (List Sid)
  | [] => if s.wouldFit d l ws gone then some gone else none
  | v :: rest => if s.wouldFit d l ws gone then some gone else freeing s d l ws (gone ++ v.whos) rest

/-- Ask strands to leave. -/
def askAll (s : State) (ws : List Sid) (urgent : Bool) : State := ws.foldl (fun s w => s.requestPreempt w urgent) s

/-- The widths at which a launch has pieces to place. -/
def wantedWidths (l : Launch) : List Nat := ((stillWanted l).filter fun p => decide (0 < p.2)).map Prod.fst

/-- The launch's queue is of the class whose reserved positions best-effort work may hold, and its launches stand on fewer than
it reserves (R283). -/
def onLoan (s : State) (l : Launch) : Bool :=
  l.origin.any fun o => s.host.queues.any fun q => q.1 == o.queue && q.2.dclass == 2 && decide (s.standingOf q.1 < q.2.count)

/-- Work that may stand on another queue's reserved positions: best-effort work that came by no bounded queue, or by one whose
launches stand on more positions than it reserves (R283; DESIGN CHOICE, entry 123). -/
def borrows (s : State) (l k : Launch) : Bool :=
  soft k && k.origin.all fun o =>
    !(l.origin.any fun p => p.queue == o.queue)
      && (s.host.queues.find? fun q => q.1 == o.queue).all fun q => q.2.dclass == 0 || decide (q.2.count < s.standingOf q.1)

/-- The running pieces of such work on a device, youngest first. -/
def lentPieces (s : State) (d : VDev) (l : Launch) : List Victim :=
  youngest ((s.launches.filter (s.borrows l)).flatMap (s.victimsOf d))

/-- The strands that must leave so that a runnable launch finds the positions that it lacks, and whether they are asked
urgently: best-effort work on the reserved positions of its queue (R283), or pieces of the lowest level below its own,
youngest first. Where those do not suffice, nothing is pre-empted, and no other level is tried (R281; DESIGN CHOICE, entry
119). -/
def roomVictims (s : State) (d : VDev) (l : Launch) : List (Sid × Bool) :=
  let all := s.launches.flatMap (s.victimsOf d)
  let below := all.filter fun v => decide (v.prio < l.lrec.prio)
  let lowest := below.foldl (fun n v => min n v.prio) 7
  let lent := if s.onLoan l then s.lentPieces d l else []
  if l.runAt.isNone then []
  else
    (lacking l).flatMap fun ws =>
      if s.wouldFit d l ws [] then []
      else
        match (if lent.isEmpty then none else s.freeing d l ws [] lent) with
        | some gone => gone.map fun w => (w, true)
        | none => ((s.freeing d l ws [] (youngest (below.filter fun v => v.prio == lowest))).getD []).map fun w => (w, false)

/-- Pre-empt what stands in the way of a runnable launch that finds no position (R281, R283). -/
def makeRoom (s : State) (d : VDev) (lnum : Nat) : State :=
  match s.launchNo lnum with
  | some l => (s.roomVictims d l).foldl (fun s q => s.requestPreempt q.1 q.2) s
  | none => s

/-! ## Delivery classes (R282) -/

/-- The rank of a delivery class: a tighter bound is greater. -/
def tightness (dclass : Nat) : Nat :=
  match dclass with
  | 1 => 2 | 2 => 1 | _ => 0

/-- Positions of a queue's reservation that a launch needs at first (R282). -/
def firstNeed (l : Launch) : Nat :=
  if l.lrec.cores then (List.range l.lrec.nst).foldl (fun n st => n + stagePieces l st) 0 else 1

/-- Positions of a queue's reservation that its launches hold or are promised. -/
def claimed (s : State) (q : Nat) : Nat :=
  (s.launches.filter fun l => l.origin.any fun o => o.queue == q).foldl (fun n l =>
    n + if l.pieces.isEmpty then firstNeed l else standing l) 0

/-- The accepted launches of a queue that have not started. -/
def unstarted (s : State) (q : Nat) : List Launch :=
  s.launches.filter fun l => (l.origin.any fun o => o.queue == q) && l.pieces.isEmpty

/-- The positions of a queue can take what its unstarted launches and a further one need at first, with what is promised to
others; those of class 500 µs once the best-effort work there has left (R282, R283). -/
def roomAtFirst (s : State) (d : VDev) (q : Nat) (wq : WorkQueue) (l : Launch) : Bool :=
  let s := s.once (if wq.dclass == 2 then (s.lentPieces d l).flatMap Victim.whos else [])
  let ks := s.unstarted q
  let wants := (wq.width, ks.foldl (fun n k => n + firstNeed k) (firstNeed l))
  let slots (c : Nat) : Nat := if s.retired.contains (clusterOf c) then 0 else roomFor c (s.takes c) 0 4
  s.fits d (s.coreRoom l.lrec.fuse (ks.foldl (fun n k => max n (lmNeed k)) (lmNeed l)) []) [wants]
    && s.fits d slots (wants :: s.promised d l)

/-- A bounded queue can take a launch now. -/
def classAdmits (s : State) (d : VDev) (q : Nat) (wq : WorkQueue) (l : Launch) : Bool :=
  decide (tightness l.lrec.dclass ≤ tightness wq.dclass)
    && (wq.dclass == 0 ||
      ((l.lrec.grids.all fun g => g.wc == wq.width)
        && decide (s.claimed q + firstNeed l ≤ wq.count) && s.roomAtFirst d q wq l))

/-! ## Admission -/

/-- Split a run of indices over the dies of a device (R32, R287). -/
def splitRun (d : VDev) (st lo hi : Nat) : List Carousel :=
  let dies := devDies d
  let n := dies.length
  (dies.zip (List.range n)).map fun q =>
    ⟨st, q.1, [(lo + q.2 * (hi - lo) / n, lo + (q.2 + 1) * (hi - lo) / n)]⟩

/-- The launch's channels fit a strand's channel store (R213). -/
def chanBytes (kd : KDesc) : Nat := kd.chans.foldl (fun n c => n + c.1 * (if c.2 then 32 else 8)) 0

/-- The next place in the order in which launches become runnable. -/
def nextRun (s : State) : Nat := (s.launches.filterMap Launch.runAt).foldl (fun n r => max n (r + 1)) 0

/-- A record with all that it names, as a launch with its number still to come; or the status of its refusal (entry 17). An enabled
allocation is mapped for P pieces, no more than it reserves; without a shape P is the number of pieces of stage 0 (R288;
DESIGN CHOICE, entry 120). -/
def checkLaunch (s : State) (d : VDev) (bytes : List Byte) (runtime : Bool) (origin : Option Origin) : Except Nat Launch := do
  let p ← parseRecord bytes
  let kd ← s.readKernel d p.lrec.kdesc.toNat p.lrec.nst p.lrec.step
  let gs ← s.mustRead d p.grids (8 * (p.lrec.nst - 1))
  let more ← (List.range (p.lrec.nst - 1)).mapM fun i => gridOf (recWord gs i) false
  let r := { p.lrec with grids := p.lrec.grids ++ more }
  needs (kd.chans.isEmpty || r.cores) 1
  needs (!r.step || scheduleGood r kd) 1
  needs (!kd.priv || runtime) 1
  let _ ← if r.srec = 0 then .ok [] else s.mustRead d r.srec.toNat kd.srsz
  let deps ← p.deps.mapM (s.placeDep d)
  needs (r.done == 0 || (s.engineLoc d .store r.done.toNat).isSome) 3
  let shapePa ← if r.shp then (match s.engineLoc d .load r.shapew.toNat with | some l => .ok l.pa | none => .error 3) else .ok 0
  let seen := if r.shp then sizeIn (s.wordAt shapePa) else none
  let most := mostPieces p.allocs
  let np := min ((seen.getD (max (predict (s.sizesOf d.num r.kdesc r.pred) r) r.g))) most
  let l : Launch :=
    { num := 0, vdev := d.num, lrec := r, kd := kd, deps := deps, allocs := p.allocs, origin := origin, runAt := none
      age := 0, carousels := [], pieces := [], p := np, shapePa := shapePa, seen := seen, delivered := seen
      superstep := 0, exch := none
      status := if seen.any fun n => decide (np < n) then 17 else 0
      val := 0, open_ := !r.cores, aborted := false }
  let counts : Wanted := (List.range r.nst).map fun st => (stageWidth l st, stagePieces l st)
  needs (decide (lmNeed l ≤ 65536) && decide (chanBytes kd ≤ 4096) && r.grids.all fun g => !(s.positions d g.wc).isEmpty) 2
  needs (!r.cores || s.fits d (fun c => if s.retired.contains (clusterOf c) then 0 else min 4 (65536 / lmNeed l)) counts) 2
  needs (decide ((s.launches.filter fun k => k.vdev == d.num).length < 4096)) 5
  let as ← s.reserveAll d p.allocs []
  .ok
    { l with
      allocs := as.map fun a => { a with size := (min (stagePieces l 0) a.resv * a.per + 65535) / 65536 * 65536 }
      carousels := (List.range r.nst).flatMap fun st => splitRun d st 0 (stagePieces l st) }

/-- Zero part of an allocation's memory. -/
def zeroAlloc (s : State) (d : VDev) (a : Alloc) (from_ dest : Nat) : State :=
  match praToPa d (a.pra + from_) with
  | some pa => s.zeroMem (s.mp.module * 2 ^ 42 + pa) (dest - from_)
  | none => s

/-- The lines of a launch's dependence words. -/
def depLines (l : Launch) : List Target := l.deps.map fun p => .line (p.pa / 32 * 32)

/-- The launch becomes runnable once every dependence word is satisfied (R278): an acquire at module scope has then read each,
for which an older release that is narrower is widened first (R192, R195). It may pre-empt (R281). -/
def runLaunch (s : State) (d : VDev) (l : Launch) : State :=
  if l.runAt.isSome || !l.deps.all (·.sat) then s
  else
    let (wide, s) := s.allWide (depLines l)
    if wide then (s.modLaunch l.num fun l => { l with runAt := some s.nextRun }).makeRoom d l.num else s

/-- Accept a launch: its number (R275), its allocations mapped to zeroed memory (R288), the use of its predictor, to which
a size that stands there already is appended (R285; entry 100), and its start when it is runnable at once (entry 21). -/
def acceptLaunch (s : State) (d : VDev) (l : Launch) : Nat × State :=
  let n := s.nextNum
  let l := { l with num := n }
  let s := l.allocs.foldl (fun s a => s.zeroAlloc d a 0 a.size) s
  let s := match l.seen with
    | some k => s.learn d.num l.lrec.kdesc l.lrec.pred k
    | none => if l.lrec.shp then s.usePred d.num l.lrec.kdesc else s
  let s := { s with
    launches := s.launches ++ [l]
    nextNum := (n + 1) % 2 ^ 32
    fresh := if s.looksFar l then s.fresh + 1 else s.fresh }
  let s := s.modVdev d.num fun d => { d with power := if d.power = .idle then .running else d.power }
  (n, s.runLaunch d l)

/-- The launch engine answers a record: status and launch number. A record from a program carries no delivery class
(R277); one from a host meets its queue's reservation (R282). -/
def admitRecord (s : State) (d : VDev) (bytes : List Byte) (runtime : Bool) (origin : Option Origin) : Nat × Nat × State :=
  match s.checkLaunch d bytes runtime origin with
  | .error e => (e, 0, s)
  | .ok l =>
    let ok := match origin with
      | none => l.lrec.dclass == 0
      | some o => (s.host.queues.find? fun q => q.1 == o.queue).any fun q => s.classAdmits d o.queue q.2 l
    if !ok then (4, 0, s)
    else
      let (n, s) := s.acceptLaunch d l
      (0, n, s)

/-- What `launch` writes to X[A] (R277). -/
def launchWord (status num : Nat) : Word := BitVec.ofNat 64 (status + if status = 0 then 2 ^ 32 * num else 0)

/-- DCLASS of a record. -/
def recClass (bytes : List Byte) : Nat := bitsOf (recWord bytes 0) 11 2

/-- The engine answers a program's record. -/
def answer (s : State) (who : Sid) (bytes : List Byte) : Word × State :=
  match s.vdevOf who with
  | none => (launchWord 3 0, s)
  | some d =>
    if recClass bytes ≠ 0 then (launchWord 4 0, s)
    else
      let (st, n, s) := s.admitRecord d bytes ((s.strandAt who).ident.lnum == d.runtime) none
      (launchWord st n, s)

/-- The first `n` words at an address, as plain loads make them (R277). -/
def recordBytes (s : State) (va : Word) : Nat → Eff (List Byte)
  | 0 => .ok [] s
  | n + 1 => (s.loadAt va 8 MemMod.none).bind fun bs s => (recordBytes s (va + 8) n).map fun l => bs ++ l

/-- The places of those words: a translation fault is taken although the access stalls (R302). -/
def recordPlaces (s : State) (va : Word) : Nat → Eff Unit
  | 0 => .ok () s
  | n + 1 => (place s .load false va 8).bind fun _ s => recordPlaces s (va + 8) n

/-- `launch` (R277, R374). -/
def submitLaunch (s : State) (a b : XReg) : Eff Unit :=
  let va := s.x b
  (s.outside 4).bind fun _ s =>
    if va.toNat % 8 ≠ 0 then .trap 2 va 0
    else
    match ((List.range 16).map fun i => va + BitVec.ofNat 64 (8 * i)).find? fun a => !isGlobal a with
    | some a => .trap 7 a 0
    | none =>
      s.notStep.bind fun _ s =>
        if s.provisional s.me then (s.recordPlaces va 16).bind fun _ s => s.provStall
        else
          match s.strand.sync.reply with
          | some w => .ok () (s.setX a w)
          | none =>
            if s.submits.any fun p => p.who == some s.me then .hold s false 0
            else
              (s.releaseAction 5).bind fun _ s =>
                (s.recordBytes va 16).bind fun bytes s =>
                  if s.turn.post then
                    .hold { s with submits := s.submits ++ [⟨some s.me, none, s.strand.ident.vdev, va, bytes⟩] } false 0
                  else
                    let (w, s) := s.answer s.me bytes
                    .ok () (s.setX a w)

/-- The launch engine takes the next submitted record of a program. -/
def admitSubmit (s : State) (n : Nat) : State :=
  match s.submits[n]? with
  | some ⟨some w, _, _, _, bytes⟩ =>
    let (r, s) := { s with submits := s.submits.eraseIdx n }.answer w bytes
    s.modStrand w fun t => t.modSync fun y => { y with reply := some r }
  | _ => s

/-- A dependence word has been satisfied: its slice says so, of this module or of another. -/
def satisfyDep (s : State) (lnum i : Nat) : State :=
  let s := s.lookFar lnum
  match s.launchNo lnum with
  | none => s
  | some l =>
    match l.deps[i]?, s.vdevNo l.vdev with
    | some p, some d => if p.sat then s.runLaunch d l else s
    | _, _ => s

end State

/-- R277, R374. -/
def execLaunch (a b : XReg) (s : State) : Out := finish s (s.submitLaunch a b)
/-- DEPENDENCE_SATISFIED (R278). -/
def execDependenceSatisfied (lnum i : Nat) (s : State) : Out := .next (s.satisfyDep lnum i)

end Sys2Proof.Machine
end

