-- ==== Sys2Proof/Machine/Turns.lean ====
section
/-! DEFINITION. What an instruction boundary brings a strand (R64), the issue order of a core (R290 to R292), and the time
that passes on it. -/

namespace Sys2Proof.Machine

namespace State

/-! ## Asynchronous causes (R64) -/

/-- An operation of a form that does not block is in flight (R202): an atomic, a barrier message, a launch
record (R277). -/
def inFlight (s : State) : Bool :=
  (s.blocked.any fun q => q.2.1 == s.me && q.2.2) || (s.submits.any fun p => p.who == some s.me) ||
    s.flights.any fun f => f.src == s.me && (match f.msg with | .barArr .. => true | .barCfg .. => true | _ => false)

/-- The asynchronous cause that the executing strand takes at this boundary: code, value, and whether into M. None while
an operation is in flight, an `ldf` has been served, or an `idle` has still to retire (R370). -/
def asyncDue (s : State) : Option (Nat × Word × Bool) :=
  let t := s.strand
  if t.sync.reply.isSome || s.inFlight then none
  else
    let first (code : Nat) (ok toM : Bool) : Option (Nat × Word × Bool) :=
      if ok then (t.causes.find? fun c => c.1 == code).map fun c => (code, c.2, toM) else none
    let intoM := t.mode != .M || t.mBank.status.getLsbD 0
    let intoS := t.mode == .U || (t.mode == .S && t.sBank.status.getLsbD 0)
    let urgent := t.preq.any (·.urgent)
    let left : Option (Nat × Word × Bool) := if intoS then t.sPend.head?.map fun v => (5, v, false) else none
    ((((left.or (first 5 intoM true)).or (first 4 intoS false)).or (first 2 intoS false)).or (first 3 intoS false)).or
      (if urgent then first 1 intoM true else first 1 (t.mode == .U) false)

/-- The next host interrupt that the E-die holds for a strand becomes pending (R64). -/
def nextEvent (s : State) (w : Sid) : State :=
  if ((s.strandAt w).causes.any fun c => c.1 == 3) then s
  else
    match s.vdevOf w with
    | none => s
    | some d =>
      let i := (s.strandAt w).ident
      match d.evPend.find? fun e => e.1 == (⟨i.lnum, i.stage, i.rank⟩ : Rank) with
      | none => s
      | some e => (s.modVdev d.num fun d => { d with evPend := d.evPend.erase e }).raiseAsync w 3 e.2

/-- Take the cause (R61, R64): the oldest raising goes, a pre-emption request is answered once the engine work is quiesced
(R74), and the E-die delivers the next host interrupt. -/
def takeDue (s : State) (code : Nat) (val : Word) (toM : Bool) : State :=
  let s := s.withStrand fun t =>
    if code = 5 ∧ !toM then { t with sPend := t.sPend.tail } else { t with causes := t.causes.erase (code, val) }
  let s := if code = 1 then s.quiesce s.me else s
  let s := s.takeAsync code val toM
  let s := if code = 1 then s.withStrand fun t => { t with preq := none } else s
  if code = 3 then s.nextEvent s.me else s

/-! ## Issue order (R290 to R292) -/

def moveBack (k : Nat) (l : List Nat) : List Nat := if l.contains k then l.erase k ++ [k] else l

def roundRobin (s : State) (n k : Nat) : Bool := (s.strandAt ⟨n, k⟩).csr.issuepol.getLsbD 0

/-- The issue order of a core once a strand that issued 64 times in a row has gone to the back. -/
def issueOrder (s : State) (n : Nat) : List Nat :=
  let c := s.coreAt n
  match c.recent with
  | some g => if 64 ≤ c.run then moveBack g c.order else c.order
  | none => c.order

/-- The slots in the order in which the core tries them. -/
def candidates (s : State) (n : Nat) : List Nat :=
  let c := s.coreAt n
  let l := s.issueOrder n
  match c.recent with
  | some g => if c.run < 64 ∧ !s.roundRobin n g ∧ l.contains g then g :: l.erase g else l
  | none => l

/-- The core has issued from slot `k`. -/
def issued (s : State) (n k : Nat) : State :=
  let l := s.issueOrder n
  let rr := s.roundRobin n k
  s.modCore n fun c =>
    { c with
      order := if rr then moveBack k l else l
      run := if c.recent = some k then c.run + 1 else 1
      recent := some k }

/-- The clocks of a core stand still: the module is frozen, or its device is Idle or Boxed, or stopped (R304, R327, R328). -/
def gated (s : State) (n : Nat) : Bool := s.mp.frozen || (s.coreVdev n).any fun d => d.power != .running || s.stopped d.num

/-- Time passes on a core: its CYCLE, the waits held there, its requests and its miss entries (entry 5); and its bound queue
registers act, unless the turn leaves that for later (R220). -/
def tick (s : State) (n : Nat) : State :=
  let s := if s.turn.post || s.gated n then s else s.serveBindings n
  let d := if s.gated n then 0 else s.turn.dt
  let s := s.modCore n fun c =>
    { c with
      cycle := c.cycle + BitVec.ofNat 64 d
      miss := c.miss.map fun m => { m with age := m.age + d } }
  { s with
    strands := s.strands.map fun (q : Nat × Strand) =>
      if q.1 / 4 = n ∧ q.2.live then
        (q.1, { q.2 with
          sync := if q.2.sync.held && (q.2.sync.bounded || q.2.sync.sval != 0) then { q.2.sync with waited := q.2.sync.waited + d } else q.2.sync
          preq := q.2.preq.map fun p => { p with age := p.age + d } })
      else q }

end State

end Sys2Proof.Machine
end

