-- ==== Sys2Proof/Machine/Carousels.lean ====
section
/-! DEFINITION. Placement: what a free position takes from the carousels (R32 to R35, R280), the start of a piece (R36, R38,
R274), the return of saved strands (R39, R72), the quantum (R281) and the fusing of clusters (R181). -/

namespace Sys2Proof.Machine

namespace State

/-! ## Which stage a free position serves -/

/-- Where the members of a piece of a launch would go at a position; `none` when it is not free (R31, R181). -/
def takesFor (s : State) (d : VDev) (l : Launch) (w low : Nat) : Option (List Take) :=
  if !s.isPosition d w low then none
  else (position w low).mapM fun c => if s.fuseFits l.lrec.fuse c then memberPlace c (s.takes c) (lmNeed l) else none

/-- The oldest runnable launch of a level that has a piece to place (R280). -/
def oldestWaiting (s : State) (vdev prio : Nat) : Option Launch :=
  (s.launches.filter fun l => l.vdev == vdev && l.lrec.prio == prio && l.runAt.isSome && hasWaiting l).foldl (fun r l =>
    match r with
    | none => some l
    | some k => if l.runAt.getD 0 < k.runAt.getD 0 then some l else some k) none

/-- A launch of age 16 keeps its level and those below off the positions of its widths (R280). -/
def aged (s : State) (d : VDev) (l : Launch) (w low : Nat) : Bool :=
  s.launches.any fun k =>
    k.vdev == d.num && k.num != l.num && decide (16 ≤ k.age) && decide (l.lrec.prio ≤ k.lrec.prio) &&
      (wantedWidths k).any fun v => (position w low).any fun c => s.isPosition d v (c / v * v)

/-- The head index of runs, and what is left. -/
def takeHead : List (Nat × Nat) → Option (Nat × List (Nat × Nat))
  | [] => none
  | (a, b) :: rest => if a < b then some (a, (a + 1, b) :: rest) else takeHead rest

/-- The tail index of runs, and what is left. -/
def takeTail (l : List (Nat × Nat)) : Option (Nat × List (Nat × Nat)) :=
  match (l.filter fun r => r.1 < r.2).getLast? with
  | none => none
  | some (a, b) => some (b - 1, (l.filter fun r => r.1 < r.2).dropLast ++ [(a, b - 1)])

/-- Indices on a carousel. -/
def onCarousel (c : Carousel) : Nat := c.runs.foldl (fun n r => n + (r.2 - r.1)) 0

def carousel? (l : Launch) (st die : Nat) : Option Carousel := l.carousels.find? fun c => c.stage == st && c.die == die

/-- The carousel from which a position of a die steals (R34). -/
def stealFrom (l : Launch) (st die : Nat) : Option Carousel :=
  (l.carousels.filter fun c => c.stage == st && c.die != die && decide (0 < onCarousel c)).foldl (fun r c =>
    match r with
    | none => some c
    | some k => if onCarousel k < onCarousel c ∨ (onCarousel k = onCarousel c ∧ c.die < k.die) then some c else some k) none

/-- A position goes to a launch: the oldest waiting launch of its level ages, and its own age is 0 again (R280). -/
def noteAge (s : State) (l : Launch) : State :=
  let s := match s.oldestWaiting l.vdev l.lrec.prio with
    | some k => if k.num = l.num then s else s.modLaunch k.num fun k => { k with age := k.age + 1 }
    | none => s
  s.modLaunch l.num fun l => { l with age := 0 }

/-- An index goes to a position: the piece is placed there, and ages move (R280). -/
def handOut (s : State) (l : Launch) (st : Nat) (from_ : Carousel) (got : Nat × List (Nat × Nat)) (ts : List Take) : State :=
  (s.noteAge l).modLaunch l.num fun l => { l with
    carousels := replaceFirst (fun c => c.stage == st && c.die == from_.die) (fun c => { c with runs := got.2 }) l.carousels
    pieces := l.pieces ++ [⟨st, got.1, .placed, ts.map Take.who, ts.map Take.base, []⟩] }

/-- Pieces of a launch may be placed on a device: its power is on, it is not to leave its node, and while it wakes the runtime alone
is placed (R304, R307, R309). -/
def mayPlace (d : VDev) (l : Launch) : Bool := !d.moving && d.power != .boxed && (!d.waking || l.num == d.runtime)

/-- A launch may have its pieces placed: it is runnable, and a stage's saved pieces come first. -/
def placeable (l : Launch) (st w : Nat) : Bool :=
  l.runAt.isSome && stageWidth l st == w && decide (0 < waitingIdx l st) && savedPieces l st == 0

/-- What a position of a device makes of a launch stage: the state with the index handed out, by a pull or by a steal. -/
def serve (s : State) (d : VDev) (l : Launch) (st w low : Nat) : Option (Bool × State) :=
  if !mayPlace d l || !placeable l st w || s.aged d l w low then none
  else
    (s.takesFor d l w low).bind fun ts =>
      let own := (carousel? l st (dieOf low)).bind fun c => (takeHead c.runs).map fun g => (false, s.handOut l st c g ts)
      let far := (stealFrom l st (dieOf low)).bind fun c => (takeTail c.runs).map fun g => (true, s.handOut l st c g ts)
      (own.or far).bind fun r => if r.2.keepsPromises d l.num then some r else none

/-- One launch stage comes before another at a position (R280). -/
def before (a b : Launch × Nat) : Bool :=
  decide (b.1.lrec.prio < a.1.lrec.prio)
    || (a.1.lrec.prio == b.1.lrec.prio
      && (decide (a.1.runAt.getD 0 < b.1.runAt.getD 0) || (a.1.num == b.1.num && decide (a.2 < b.2))))

/-- A launch has saved pieces of a stage, and the position would take one of them (R280). -/
def claimsSaved (s : State) (d : VDev) (l : Launch) (st w low : Nat) : Bool :=
  mayPlace d l && l.runAt.isSome && stageWidth l st == w && decide (0 < savedPieces l st) && !s.leaving l.num && !s.aged d l w low
    && (s.takesFor d l w low).isSome && s.keepsPromises d l.num

/-- The launch stages that a position could serve, each with what becomes of it: an index handed out, or `none` where a
saved piece comes first (R280). -/
def offers (s : State) (d : VDev) (w low : Nat) : List ((Launch × Nat) × Option (Bool × State)) :=
  ((s.launches.filter fun l => l.vdev == d.num).flatMap fun l => (List.range l.lrec.nst).map fun st => (l, st)).filterMap fun q =>
    if s.claimsSaved d q.1 q.2 w low then some (q, none) else (s.serve d q.1 q.2 w low).map fun r => (q, some r)

/-- The stage that a free position serves, and the outcome (R280; entry 59). -/
def choice (s : State) (d : VDev) (w low : Nat) : Option (Bool × State) :=
  ((s.offers d w low).foldl (fun r q =>
    match r with
    | none => some q
    | some k => if before q.1 k.1 then some q else some k) none).bind Prod.snd

/-- The positions of a device on the die of a core that come before it, of every width, by their width and their lowest core. -/
def lowerPositions (d : VDev) (low : Nat) : List (Nat × Nat) :=
  widths.flatMap fun w => ((List.range ((low + w - 1) / w)).map fun k => (w, w * k)).filter fun q =>
    dieOf q.2 == dieOf low && inVdev d q.2

/-- The request of a free position. A die's positions are served in ascending order of their lowest cores, whatever their
widths, with an index or with a saved piece (R33, R280). -/
def request (s : State) (w low : Nat) : Option (Bool × State) :=
  match s.vdevs.find? (inVdev · low) with
  | none => none
  | some d => if (lowerPositions d low).any fun q => !(s.offers d q.1 q.2).isEmpty then none else s.choice d w low

/-! ## Start of a piece (R36) -/

/-- Bytes that no rule gives: free values (entry 26). -/
def freeBytes (s : State) (n : Nat) : List Byte × State :=
  ((List.range ((n + 7) / 8)).flatMap (fun i => bytesOfNat 8 (Config.freeWord (s.fresh + i)).toNat) |>.take n,
    { s with fresh := s.fresh + (n + 7) / 8 })

/-- Bytes at an address of a device, free values where it cannot be read. -/
def bytesOr (s : State) (d : VDev) (va n : Nat) : List Byte × State :=
  match s.engineBytes d va n with
  | some l => (l, s)
  | none => s.freeBytes n

/-- The `.lm` image and the shape record of a member, written into its core's LM (R36, R178). -/
def loadLm (s : State) (d : VDev) (l : Launch) (core base : Nat) : State :=
  let (img, s) := s.bytesOr d l.kd.lmimg.toNat l.kd.lmsz
  let (rec_, s) := s.bytesOr d (if l.lrec.srec = 0 then l.kd.shimg else l.lrec.srec).toNat l.kd.srsz
  let bs := img ++ rec_
  s.lmPortWrite core (cellsAt base bs) ((List.range (bs.length / 8)).map fun i => (base / 8 + i, true)) none

/-- The group of a strand by the region scope (R225): the instance of the scope in which its core lies. -/
def groupNo (rscope core : Nat) : Nat :=
  match rscope with
  | 1 => fieldOf core | 2 => dieOf core | _ => 0

/-- A strand at its start (R36). An index of 65,536 or more stands in PCOORD with its high bits above X (entry 82). -/
def newStrand (fw : List Byte) (d : VDev) (l : Launch) (p : Piece) (m w core base born : Nat) : Strand :=
  let g : Grid := if l.lrec.shp && p.stage == 0 then ⟨l.p, 1, 1, w⟩ else (l.lrec.grids[p.stage]?).getD ⟨1, 1, 1, w⟩
  { Strand.reset with
    live := true
    pc := l.kd.entries.getD p.stage 0 &&& ~~~1
    mode := if l.kd.priv then .S else .U
    csr := { Csrs.reset with
      fpc := l.lrec.fpc
      rngkeylo := l.lrec.keylo
      rngkeyhi := l.lrec.keyhi
      pcoord := BitVec.ofNat 64 (p.idx % g.gx + 2 ^ 16 * (p.idx / g.gx % g.gy) + 2 ^ 32 * (p.idx / (g.gx * g.gy)))
      member := BitVec.ofNat 64 (m + 256 * w)
      stage := BitVec.ofNat 64 p.stage
      launch := BitVec.ofNat 64 l.num
      shapep := BitVec.ofNat 64 (base + l.kd.lmsz) }
    sBank := { Bank.reset with tvec := d.tvec &&& ~~~1 }
    mBank := { Bank.reset with tvec := Config.mtvec fw, status := writeMstatus 0 (Config.mstatus fw), scratch := Config.mscratch fw }
    region := { Region.reset with grp := groupNo l.lrec.rscope core }
    ident :=
      { vdev := d.num, lnum := l.num, stage := p.stage, piece := p.idx, member := m, width := w, rank := p.idx * w + m
        lmBase := base, lmSize := lmNeed l, ssArr := 0, born := born } }

/-- A held write stands at a word of [base, base + n) of a core's LM: what the launch engine writes there waits (R195). -/
def lmHeldUp (s : State) (core base n : Nat) : Bool :=
  s.blocked.any fun q => match q.1 with
    | .lm c off => c == core && decide (base ≤ off + 7) && decide (off < base + n)
    | .line _ => false

/-- One member becomes resident; the core's L1 and its instruction cache hold nothing older, and it joins no read sent before
(R184, R278, R374). -/
def startMember (s : State) (d : VDev) (l : Launch) (p : Piece) (w : Nat) (who : Sid) (m base : Nat) : State :=
  let s := (((s.atOnce.invalidateAll who.core).readAgain who.core fun _ => true).barStrand who).loadLm d l who.core base
  let s := (s.parkRegs who).setStrand who (newStrand s.mp.firmware d l p m w who.core base s.fresh)
  let s := s.modCore who.core fun c => { c with order := c.order ++ [who.slot] }
  { s with fresh := s.fresh + 1 }

/-- Every piece of a co-resident launch is resident (R38). -/
def allResident (l : Launch) : Bool :=
  (List.range l.lrec.nst).all (fun st => waitingIdx l st == 0) && l.pieces.all fun (p : Piece) => p.st != .placed && p.st != .saved

def openLaunch (s : State) (lnum : Nat) : State :=
  s.modLaunch lnum fun l => if l.lrec.cores then { l with open_ := allResident l } else l

def setPiece (s : State) (lnum st idx : Nat) (f : Piece → Piece) : State :=
  s.modLaunch lnum fun l => { l with pieces := l.pieces.map fun (p : Piece) => if p.stage = st ∧ p.idx = idx then f p else p }

/-- A placed piece can start: its device has power, and nothing is held at the words that it is given. -/
def canStart (s : State) (l : Launch) (p : Piece) : Bool :=
  (s.vdevNo l.vdev).all (mayPlace · l) && !(p.at_.zip p.lm).any fun q => s.lmHeldUp q.1.core q.2 (lmNeed l)

/-- PIECE_START: every member of a placed piece becomes resident (R36, R38). -/
def startPiece (s : State) (lnum st idx : Nat) : State :=
  match s.launchNo lnum with
  | none => s
  | some l =>
    match s.vdevNo l.vdev, l.pieces.find? fun (p : Piece) => p.stage == st && p.idx == idx && p.st == .placed with
    | some d, some p =>
      if !s.canStart l p then s
      else
      let keep := s.turn
      let ms := (p.at_.zip p.lm).zip (List.range p.at_.length)
      let s := ms.foldl (fun s q => s.startMember d l p (stageWidth l st) q.1.1 q.2 q.1.2) s
      let s := s.setPiece lnum st idx fun p => { p with st := .running }
      { s.openLaunch lnum with turn := keep }
    | _, _ => s

/-! ## Return of saved strands -/

/-- A saved piece that is to return: its stage, its index, and its position. -/
structure Return where
  stage : Nat
  piece : Nat
  width : Nat
  low   : Nat
  deriving DecidableEq, Repr

/-- The saved strand of a stage and rank of a launch. -/
def savedAt (s : State) (lnum stage rank : Nat) : Option Saved :=
  s.saved.find? fun v => v.strand.ident.lnum == lnum && v.strand.ident.stage == stage && v.strand.ident.rank == rank

/-- Every saved member of the pieces named is named, and of a co-resident launch every saved strand (R39). -/
def namesWhole (s : State) (l : Launch) (places : List Sys2Proof.Place) : Bool :=
  (s.saved.filter fun v => v.strand.ident.lnum == l.num).all fun v =>
    let i := v.strand.ident
    let named := places.any fun q => q.stage == i.stage && q.rank == i.rank
    named || (!l.lrec.cores && !places.any fun q => q.stage == i.stage && q.rank / i.width == i.piece)

/-- A saved strand goes to a slot of a core that has room for it, at the position of its piece, whose L1 holds nothing older than
what the strand has seen (R188); the claims of its piece on wires go with it, behind those that others have made meanwhile
(R210; entries 41 and 53). -/
def restore (s : State) (d : VDev) (l : Launch) (q : Sys2Proof.Place) : Option State :=
  match s.savedAt l.num q.stage q.rank with
  | none => none
  | some v =>
    let keep := s.turn
    let i := v.strand.ident
    let low := q.dest.core - i.member
    let ts := s.takes q.dest.core
    let sib := (l.pieces.find? fun (p : Piece) => p.stage == i.stage && p.idx == i.piece).elim [] Piece.at_
    if low + i.member ≠ q.dest.core ∨ !s.isPosition d i.width low ∨ !s.fuseFits l.lrec.fuse q.dest.core
        ∨ v.kept.any (fun k => !s.canPutBack q.dest k) ∨ 4 ≤ q.dest.slot ∨ ts.any (fun t => t.who.slot == q.dest.slot)
        ∨ sib.any (fun w => w.core / i.width * i.width != low) then none
    else
      ((lmGap ts i.lmSize).filter fun b => v.kept.isNone || !s.lmHeldUp q.dest.core b i.lmSize).map fun b =>
        let t := { v.strand with
          ident := { i with lmBase := b, born := s.fresh }
          region := { v.strand.region with back := v.strand.region.opened && rgsState v.strand.csr.rgs == 2 }
          csr := { v.strand.csr with shapep := BitVec.ofNat 64 (b + l.kd.lmsz) } }
        let old := (v.from_.core - i.member) / i.width * i.width
        let s := ((s.atOnce.invalidateAll q.dest.core).readAgain q.dest.core fun _ => true).barStrand q.dest
        let s := { s with turn := keep }.setStrand q.dest t
        let s := match v.kept with
          | some k => s.putBack v k q.dest
          | none => s
        let s := s.nextEvent q.dest
        let s := s.modCore q.dest.core fun c => { c with order := c.order ++ [q.dest.slot] }
        let s := s.setPiece l.num i.stage i.piece fun p => { p with st := .running, at_ := p.at_ ++ [q.dest] }
        { s with
          saved := s.saved.filter fun u => !(u.strand.ident == i)
          fresh := s.fresh + 1
          wires :=
            let mine (c : WireClaim) : Bool := sib.isEmpty && c.lnum == l.num && c.stage == i.stage && c.piece == i.piece
            (s.wires.filter fun c => !mine c) ++ (s.wires.filter mine).map fun c =>
              let moved (n : Nat) : Nat :=
                if n < 16 then n + rowOf low - rowOf old else n + 16 * (rowOf low / 4) - 16 * (rowOf old / 4)
              { c with field := fieldOf low, rows := c.rows.map moved, plane := c.plane.map fun (k : Nat × Bool) => (moved k.1, k.2) } }

/-- The pieces that places name, each with its position. -/
def resumed (s : State) (lnum : Nat) (places : List Sys2Proof.Place) : List Return :=
  (places.filterMap fun q => (s.savedAt lnum q.stage q.rank).map fun v =>
    let i := v.strand.ident
    (⟨q.stage, i.piece, i.width, q.dest.core - i.member⟩ : Return)).eraseDups

/-- Two positions, by width and lowest core, have a core in common. -/
def positionsMeet (a b : Nat × Nat) : Bool := decide (a.2 < b.2 + b.1) && decide (b.2 < a.2 + a.1)

/-- A position that a saved piece would take goes to it: no aged launch bars it, none that comes before it could use it (R280),
and no lower position that is left free is served first, with whatever (R33). -/
def mayReturn (s : State) (d : VDev) (l : Launch) (all : List Return) (q : Return) : Bool :=
  let first (p : Nat × Nat) : Bool := !(all.any fun r => positionsMeet (r.width, r.low) p) && !(s.offers d p.1 p.2).isEmpty
  !s.aged d l q.width q.low && !((s.offers d q.width q.low).any fun k => before k.1 (l, q.stage)) && !(lowerPositions d q.low).any first

/-- The places taken, each strand with its own. -/
def restoreAll (s : State) (d : VDev) (lnum : Nat) (places : List Sys2Proof.Place) : Option State :=
  places.foldl (fun r q => r.bind fun s => (s.launchNo lnum).bind fun l => s.restore d l q) (some s)

/-- The places of one of the pieces that they name. -/
def placesIn (s : State) (lnum : Nat) (places : List Sys2Proof.Place) (q : Return) : List Sys2Proof.Place :=
  places.filter fun p => p.stage == q.stage && (s.savedAt lnum p.stage p.rank).any fun v => v.strand.ident.piece == q.piece

/-- Saved pieces return one after another, each where it may then be placed, and ages move with each (R33, R280). -/
def returnAll (s : State) (d : VDev) (lnum : Nat) (places : List Sys2Proof.Place) : Option State :=
  let ps := s.resumed lnum places
  ps.foldl (fun r q => r.bind fun t => (t.launchNo lnum).bind fun l =>
    if t.mayReturn d l ps q then (t.noteAge l).restoreAll d lnum (t.placesIn lnum places q) else none) (some s)

/-- STRAND_RESUME: the launch engine places saved strands again, before they issue (R39, R72), as any placement is made:
promises to others are kept (R38, R280). -/
def tryResume (s : State) (lnum : Nat) (places : List Sys2Proof.Place) : Option State :=
  (s.launchNo lnum).bind fun l => (s.vdevNo l.vdev).bind fun d =>
    if !mayPlace d l || l.runAt.isNone || s.leaving lnum || !s.namesWhole l places || (s.resumed lnum places).isEmpty then none
    else
      (s.returnAll d lnum places).bind fun t => if t.keepsPromises d lnum then some (t.openLaunch lnum) else none

def resume (s : State) (lnum : Nat) (places : List Sys2Proof.Place) : State := (s.tryResume lnum places).getD s

/-- Places for the members of a saved piece at a position. -/
def pieceAt (s : State) (d : VDev) (lnum : Nat) (p : Piece) (low : Nat) : Option (List Sys2Proof.Place × State) :=
  (s.saved.filter fun v => v.strand.ident.lnum == lnum && v.strand.ident.stage == p.stage && v.strand.ident.piece == p.idx).foldl
    (fun r v => r.bind fun (acc, s) =>
      let core := low + v.strand.ident.member
      (freeSlot (s.takes core)).bind fun k => (s.launchNo lnum).bind fun l =>
        let q : Sys2Proof.Place := ⟨p.stage, v.strand.ident.rank, ⟨core, k⟩⟩
        (s.restore d l q).map fun s => (acc ++ [q], s))
    (some ([], s))

/-- Places for saved pieces, one after another. -/
def piecesAt (s : State) (d : VDev) (l : Launch) (acc : List Sys2Proof.Place) : List Piece → Option (List Sys2Proof.Place)
  | [] => some acc
  | p :: rest =>
    ((s.positions d (stageWidth l p.stage)).findSome? fun low => s.pieceAt d l.num p low).bind fun q =>
      piecesAt q.2 d l (acc ++ q.1) rest

/-- Where saved pieces of a launch can return: all of them when it is co-resident (R39), else the first that can. -/
def autoPlaces (s : State) (d : VDev) (l : Launch) : Option (List Sys2Proof.Place) :=
  let ps := l.pieces.filter fun (p : Piece) => p.st == .saved
  let ok (q : List Sys2Proof.Place) : Bool := (s.tryResume l.num q).isSome
  if ps.isEmpty || s.leaving l.num then none
  else if l.lrec.cores then (s.piecesAt d l [] ps).bind fun q => if ok q then some q else none
  else ps.findSome? fun p => (s.piecesAt d l [] [p]).bind fun q => if ok q then some q else none

/-! ## The quantum, and fused clusters -/

/-- QUANTUM_EXPIRY: a launch that has waited longer than the quantum takes the place of the piece of its level that has
been resident longest (R281). -/
def quantumOver (s : State) (lnum : Nat) : State :=
  match s.launchNo lnum with
  | none => s
  | some l =>
    match s.vdevNo l.vdev with
    | none => s
    | some d =>
      if l.runAt.isNone || !(lacking l).any fun ws => !s.wouldFit d l ws [] then s
      else
        let vs := youngest ((s.launches.flatMap (s.victimsOf d)).filter fun v => v.prio == l.lrec.prio)
        match vs.getLast? with
        | some v => s.askAll v.whos false
        | none => s.makeRoom d lnum

/-- A launch with pieces to place wants clusters of a kind (R181). -/
def wantsKind (s : State) (cl : Nat) (fuse : Bool) : Bool :=
  s.launches.any fun l =>
    l.lrec.fuse == fuse && l.runAt.isSome && hasWaiting l && (s.vdevNo l.vdev).any fun d => inVdev d (coreOfCluster cl 0)

/-- No strand is on the cluster, nor about to start there. -/
def clusterFree (s : State) (cl : Nat) : Bool := (List.range 16).all fun i => (s.takes (coreOfCluster cl i)).isEmpty

/-- Write back and invalidate the L1s of a cluster. -/
def flushCluster (s : State) (cl : Nat) : State :=
  let keep := s.turn
  let s := (List.range 16).foldl (fun s i => s.invalidateAll (coreOfCluster cl i)) s.atOnce
  { s with turn := keep }

end State

/-- CAROUSEL_PULL (R33, R280). -/
def execCarouselPull (core w : Nat) (s : State) : Out :=
  .next (match s.request w core with | some (false, t) => t | _ => s)
/-- CAROUSEL_STEAL (R34). -/
def execCarouselSteal (core w : Nat) (s : State) : Out :=
  .next (match s.request w core with | some (true, t) => t | _ => s)
/-- PIECE_START (R36). -/
def execPieceStart (lnum stage idx : Nat) (s : State) : Out := .next (s.startPiece lnum stage idx)
/-- AGE_LIMIT (R280): an age stops at 16, where it keeps others off. -/
def execAgeLimit (lnum : Nat) (s : State) : Out := .next (s.modLaunch lnum fun l => { l with age := min l.age 16 })
/-- STRAND_RESUME (R39, R72). -/
def execStrandResume (lnum : Nat) (places : List Sys2Proof.Place) (s : State) : Out := .next (s.resume lnum places)
/-- QUANTUM_EXPIRY (R281). -/
def execQuantumExpiry (lnum : Nat) (s : State) : Out := .next (s.quantumOver lnum)
/-- CLUSTER_FUSE (R181). -/
def execClusterFuse (cl : Nat) (s : State) : Out :=
  .next (if !s.fused.contains cl && s.clusterFree cl && s.wantsKind cl true then
      let s := s.flushCluster cl
      { s with fused := cl :: s.fused }
    else s)
/-- CLUSTER_UNFUSE (R181). -/
def execClusterUnfuse (cl : Nat) (s : State) : Out :=
  .next (if s.fused.contains cl && s.clusterFree cl && s.wantsKind cl false then
      let s := s.flushCluster cl
      { s with fused := s.fused.filter (· != cl) }
    else s)

end Sys2Proof.Machine
end

