-- ==== Sys2Proof/Machine/Channels.lean ====
section
/-! DEFINITION. Channels (R213 to R217, R401, R411). -/

namespace Sys2Proof.Machine

namespace State

/-- The strand of a rank, resident or saved with its launch (R202). -/
def ofRank (s : State) (r : Rank) : Option Strand :=
  ((s.strands.map Prod.snd).find? (ofRankIn r)).or ((s.saved.map Saved.strand).find? (ofRankIn r))

def modRank (s : State) (r : Rank) (f : Strand → Strand) : State :=
  { s with
    strands := s.strands.map fun (q : Nat × Strand) => if ofRankIn r q.2 then (q.1, f q.2) else q
    saved := s.saved.map fun (v : Saved) => if ofRankIn r v.strand then { v with strand := f v.strand } else v }

/-- Slots and payload of a channel that the launch declares (R213). -/
def channel (s : State) (lnum ch : Nat) : Option (Nat × Bool) := (s.launchNo lnum).bind fun l => l.kd.chans[ch]?

/-- A slot of a strand's inbound queue is free, counting slice and store together (R217). -/
def slotFree (s : State) (dest : Rank) (ch : Nat) : Bool :=
  match s.ofRank dest, s.channel dest.lnum ch with
  | some t, some c => (t.inbound.filter fun m => m.chan == ch).length < c.1
  | _, _ => false

/-- The core of a resident strand of a rank. -/
def coreOfRank (s : State) (r : Rank) : Option Nat := (s.sidOfRank r).map Sid.core

/-- The message takes a slot; to another field it stands at a slice first, when messages stay in flight (R217). -/
def store (s : State) (frm dest : Rank) (ch : Nat) (v : V256) : State :=
  let far := (s.coreOfRank frm).map fieldOf != (s.coreOfRank dest).map fieldOf
  s.modRank dest fun t => { t with inbound := t.inbound ++ [⟨ch, v, far && s.turn.post⟩] }

/-- The acknowledgement reaches the sender. -/
def ackSend (s : State) (frm : Rank) : State := s.modRank frm fun t => t.modSync fun y => { y with sendOut := false }

/-- The slice or the store answers the sender: at once, or by a message that stays in flight. -/
def answerSend (s : State) (src : Sid) (frm dest : Rank) (ch : Nat) (v : V256) : State :=
  if s.turn.post then { s with flights := s.flights ++ [⟨src, .chan frm dest ch v, true⟩] } else s.ackSend frm

/-- A message arrives at its queue: it takes a slot, or waits behind those that wait (R215). One whose destination has ended
since it was sent waits until its launch ends (entry 88). -/
def arriveMsg (s : State) (src : Sid) (frm dest : Rank) (ch : Nat) (v : V256) : State :=
  let behind := s.flights.any fun f => match f.msg with
    | .chanWait _ q c _ => q == dest && c == ch
    | _ => false
  if s.slotFree dest ch && !behind then (s.store frm dest ch v).answerSend src frm dest ch v
  else { s with flights := s.flights ++ [⟨src, .chanWait frm dest ch v, false⟩] }

/-- A slot of a queue has become free: the message that has waited longest takes it. -/
def grantSlot (s : State) (dest : Rank) (ch : Nat) : State :=
  match s.flights.find? fun f => (match f.msg with
      | .chanWait _ q c _ => q == dest && c == ch
      | _ => false) with
  | some f =>
    match f.msg with
    | .chanWait frm q c v =>
      ((({ s with flights := s.flights.erase f }).store frm q c v)).answerSend f.src frm q c v
    | _ => s
  | none => s

/-- The checks of a channel number and its payload (R215, R216). -/
def chanChecks (s : State) (spec : Word) (wide : Bool) : Eff Unit :=
  match s.channel s.strand.ident.lnum (field spec 0 6) with
  | none => .trap 14 (errVal 1 spec) 0
  | some c => guardTrap (c.2 != wide) 14 (errVal 2 spec) s

/-- A send (R215): the checks, the earlier message's acknowledgement, the message, its own acknowledgement. -/
def sendMsg (s : State) (spec : Word) (wide : Bool) (v : V256) : Eff Unit :=
  (s.open_).bind fun _ s =>
    if spec.getLsbD 9 || 2 ^ 42 ≤ spec.toNat then .trap 14 (errVal 8 spec) 0
    else
      (s.chanChecks spec wide).bind fun _ s =>
        let dest : Rank := ⟨s.strand.ident.lnum, field spec 6 3, field spec 10 32⟩
        if s.strand.sync.began then (if s.strand.sync.sendOut then s.holdFor .send spec else .ok () s)
        else if (s.ofRank dest).isNone then .trap 14 (errVal 3 spec) 0
        else if s.strand.sync.sendOut then s.holdFor .send spec
        else
          let frm := s.strand.rankOf
          let s := s.modSync fun y => { y with began := true, sendOut := true }
          let f : Flight := ⟨s.me, .chan frm dest (field spec 0 6) v, false⟩
          let (now, s) := s.meshReady f
          let s := if now then s.arriveMsg s.me frm dest (field spec 0 6) v else { s with flights := s.flights ++ [f] }
          if s.strand.sync.sendOut then s.holdFor .send spec else .ok () s

/-- The oldest message of a channel that has reached the store (R216). -/
def oldest (s : State) (ch : Nat) : Option V256 :=
  match s.strand.inbound.find? fun m => m.chan == ch with
  | some m => if m.slice then none else some m.val
  | none => none

def removeFirst (ch : Nat) : List Inbound → List Inbound
  | [] => []
  | m :: rest => if m.chan = ch then rest else m :: removeFirst ch rest

/-- The strand takes its oldest message and frees the slot. -/
def takeMsg (s : State) (ch : Nat) : State :=
  (s.withStrand fun t => { t with inbound := removeFirst ch t.inbound }).grantSlot s.strand.rankOf ch

/-- A receive that waits (R216). -/
def recvMsg (s : State) (spec : Word) (wide : Bool) (put : State → V256 → State) : Eff Unit :=
  (s.open_).bind fun _ s =>
    (s.chanChecks spec wide).bind fun _ s =>
      match s.oldest (field spec 0 6) with
      | some v => .ok () (put (s.takeMsg (field spec 0 6)) v)
      | none => s.holdFor (.recv (field spec 0 6)) spec

end State

/-- R215, R411. -/
def execSend (a b : XReg) (s : State) : Out := finish s (s.sendMsg (s.x b) false ((s.x a).zeroExtend 256))
/-- R215, R411. -/
def execSendv (a : VReg) (b : XReg) (s : State) : Out := finish s (s.sendMsg (s.x b) true (s.v a))
/-- R216, R401. -/
def execRecv (a b : XReg) (s : State) : Out :=
  finish s (s.recvMsg (s.x b) false fun t v => t.setX a (v.truncate 64))
/-- R216, R401. -/
def execRecvv (a : VReg) (b : XReg) (s : State) : Out := finish s (s.recvMsg (s.x b) true fun t v => t.setV a v)
/-- R216, R401: never waits; with D = A a message stands in X[A]. -/
def execRecvt (a b d : XReg) (s : State) : Out :=
  finish s ((s.open_).bind fun _ t =>
    (t.chanChecks (s.x b) false).bind fun _ t =>
      match t.oldest (field (s.x b) 0 6) with
      | some v => .ok () (((t.takeMsg (field (s.x b) 0 6)).setX d 1).setX a (v.truncate 64))
      | none => .ok () (t.setX d 0))

/-- CHANNEL_MESSAGE: a message reaches its queue (R215). -/
def execChannelMessage (n : Nat) (s : State) : Out :=
  .next (match s.flightAt n with
    | some ⟨w, .chan frm dest ch v, false⟩ =>
      if s.meshWaits n then s else (s.dropFlight n).arriveMsg w frm dest ch v
    | _ => s)
/-- SEND_ACKNOWLEDGEMENT (R215, R217). -/
def execSendAcknowledgement (n : Nat) (s : State) : Out :=
  .next (match s.flightAt n with
    | some ⟨_, .chan frm _ _ _, true⟩ => (s.dropFlight n).ackSend frm
    | _ => s)
/-- CHANNEL_SLICE_MOVE: the slice moves the oldest message of a channel on into the receiver's store (R217). -/
def execChannelSliceMove (who : Sid) (chan : Nat) (s : State) : Out :=
  let move : List Inbound → List Inbound := replaceFirst (fun m => m.chan == chan && m.slice) fun m => { m with slice := false }
  .next (s.modStrand who fun t => { t with inbound := move t.inbound })

end Sys2Proof.Machine
end

