-- ==== Sys2Proof/Machine/Control.lean ====
section
/-! DEFINITION. Branches, jumps, skips and loop frames (R339 to R344, R371, R372, R379 to R381, R402, R403, R416, R417),
and the instructions that trap by design (R341, R429). -/

namespace Sys2Proof.Machine

namespace State

/-- Branch to PCF + 2 × imm when `c` holds (R340). -/
def branch (s : State) (c : Bool) (off : BitVec n) : State := if c then s.jump (s.rel off) else s

/-- Skip `n` whole instructions when `c` holds; the span is read only then (R416, R417). -/
def skip (s : State) (c : Bool) (n : BitVec 4) : Eff Unit :=
  if c then (spanFrom s s.after [] n.toNat).bind fun p s => .ok () (s.jump p.1) else .ok () s

/-- The mode's frame is active: a `loop` or `rep` traps with cause 1 (R380). -/
def frameBusy (s : State) : Bool := (s.strand.frame s.strand.mode).act

/-- Address bits of a frame (R381). -/
def frameAddr (a : Word) : Word := a &&& 0xFFFF_FFFF_FFFE

/-- `loop` (R380): the body is read to find END, whatever X[A] holds. -/
def startLoop (s : State) (a : XReg) (n : BitVec 4) : Eff Unit :=
  if s.frameBusy then .trap 1 s.latch.first 0
  else
    (spanFrom s s.after [] n.toNat).bind fun p s =>
      if s.x a = 0 then .ok () (s.jump p.1)
      else
        .ok () (s.withStrand fun t => t.setFrame t.mode ⟨true, false, a, 0, 0, frameAddr s.after, frameAddr p.1⟩)

/-- A body instruction that `rep` refuses (R402): its base parcel, on page 0, has one of these majors. -/
def repRefuses (ps : List Parcel) : Bool :=
  let onPage0 := !(ps.any fun p => p.extractLsb' 11 5 == 0b11111 && p.extractLsb' 10 1 == 0 && p.extractLsb' 4 6 != 0)
  match ps.getLast? with
  | some p => onPage0 && [5, 6, 7, 8, 9, 10, 11].contains (p.extractLsb' 12 4).toNat
  | none => false

/-- The parcels of a body. -/
def bodyParcels (l : List (Word × List Parcel)) : Nat := (l.map fun e => e.2.length).sum

/-- Read a `rep` body, one instruction after another, with the checks of R402 as it is read. -/
def repBody (s : State) (va : Word) (acc : List (Word × List Parcel)) : Nat → Eff (Word × List (Word × List Parcel))
  | 0 => .ok (va, acc) s
  | n + 1 =>
    (spanFrom s va [] 1).bind fun p s =>
      let acc' := acc ++ p.2
      if 16 < bodyParcels acc' || p.2.any fun e => repRefuses e.2 then .trap 1 s.latch.first 0
      else s.repBody p.1 acc' n

/-- `rep` (R403). -/
def startRep (s : State) (a : XReg) (n str : BitVec 4) : Eff Unit :=
  if s.frameBusy then .trap 1 s.latch.first 0
  else
    (s.repBody s.after [] n.toNat).bind fun p s =>
      if s.x a = 0 then .ok () (s.jump p.1)
      else
        .ok () ((s.withStrand fun t =>
          t.setFrame t.mode ⟨true, true, a, str, 0, frameAddr s.after, frameAddr p.1⟩).fillBuffer p.2)

end State

/-- R344. -/
def execBz (a : XReg) (off : BitVec 28) (s : State) : Out := done (s.branch (s.x a == 0) off)
/-- R344. -/
def execBnz (a : XReg) (off : BitVec 28) (s : State) : Out := done (s.branch (s.x a != 0) off)
/-- R340. -/
def execBeq (a b : XReg) (off : BitVec 20) (s : State) : Out := done (s.branch (s.x a == s.x b) off)
/-- R340. -/
def execBne (a b : XReg) (off : BitVec 20) (s : State) : Out := done (s.branch (s.x a != s.x b) off)
/-- R340. -/
def execBlt (a b : XReg) (off : BitVec 20) (s : State) : Out := done (s.branch ((s.x a).slt (s.x b)) off)
/-- R340. -/
def execBge (a b : XReg) (off : BitVec 20) (s : State) : Out := done (s.branch (!(s.x a).slt (s.x b)) off)
/-- R340. -/
def execBltu (a b : XReg) (off : BitVec 20) (s : State) : Out := done (s.branch ((s.x a).ult (s.x b)) off)
/-- R340. -/
def execBgeu (a b : XReg) (off : BitVec 20) (s : State) : Out := done (s.branch (!(s.x a).ult (s.x b)) off)
/-- R371. -/
def execJal (a : XReg) (off : BitVec 28) (s : State) : Out := done ((s.setX a s.after).jump (s.rel off))
/-- R372: the target is read before the link is written. -/
def execJalr (a b : XReg) (off : BitVec 24) (s : State) : Out :=
  done ((s.setX a s.after).jump ((s.x b + 2 * off.signExtend 64) &&& ~~~1))
/-- R416. -/
def execSkipZ (a : XReg) (n : BitVec 4) (s : State) : Out := finish s (s.skip (s.x a == 0) n)
/-- R416. -/
def execSkipNz (a : XReg) (n : BitVec 4) (s : State) : Out := finish s (s.skip (s.x a != 0) n)
/-- R416. -/
def execSkipLt (a : XReg) (n : BitVec 4) (s : State) : Out := finish s (s.skip ((s.x a).slt 0) n)
/-- R416. -/
def execSkipGe (a : XReg) (n : BitVec 4) (s : State) : Out := finish s (s.skip (!(s.x a).slt 0) n)
/-- R380. -/
def execLoop (a : XReg) (n : BitVec 4) (s : State) : Out := finish s (s.startLoop a n)
/-- R402, R403. -/
def execRep (a : XReg) (n str : BitVec 4) (s : State) : Out := finish s (s.startRep a n str)
/-- R429. -/
def execTrap (imm : BitVec 28) (s : State) : Out := trapOut s 18 (imm.zeroExtend 64)
/-- R341. -/
def execBrk (imm : BitVec 28) (s : State) : Out := trapOut s 17 (imm.zeroExtend 64)

end Sys2Proof.Machine
end

