-- ==== Sys2Proof/Machine/Copy.lean ====
section
/-! DEFINITION. The copy-engine instructions (R346 to R353) and the engine's events. -/

namespace Sys2Proof.Machine

namespace State

/-- In an open region `ce.w`, `ce.arm` and `ce.stop` trap; in step mode all four do, once the operand checks that come before
cause 13 are past (R65, R261, R353). -/
def ceAllowed (s : State) (checks : Eff Unit) : Eff Unit :=
  (s.outside 4).bind fun _ s => if s.computePhase then checks.bind fun _ s => s.notStep else .ok () s

/-- The index that `ce.w` names (R347). -/
def ceIndex (s : State) (b : XReg) : Eff Unit := guardTrap (decide (9 < (s.x b).toNat)) 7 (0x200_2000 + 8 * s.x b) s

/-- The address from which `ce.arm` takes a set (R347). -/
def ceFrom (s : State) (b : XReg) : Eff Unit :=
  if b = 0 then .ok () s
  else if (s.x b).toNat % 8 ≠ 0 then .trap 2 (s.x b) 0
  else
    match ((List.range 16).map fun i => s.x b + BitVec.ofNat 64 (8 * i)).find? s.offMap with
    | some va => .trap 7 va 0
    | none => .ok () s

/-- The first lines of R347: the slot claims the engine. -/
def ceClaim (s : State) : Eff Unit :=
  let e := s.core.ce
  if ceShown e = 0 then .ok () (s.withCore fun c => { c with ce := { c.ce with owner := s.me.slot, stat := 1, pre := vsetN c.ce.pre s.me.slot 0 } })
  else if ceShown e ≠ 3 ∧ e.owner = s.me.slot then .ok () s
  else s.holdFor .engine 0x200_2000

/-- A transfer of the slot's own runs: wait for its end. -/
def ceIdle (s : State) : Eff Unit := if s.core.ce.stat = 2 then .hold s false 0 else .ok () s

/-- `ce.w` (R347). -/
def ceWriteReg (s : State) (a b : XReg) : Eff Unit :=
  (s.ceAllowed (s.ceIndex b)).bind fun _ s =>
    s.ceClaim.bind fun _ s =>
      let i := (s.x b).toNat
      if h : i < 10 then
        s.ceIdle.bind fun _ s =>
          let w := s.x a &&& ceMask i
          .ok () (s.withCore fun c => { c with ce := { c.ce with active := c.ce.active.set i w } })
      else .trap 7 (0x200_2000 + 8 * s.x b) 0

/-- A word of the set that `ce.arm` reads. -/
def ceFetch (s : State) (va : Word) : Eff Word :=
  if va.toNat % 8 ≠ 0 then .trap 2 va 0
  else if isWindow va then (s.windowLoad va 8 MemMod.none).bind fun bs s => .ok (wordOfBytes bs) s
  else (s.loadAt va 8 MemMod.none).bind fun bs s => .ok (wordOfBytes bs) s

/-- Words of a set from an address up. -/
def ceSet (s : State) (va : Word) : Nat → Eff (List Word)
  | 0 => .ok [] s
  | n + 1 => (s.ceFetch va).bind fun w s => (ceSet s (va + 8) n).map fun l => w :: l

/-- Some destination byte lies outside every enabled retractable allocation (R353). -/
def ceOutside (s : State) (set : Vector Word 10) : Bool :=
  (List.range (ceRows set)).any fun r => !s.inAlloc (ceRow set true r) (ceLen set)

/-- The last lines of R347: the status, and the start of the transfer (entry 45). -/
def ceStart (s : State) (a : XReg) (set : Vector Word 10) : Eff Unit :=
  let put (e : Copier) (st : Nat) : Copier :=
    { e with
      active := set, stat := st, due := false
      pre := vsetN e.pre s.me.slot 0
      flt := vsetN e.flt s.me.slot false
      stop := vsetN e.stop s.me.slot false }
  if !ceGood set then .ok () ((s.withCore fun c => { c with ce := put c.ce 0 }).setX a 1)
  else if s.provisional s.me ∧ s.ceOutside set then s.provStall
  else
    let priv := s.strand.mode != .U
    let s := s.withCore fun c =>
      { c with ce := { put c.ce 2 with priv := priv, prog := vsetN c.ce.prog s.me.slot (ceProg set) } }
    .ok () (s.setX a 0)

/-- `ce.arm` (R347). -/
def ceArm (s : State) (a b : XReg) : Eff Unit :=
  (s.ceAllowed (s.ceFrom b)).bind fun _ s =>
    s.ceClaim.bind fun _ s =>
      s.ceIdle.bind fun _ s =>
        if b = 0 then s.ceStart a s.core.ce.active
        else
          (s.ceSet (s.x b) 16).bind fun l s =>
            s.ceStart a (Vector.ofFn fun i : Fin 10 => l.getD i.val 0 &&& ceMask i.val)

/-- The word of `ce.stat` (R349). -/
def ceStatus (s : State) : Word :=
  let e := s.core.ce
  let k := s.me.slot
  let st := if ceShown e = 0 then 0 else if ceShown e ≠ 3 ∧ e.owner = k then e.stat else 3
  BitVec.ofNat 64 (st + 4 * bit (vgetN e.flt k) + 8 * bit (vgetN e.stop k) + 256 * vgetN e.prog k)

end State

/-- R347. -/
def execCeW (a b : XReg) (s : State) : Out := finish s (s.ceWriteReg a b)
/-- R347. -/
def execCeArm (a b : XReg) (s : State) : Out := finish s (s.ceArm a b)
/-- R349. -/
def execCeStat (a : XReg) (s : State) : Out := finish s (s.notStep.bind fun _ s => .ok () (s.setX a s.ceStatus))
/-- R350. -/
def execCeStop (s : State) : Out :=
  finish s ((s.ceAllowed (.ok () s)).bind fun _ s =>
    let e := s.core.ce
    if e.owner = s.me.slot ∧ e.stat = 2 then .ok () (s.stopCopy s.me)
    else if e.owner = s.me.slot ∧ e.stat = 1 then .ok () (s.withCore fun c => { c with ce := { c.ce with stat := 0 } })
    else .ok () s)

/-- CE_CHUNK_PERFORMED (R348). -/
def execCeChunkPerformed (core : Nat) (s : State) : Out := .next (s.ceChunk core false)
/-- CE_COMPLETION_WRITE (R348). -/
def execCeCompletionWrite (core : Nat) (s : State) : Out := .next (s.ceComplete core)

end Sys2Proof.Machine
end

