-- ==== Sys2Proof/Machine/Rng.lean ====
section
/-! DEFINITION. Random streams (R252 to R259, R405, R463): Philox4x32-10, the counter table, `rng` and `vrng`. -/

namespace Sys2Proof.Machine

namespace State

/-- The counter of element `e` of tensor stream `t` (R254). -/
def streamCounter (t e : Nat) : List Nat := [e / 4 % 2 ^ 32, e / 4 / 2 ^ 32 % 2 ^ 32, t, 0]

/-- Word(e, T) of R259. -/
def streamWord (s : State) (t e : Nat) : Nat := s.blockWord (streamCounter t e) (e % 4)

/-- Table reads of a compute phase stay inside the reservation (R255, R261). -/
def tableChecks (s : State) (es : List Nat) : Eff Unit :=
  if rngTable s.strand.csr.rngmode && s.computePhase then
    match (es.map fun e => s.tableAt (e / 4 % 64) (e % 4)).find? fun a => !inReservation s (BitVec.ofNat 64 a) 4 with
    | some a => .trap 13 (BitVec.ofNat 64 a) 0
    | none => .ok () s
  else .ok () s

/-- The wrap of a counter (R259). -/
def wrapCheck (s : State) (e n : Nat) : Eff Unit :=
  if e + n = 2 ^ 64 then
    if rngWte s.strand.csr.rngmode then .trap 15 0 0 else .ok () (s.modCsr fun c => { c with rngmode := c.rngmode ||| 2 })
  else .ok () s

/-- Advance the counter (R259). -/
def advance (s : State) (b : XReg) (e n : Nat) : State := s.setX b (BitVec.ofNat 64 (e + n))

end State

/-- R259, R405. -/
def execRng (a b : XReg) (s : State) : Out :=
  let e := (s.x b).toNat / 2 * 2
  let t := field (s.x (b + 1)) 0 32
  finish s ((s.tableChecks [e, e + 1]).bind fun _ s =>
    (s.wrapCheck e 2).bind fun _ u =>
      .ok () ((u.setX a (BitVec.ofNat 64 (s.streamWord t e + 2 ^ 32 * s.streamWord t (e + 1)))).advance b e 2))

/-- R259: an inactive lane consumes its element all the same. -/
def execVrng (_ty : ETy) (a : VReg) (b : XReg) (m : MaskMod) (s : State) : Out :=
  let e := (s.x b).toNat / 8 * 8
  let t := field (s.x (b + 1)) 0 32
  finish s ((s.tableChecks ((activeLanes (s.active m) 8).map (e + ·))).bind fun _ s =>
    (s.wrapCheck e 8).bind fun _ u =>
      .ok () ((u.setV a (mergeLanes 32 (s.active m) (zeroing m) (s.v a) fun i => s.streamWord t (e + i))).advance b e 8))

end Sys2Proof.Machine
end

