-- ==== Sys2Proof/Machine/Regions.lean ====
section
/-! DEFINITION. Proposal regions: opening, arrival, resolution (R225 to R247, R396 to R399). -/

namespace Sys2Proof.Machine

namespace State

/-! ## Keys (R227) -/

/-- The key order within a group: round, then rank (R227). -/
def keyLess (a b : Strand) : Bool :=
  roundOf a < roundOf b || (roundOf a == roundOf b && a.ident.rank < b.ident.rank)

def insertKey (t : Strand) : List Strand → List Strand
  | [] => [t]
  | u :: rest => if keyLess t u then t :: u :: rest else u :: insertKey t rest

def sortKeys : List Strand → List Strand
  | [] => []
  | t :: rest => insertKey t (sortKeys rest)

/-- The open regions of a group, smallest key first. -/
def openRegions (s : State) (t : Strand) : List Strand := sortKeys ((s.groupOf t).filter (·.region.opened))

/-- A round would be the fifth open one of the group (R226). -/
def fifthRound (s : State) : Bool :=
  let t := s.strand
  (s.groupOf t).any fun u => roundOf u + 4 ≤ roundOf t

/-! ## Opening (R232, R244) -/

/-- The scope of a launch's regions as R187 numbers it. -/
def regionScope (s : State) : Nat := (s.launchOf s.me).elim 0 fun l => if l.lrec.rscope = 0 then 0 else l.lrec.rscope + 2

/-- A cause 11 with its reason (R235). -/
def misuse (reason : Nat) : Eff α := .trap 11 (BitVec.ofNat 64 reason) 0

/-- The checks that every `prop` form but `prop.stat` makes first (R396). -/
def propChecks (s : State) : Eff Unit :=
  if s.strand.mode != .U then .trap 1 s.latch.first 0
  else if s.stepMode || s.regionScope = 0 then misuse 6
  else .ok () s

def stateOf (s : State) : Nat := rgsState s.strand.csr.rgs

/-- Start an attempt: the checkpoint, RGSPC and STATE. -/
def openAs (s : State) (st : Nat) : State :=
  let pc := s.pcf
  s.withStrand fun t =>
    { t with
      csr := { t.csr with rgs := setRgsState t.csr.rgs st, rgspc := pc }
      region := { t.region with
        opened := true, atEnd := false, ckX := t.x, ckV := t.v, reads := [], wlines := [], writes := [], event := none } }

/-- DRAWN, HEAVY and REPL of a fresh region. -/
def freshRegion (s : State) : State := s.modCsr fun c => { c with rgs := setField (setField (setField c.rgs 3 1 0) 5 1 0) 6 2 0 }

/-- The two tests that a fresh region or a `prop.pass` meets (R226). -/
def roundChecks (s : State) : Eff Unit :=
  let r := roundOf s.strand
  if r = 2 ^ 24 - 1 then .trap 15 0 0
  else if s.fifthRound then s.holdFor .fifth (BitVec.ofNat 64 r)
  else .ok () s

/-- A serial region may open: its round barrier is complete, and no smaller region is open. -/
def serialTurn (s : State) : Bool := barrierDone s.strand && !(s.openRegions s.strand).any (keyLess · s.strand)

/-- The wait of a serial opening: its round barrier and every smaller region (R244). -/
def serialWait (s : State) : Eff Unit :=
  let s := if s.turn.post then s else s.completeRound s.strand
  if s.serialTurn then .ok () s else s.holdFor .serial (BitVec.ofNat 64 (roundOf s.strand))

/-- `prop.begin` (R232); in a provisional piece it stalls first (R286). -/
def beginRegion (s : State) : Eff Unit :=
  if s.strand.mode == .U && s.provisional s.me then s.provStall
  else s.propChecks.bind fun _ s =>
    match s.stateOf with
    | 0 =>
      s.roundChecks.bind fun _ s => (s.releaseAction s.regionScope).bind fun _ s => .ok () (s.freshRegion.openAs 1)
    | 2 => .ok () (s.openAs 1)
    | 3 => s.arriveRegion.serialWait.bind fun _ s => .ok () (s.openAs 4)
    | _ => misuse 1

/-- `prop.serial` (R244, R398). -/
def serialRegion (s : State) : Eff Unit :=
  s.propChecks.bind fun _ s =>
    match s.stateOf with
    | 0 =>
      (if s.strand.region.opened then .ok () s
        else s.roundChecks.bind fun _ s =>
          .ok () ((s.freshRegion.withStrand fun t => { t with region := { t.region with opened := true } }).arriveRegion)).bind
        fun _ s => s.serialWait.bind fun _ s => (s.releaseAction s.regionScope).bind fun _ s => .ok () (s.openAs 4)
    | 2 => misuse 7
    | 3 =>
      if s.strand.csr.rgspc = s.pcf then s.arriveRegion.serialWait.bind fun _ s => .ok () (s.openAs 4) else misuse 7
    | _ => misuse 1

/-- `prop.pass` (R397). -/
def passRound (s : State) : Eff Unit :=
  s.propChecks.bind fun _ s =>
    if s.stateOf = 1 ∨ s.stateOf = 4 then misuse 3
    else if s.stateOf = 2 ∨ s.stateOf = 3 then misuse 7
    else
      s.roundChecks.bind fun _ s =>
        let s := s.noteArrival
        .ok () (s.modCsr fun c => { c with rgs := setField c.rgs 8 24 (rgsRound c.rgs + 1) })

/-! ## Resolution (R238 to R242) -/

def readLines (t : Strand) : List Nat := t.region.reads.map RLine.line
def writeLines (t : Strand) : List Nat := t.region.wlines.map Prod.fst

/-- Two regions conflict (R233). -/
def conflict (a b : Strand) : Bool :=
  (writeLines a).any (fun l => (readLines b).contains l || (writeLines b).contains l)
    || (writeLines b).any fun l => (readLines a).contains l

/-- A smaller open region blocks a larger one; `ok` says whether the smaller is settled (R238). -/
def blocks (x : Strand × Bool) (y : Strand) : Bool :=
  conflict x.1 y || rgsHeavy x.1.csr.rgs || rgsState x.1.csr.rgs == 4 || rgsState x.1.csr.rgs == 3 || !x.2

/-- The open regions with whether each is settled, those already judged in `done`. -/
def settle (done : List (Strand × Bool)) : List Strand → List (Strand × Bool)
  | [] => done
  | y :: rest => settle (done ++ [(y, y.region.atEnd && !done.any (blocks · y))]) rest

/-- A region of the round that was suspended when its launch was resumed has still to reach its `prop.end` (R247). One that is
to reopen serially, or waits to open, first waits for the smaller ones, and does not count (entry 80). -/
def returning (s : State) (t : Strand) : Bool :=
  (s.groupOf t).any fun u => u.region.opened && u.region.back && roundOf u == roundOf t && rgsState u.csr.rgs != 3

/-- A region resolves (R239, R247). -/
def resolvable (s : State) (t : Strand) : Bool :=
  let l := settle [] (s.openRegions t)
  let prev := l.takeWhile fun p => keyLess p.1 t
  t.region.opened && t.region.atEnd && barrierDone t && !prev.any (blocks · t)
    && (!(rgsHeavy t.csr.rgs || rgsState t.csr.rgs == 4) || prev.isEmpty) && !s.returning t

/-- Accept(α, K) (R240). -/
def accepts (fpc : Word) (alpha : BitVec 32) (k : Nat) : Bool :=
  match Fmt.f32.read (envOf fpc) alpha.toNat with
  | .nan .. => false
  | .inf neg => !neg
  | .fin neg m e => !neg && m != 0 && (if 0 ≤ e + 32 then k < m * 2 ^ (e + 32).toNat else k * 2 ^ (-(e + 32)).toNat < m)

/-- Some read claim is marked, or a heavy region's line no longer holds what was read: the whole line as it was first seen, not
only the bytes that its loads returned (R239, R242; DESIGN CHOICE, entry 116). -/
def stale (s : State) (t : Strand) : Bool :=
  rgsState t.csr.rgs != 4 && (t.region.reads.any (·.marked)
    || (rgsHeavy t.csr.rgs && t.region.reads.any fun r => lineAt s.mem r.line != r.seen))

/-- Back to the checkpoint with the region suspended (R239). -/
def replayOf (t : Strand) : Strand :=
  let t := t.rollback 2
  let n := min (field t.csr.rgs 6 2 + 1) 3
  { t with
    csr := { t.csr with rgs := setField t.csr.rgs 6 2 n }
    pc := t.csr.rgspc
    sync := { t.sync with held := false, bounded := false, waited := 0, began := false } }

/-- RGS and X[A] of a resolved region; `reply` tells its `prop.end` to retire. -/
def resolvedOf (acc : Bool) (t : Strand) : Strand :=
  let g := setField (setField (setRgsState t.csr.rgs 0) 3 1 0) 4 1 (bit acc)
  let t := t.setX t.region.dest (bitW acc)
  { t with
    csr := { t.csr with rgs := setField g 8 24 (rgsRound g + 1) }
    region := { t.region with opened := false, back := false, atEnd := false, reads := [], wlines := [], writes := [], event := none }
    sync := { t.sync with reply := some 1 } }

/-- The tag of a region's commit (R195, R241). -/
def commitTag (s : State) (w : Sid) : Tag :=
  let n := (s.strandAt w).ident.lnum
  ⟨s.mp.module, w, n, BitVec.ofNat 3 ((s.launchNo n).elim 0 fun l => l.lrec.rscope + 2)⟩

/-- What a commit waits for, as a release: the action of its scope, the older narrower tags of its lines, held writes
there, and the strand's own bytes of those lines (R190, R195, R198, R485). -/
def commitReady (s : State) (w : Sid) (lines : List Nat) : Eff Unit :=
  ({ s with me := w }.releaseAction (s.commitTag w).scope.toNat).bind fun _ s =>
    let s := lines.foldl (fun (s : State) l => ((s.dropLine w.core l).settleLine w l).2) s
    let ps : List Target := lines.map fun l => .line (l * 32)
    if (s.flights.any fun f => lines.any fun l => s.seesWrite w l f) || (ps.any fun p => s.blockedBy p true) then .hold s false 0
    else
      match s.narrowAt ps (s.commitTag w) with
      | none => .ok () s
      | some (p, u) =>
        let s := s.sendMiss (widenFirst w p u)
        if (s.narrowAt ps (s.commitTag w)).isNone then .ok () s
        else .hold { s with blocked := (p, w, false) :: s.blocked.erase (p, w, false) } false 0

/-- The attempt goes, with what its held commit blocked (R195, R239). -/
def replay (s : State) (w : Sid) : State := (s.modStrand w replayOf).dropBlocks w

/-- Resolve the region of the strand in a slot: replay, or accept or reject, with the commit as one step (R239, R241). -/
def resolve (s : State) (w : Sid) : State :=
  let t := s.strandAt w
  if s.stale t then s.replay w
  else
    let acc := accepts t.csr.fpc t.region.alpha (rgsK t.csr.rgs)
    if !acc || t.region.writes.isEmpty then s.modStrand w (resolvedOf acc)
    else
      match s.commitReady w (writeLines t) with
      | .ok _ u =>
        let u := { u with me := s.me }
        if u.stale (u.strandAt w) then u.replay w
        else
          let u := (u.modStrand w (resolvedOf acc)).landWrite w [s.rankAt w] t.region.writes (some (s.commitTag w))
          match t.region.event with
          | some v => u.eventWord t.ident.vdev v
          | none => u
      | .hold u _ _ => { u with me := s.me }
      | .trap .. => s

/-- The region of a slot resolves when it can. -/
def tryResolve (s : State) (w : Sid) : State := if s.resolvable (s.strandAt w) then s.resolve w else s

/-- `prop.end` once it has issued: it looks whether its region resolves. The outcome tells a replay from a hold. -/
def awaitRegion (s : State) : Out :=
  let s := if s.turn.post then s else (s.completeRound s.strand).tryResolve s.me
  if s.strand.sync.reply.isSome then .next s.retire
  else if s.stateOf = 2 then .next s
  else .next ((s.modSync fun y => { y with what := .region }).holdAt true (BitVec.ofNat 64 (roundOf s.strand)))

/-- α is read, a NaN raises NV, and the region arrives (R240, R399). -/
def issueEnd (s : State) (a b : XReg) : Eff Unit :=
  s.propChecks.bind fun _ s =>
    match s.stateOf with
    | 0 => misuse 2
    | 1 | 4 =>
      let alpha := (s.x b).truncate 32
      let f := if (Fmt.f32.decode alpha.toNat).isNaN then fNV else 0
      s.flagged f fun s =>
        let s := s.arriveRegion
        s.withStrand fun t => { t with region := { t.region with atEnd := true, back := false, alpha := alpha, dest := a } }
    | _ => misuse 7

/-- A request that was pending in U when a region opened, or began to wait to open, is taken at once, as one that arrives there
then is (R247, R407). -/
def regionRequest (s : State) : State :=
  let t := s.strand
  if t.mode == .U && (t.inRegion || t.region.opened) && t.preq.isSome then s.preemptNow s.me noSafePoint else s

/-- The end of a form that opens a region. -/
def opening (s : State) (e : Eff Unit) : Out :=
  match e with
  | .ok _ t => .next t.retire.regionRequest
  | .trap c v f => .next (s.takeSync c v f)
  | .hold t b v => .next (t.holdAt b v).regionRequest

end State

/-- R232, R247, R396. -/
def execPropBegin (s : State) : Out := s.opening s.beginRegion
/-- R239 to R241, R399. -/
def execPropEnd (a b : XReg) (s : State) : Out :=
  if s.strand.sync.reply.isSome then .next s.retire
  else if s.strand.region.atEnd && s.strand.regionAccess then s.awaitRegion
  else
    match s.issueEnd a b with
    | .ok _ t => t.awaitRegion
    | e => finish s e
/-- R397. -/
def execPropPass (s : State) : Out := finish s s.passRound
/-- R244, R247, R398. -/
def execPropSerial (s : State) : Out := s.opening s.serialRegion
/-- R231. -/
def execPropStat (a : XReg) (s : State) : Out := done (s.setX a s.strand.csr.rgs)

/-- ROUND_BARRIER_COMPLETE: the round of a strand's group (R237). -/
def execRoundBarrierComplete (who : Sid) (s : State) : Out := .next (s.completeRound (s.strandAt who))
/-- REGION_RESOLUTION (R239). -/
def execRegionResolution (who : Sid) (s : State) : Out :=
  let t := s.tryResolve who
  let u := t.strandAt who
  .next (if (s.strandAt who).region.atEnd && u.region.opened && !u.region.atEnd then t.passed who (s.strandAt who).pc ⟨none, u.pc⟩ else t)

end Sys2Proof.Machine
end

