-- ==== Sys2Proof/Machine/Supersteps.lean ====
section
/-! DEFINITION. Supersteps of step-mode launches: `sstep` and the exchanges (R260 to R270). -/

namespace Sys2Proof.Machine

namespace State

/-- The strands of a launch, resident or saved. -/
def strandsOf (s : State) (lnum : Nat) : List Strand :=
  ((s.strands.map Prod.snd) ++ s.saved.map Saved.strand).filter fun t => t.live && t.ident.lnum == lnum

/-- Every strand of a launch has arrived for its superstep; one that has ended has (R264). -/
def allArrived (s : State) (l : Launch) : Bool := (s.strandsOf l.num).all fun t => l.superstep < t.ident.ssArr

/-- The ranks of a record: its source, and its destination. -/
def xferSrc (l : Launch) (x : Xfer) : Rank := ⟨l.num, x.sstg, x.srank⟩
def xferDst (l : Launch) (x : Xfer) : Rank := ⟨l.num, x.dstg, x.drank⟩

/-- The rank whose core's engine performs a record (R265). -/
def xferRank (l : Launch) (x : Xfer) : Rank := if x.kind = 1 then xferDst l x else xferSrc l x

/-- A record is active in exchange `n`: its phase, and no rank that it needs has ended (R264, R267). -/
def xferActive (s : State) (l : Launch) (n : Nat) (x : Xfer) : Bool :=
  n % x.per == x.ofs && (x.kind == 1 || (s.ofRank (xferSrc l x)).isSome) && (x.kind == 2 || (s.ofRank (xferDst l x)).isSome)

/-- The cores whose engines perform records. -/
def enginesOf (s : State) (l : Launch) (act : List Nat) : List Nat :=
  (act.filterMap fun i => (l.kd.xfer[i]?).bind fun x => s.coreOfRank (xferRank l x)).eraseDups

/-- STAT of those engines shows the launch's exchange (R348). -/
def markEngines (s : State) (l : Launch) (act : List Nat) : State :=
  (s.enginesOf l act).foldl (fun s n => s.modCore n fun c => { c with ce := { c.ce with exch := l.num :: c.ce.exch } }) s

/-- No engine shows an exchange of the launch any more. -/
def unmarkEngines (s : State) (lnum : Nat) : State :=
  { s with cores := s.cores.map fun (q : Nat × Core) =>
      (q.1, { q.2 with ce := { q.2.ce with exch := q.2.ce.exch.filter fun n => n != lnum } }) }

/-- Exchange n of a launch starts with its active records in their order (R270). -/
def startExchange (s : State) (lnum : Nat) : State :=
  match s.launchNo lnum with
  | none => s
  | some l =>
    if !l.lrec.step || l.exch.isSome || !s.allArrived l || (s.strandsOf lnum).isEmpty then s
    else
      let act := (List.range l.kd.xfer.length).filter fun i => (l.kd.xfer[i]?).any (s.xferActive l l.superstep)
      let s := s.modLaunch lnum fun l => { l with exch := some ⟨act, []⟩ }
      s.markEngines l act

/-- An 8-byte word of LM, its address within the member's reservation. -/
def lmAddr (t : Strand) (off i : Nat) : Nat := (t.ident.lmBase + off + 8 * i) % 65536

/-- The place of a global word of a record, or the cause and the value of its fault (R268; entry 40). -/
def xferPlace (s : State) (l : Launch) (core : Nat) (k : Access) (va : Word) : Except (Nat × Word) (Loc × State) :=
  match (if isGlobal va then s.vdevNo l.vdev else none) with
  | none => .error (7, va)
  | some d =>
    match translate s core d .U k false va with
    | .error c => .error (c, va)
    | .ok (p, s) => if s.lineBad (p.pa / 32) then .error (19, lineVal p) else .ok (p, s)

/-- Where word `i` of a record is read and where it goes; `none` for a rank that stands on no core (R267). -/
def xferSides (s : State) (l : Launch) (x : Xfer) (i : Nat) : Option (Except (Nat × Word) (Place × Place × State)) :=
  let va := x.gaddr + BitVec.ofNat 64 (8 * i)
  let at_ (r : Rank) (off : Nat) : Option (Nat × Place) :=
    (s.sidOfRank r).map fun w => (w.core, .lm w.core (lmAddr (s.strandAt w) off i))
  match x.kind, at_ (xferSrc l x) x.soff, at_ (xferDst l x) x.doff with
  | 0, some p, some q => some (.ok (p.2, q.2, s))
  | 1, _, some q => some ((s.xferPlace l q.1 .load va).map fun g => (.glob g.1, q.2, g.2))
  | 2, some p, _ => some ((s.xferPlace l p.1 .store va).map fun g => (p.2, .glob g.1, g.2))
  | _, _, _ => none

/-- The words of a record from word `i` on, each with its destination (R267). -/
def xferGather (s : State) (l : Launch) (x : Xfer) : Nat → Nat → Except (Nat × Word) (List Move × State)
  | 0, _ => .ok ([], s)
  | n + 1, i =>
    match s.xferSides l x i with
    | none => .ok ([], s)
    | some (.error e) => .error e
    | some (.ok (p, q, s)) => (s.xferGather l x n (i + 1)).map fun r => (⟨p, q, 8⟩ :: r.1, r.2)

/-- Move the bytes of a record, its writes performed at their destinations; whether it could: not while something is held at one
of its places (R195, R267). -/
def moveXfer (s : State) (l : Launch) (x : Xfer) : Except (Nat × Word) (Bool × State) :=
  let w := (s.sidOfRank (xferRank l x)).getD ⟨0, 0⟩
  (s.xferGather l x x.nw 0).map fun r => r.2.engineMove w r.1

/-- The engine of a record stands at an earlier one: its own order, or a record that has faulted (R268, R270). -/
def xferHeld (s : State) (l : Launch) (e : Exchange) (i : Nat) : Bool :=
  let core (j : Nat) : Option Nat := (l.kd.xfer[j]?).bind fun x => s.coreOfRank (xferRank l x)
  ((e.todo.filter (· < i)) ++ e.stopped.map Stopped.rec_).any fun j => core j == core i

/-- Perform a record of a running exchange, or stop its engine there. -/
def performXfer (s : State) (lnum i : Nat) : State :=
  match s.launchNo lnum with
  | none => s
  | some l =>
    match l.exch, l.kd.xfer[i]? with
    | some e, some x =>
      if !e.todo.contains i || s.xferHeld l e i
          || (s.coreOfRank (xferRank l x)).any fun n => (s.coreAt n).ce.stat == 2 then s
      else
        let rest (e : Exchange) : Exchange := { e with todo := e.todo.erase i }
        match s.moveXfer l x with
        | .ok (false, s) => s
        | .ok (true, s) => s.modLaunch lnum fun l => { l with exch := l.exch.map rest }
        | .error (c, v) =>
          s.modLaunch lnum fun l => { l with exch := some { rest e with stopped := e.stopped ++ [⟨i, c, v, false⟩] } }
    | _, _ => s

/-- A boundary of the launch is reached with no message in flight: pending pre-emption requests can be taken as its strands'
`sstep`s retire (R50, R73; entry 79). -/
def readyPreempt (s : State) (lnum : Nat) : State :=
  let mine (t : Strand) : Bool := t.live && t.ident.lnum == lnum
  let theirs (f : Flight) : Bool := match f.msg with
    | .barRel home slot _ _ => ((s.coreAt home).bars.find? fun b => b.1 == slot).any fun b => b.2.lnum == lnum
    | _ => mine (s.strandAt f.src)
  if s.flights.any theirs then s
  else
    { s with strands := s.strands.map fun (q : Nat × Strand) =>
        if mine q.2 then (q.1, { q.2 with preq := q.2.preq.map fun p => { p with ready := true } }) else q }

/-- The exchange is complete: the next superstep begins (R262). -/
def releaseStep (s : State) (lnum : Nat) : State :=
  match s.launchNo lnum with
  | some l =>
    match l.exch with
    | some ⟨[], []⟩ =>
      let s := s.modLaunch lnum fun l => { l with exch := none, superstep := l.superstep + 1 }
      let s := s.readyPreempt lnum
      s.unmarkEngines lnum
    | _ => s
  | none => s

/-- The whole exchange as far as it can go. -/
def runExchange (s : State) (lnum : Nat) : State :=
  let s := s.startExchange lnum
  match (s.launchNo lnum).bind Launch.exch with
  | none => s
  | some e => (e.todo.foldl (fun s i => s.performXfer lnum i) s).releaseStep lnum

/-- The record at which the strand's own engine has stopped (R268). -/
def stoppedFor (s : State) (l : Launch) : Option Stopped :=
  l.exch.bind fun e => e.stopped.find? fun q => (l.kd.xfer[q.rec_]?).any fun x => xferRank l x == s.strand.rankOf

/-- After the handler's `rti` the engine goes on at the failing record (R268). -/
def resumeXfer (s : State) (lnum i : Nat) : State :=
  s.modLaunch lnum fun l => { l with exch := l.exch.map fun e =>
    ⟨i :: e.todo, e.stopped.filter fun q => q.rec_ != i⟩ }

/-- The strand has taken the trap of a stopped record. -/
def tellStopped (s : State) (lnum i : Nat) : State :=
  s.modLaunch lnum fun l => { l with exch := l.exch.map fun e =>
    { e with stopped := e.stopped.map fun q => if q.rec_ = i then { q with told := true } else q } }

/-- The stopped record whose trap the strand, which has arrived, takes at its `sstep` (R268). -/
def stopDue (s : State) : Option (Nat × Stopped) :=
  if !s.strand.sync.began || s.strand.mode != .U || s.strand.inRegion then none
  else
    (s.launchOf s.me).bind fun l =>
      if s.strand.ident.ssArr - 1 < l.superstep then none
      else (s.stoppedFor l).bind fun q => if q.told then none else some (l.num, q)

/-- The waits of `sstep` for a strand that has arrived for superstep `n` (R262, R263). -/
def awaitStep (s : State) (l : Launch) (n : Nat) : Eff Unit :=
  if n < l.superstep then .ok () s
  else
    let s := match s.stoppedFor l with
      | some q => if q.told then s.resumeXfer l.num q.rec_ else s
      | none => s
    let s := if s.turn.post then s else s.runExchange l.num
    if (s.launchNo l.num).any fun k => n < k.superstep then .ok () s else s.holdFor (.step n) (BitVec.ofNat 64 n)

/-- `sstep` (R262). -/
def superstep (s : State) : Eff Unit :=
  if s.strand.mode != .U then .trap 1 s.latch.first 0
  else (s.outside 4).bind fun _ s =>
    if !s.stepMode then .trap 13 s.pcf 0
    else
      match s.launchOf s.me with
      | none => .trap 13 s.pcf 0
      | some l =>
        let k := s.strand.ident.ssArr
        if s.strand.sync.began then s.awaitStep l (k - 1)
        else if s.unacked s.me then .hold s true (BitVec.ofNat 64 l.superstep)
        else
          let s := s.withStrand fun t =>
            (t.modSync fun y => { y with began := true }) |> fun t => { t with ident := { t.ident with ssArr := max k (l.superstep + 1) } }
          s.awaitStep l l.superstep

end State

/-- R262, R268, R422; a pre-emption request is taken after it retires, when the boundary was reached since (R73). -/
def execSstep (s : State) : Out :=
  match s.stopDue with
  | some (n, q) => .next ((s.takeSync q.cause q.sval 0).tellStopped n q.rec_)
  | none =>
  match s.superstep with
  | .ok _ t =>
    let t := t.retire
    .next (if t.strand.preq.any Preempt.ready then t.preemptNow t.me State.noSafePoint else t)
  | e => finish s e

/-- EXCHANGE_START (R270). -/
def execExchangeStart (lnum : Nat) (s : State) : Out := .next (s.startExchange lnum)
/-- XFER_RECORD_PERFORMED (R267). -/
def execXferRecordPerformed (lnum r : Nat) (s : State) : Out := .next (s.performXfer lnum r)
/-- SUPERSTEP_RELEASE (R270). -/
def execSuperstepRelease (lnum : Nat) (s : State) : Out := .next (s.releaseStep lnum)

end Sys2Proof.Machine
end

