-- ==== Sys2Proof/Machine/Events.lean ====
section
/-! DEFINITION. Events of the cores, the slices and the messages between them: what happens beside the strands' own
issue. An event that is not enabled changes nothing. -/

namespace Sys2Proof.Machine

namespace State

/-- Do something on behalf of a strand. -/
def asStrand (s : State) (who : Sid) (f : State → State) : State := { (f { s with me := who }) with me := s.me }

/-! ## Cores -/

/-- A fetch ahead of issue: the line enters the instruction cache; an uncorrectable one is dropped and logged, any other
fault is not reported (R66). -/
def fetchAhead (s : State) (va : Word) : State :=
  match s.parcelAt va with
  | .ok (_, s) => s
  | .error (.fault c v) => s.logFetch c v
  | .error .held => s

/-- What the executing strand's wait waits for has come, though its instruction has still to retire. -/
def waitOver (s : State) : Bool :=
  let y := s.strand.sync
  y.reply.isSome || y.watch.any (·.sat) ||
    match y.what with
    | .other => false
    | .token => !y.token.any fun t => !t.released
    | .wire => y.wireRel
    | .claim k => s.claimWires.isSome && !s.wireBusy k
    | .run => y.xOut.isSome
    | .send => !y.sendOut
    | .recv ch => (s.oldest ch).isSome
    | .qRead q => !(vgetN s.core.q q).isEmpty && s.qTurn (BitVec.ofNat 3 q) false
    | .qWrite q => decide ((vgetN s.core.q q).length < 4) && s.qTurn (BitVec.ofNat 3 q) true
    | .deq d => (s.heldEntry d).isSome
    | .step n => (s.launchOf s.me).any fun l => decide (n < l.superstep)
    | .engine => ceShown s.core.ce == 0
    | .fifth => !s.fifthRound
    | .serial => s.serialTurn
    | .region => s.resolvable s.strand

/-- A bounded wait has lasted BTO resident cycles and has not ended (R53). -/
def waitedOut (s : State) : Bool :=
  let t := s.strand
  t.live && t.sync.held && t.sync.bounded && !s.waitOver && t.csr.bto != 0 && decide (t.csr.bto.toNat ≤ t.sync.waited)

/-- What a time-out reports: of a wire barrier, the rows and columns that lack a member now (R203). -/
def timeoutVal (s : State) : Word :=
  let y := s.strand.sync
  match y.what with
  | .wire => if y.wire ≠ 0 then s.wireMissing y.wire else y.sval
  | .claim k => s.wireMissing k
  | _ => y.sval

/-- A provisional stall has lasted 2^26 resident cycles (R286). -/
def stalledOut (s : State) : Bool :=
  let t := s.strand
  t.live && t.sync.held && !t.sync.bounded && t.sync.sval != 0 && decide (2 ^ 26 ≤ t.sync.waited) && s.provisional s.me

/-- The head request of the special-function unit completes; with its last one the strand's wait is over (R68). -/
def sfuDone (s : State) (core : Nat) : State :=
  match (s.coreAt core).sfu with
  | [] => s
  | k :: rest =>
    let s := s.modCore core fun c => { c with sfu := rest }
    if rest.contains k then s else s.modStrand ⟨core, k⟩ fun t => t.modSync fun y => { y with reply := some 0 }

/-- A strand of S or M stores to an image of the engine window. -/
def imageStore (s : State) (im : WinWord) (w : Word) : State :=
  if !s.strand.live || s.strand.mode == .U then s
  else
    match s.setImage im w with
    | .ok _ s => s
    | _ => s

/-! ## Slices and messages -/

/-- A write in flight is performed at its home slices, or waits there (R185, R195). -/
def performWrite (s : State) (n : Nat) : State :=
  match (s.flights[n]?).map Flight.msg with
  | some (.write ..) => s.performAt n true
  | _ => s

/-- A write in flight is performed at its LM port (R177). -/
def performLm (s : State) (n : Nat) : State :=
  match (s.flights[n]?).map Flight.msg with
  | some (.lmWrite ..) => s.performAt n true
  | _ => s

/-- A read in flight of a core on a line gets its data at the home slice (R185), where it waits behind an atomic that is held
whole (R195). -/
def performRead (s : State) (core pa : Nat) : State :=
  if s.heldWhole (.line (pa / 32 * 32)) then s
  else
  { s with flights := replaceFirst (fun f => f.src.core == core &&
      (match f.msg with | .read l none _ _ => l == pa / 32 | _ => false)) (fun f =>
        match f.msg with
        | .read l _ bs bc => { f with msg := .read l (some (lineAt s.mem l)) bs bc }
        | _ => f) s.flights }

/-- The reply of a read reaches its core, which holds the line (R22, R184). -/
def readReply (s : State) (n : Nat) : State :=
  match s.flights[n]? with
  | none => s
  | some f =>
    match f.msg with
    | .read l (some d) _ _ =>
      let core := f.src.core
      let s := { s with flights := s.flights.eraseIdx n }.received core l
      let seen := s.flights.filter (s.seesWrite f.src l)
      let d := seen.foldl (fun d g => overlay l d (match g.msg with | .write cells _ _ _ => cells | _ => [])) d
      if (s.l1Find core l).isSome then s else s.l1Alloc core l d 0
    | _ => s

/-- The acknowledgement of a performed store reaches its core (R187, R205). -/
def storeAcked (s : State) (n : Nat) : State :=
  match s.flights[n]? with
  | none => s
  | some f =>
    match f.msg with
    | .write cells _ _ _ =>
      if f.done then (linesOf cells).foldl (fun s l => s.barCore f.src.core l) { s with flights := s.flights.eraseIdx n } else s
    | .lmWrite .. => if f.done then { s with flights := s.flights.eraseIdx n } else s
    | _ => s

/-- A scope-miss message arrives (R196). -/
def missArrives (s : State) (n : Nat) : State :=
  match s.flights[n]? with
  | none => s
  | some f =>
    match f.msg with
    | .scopeMiss m => if m.tag.module = s.mp.module then { s with flights := s.flights.eraseIdx n }.deliverMiss m else s
    | _ => s

/-- The firmware answers an entry of the miss register: it has stood for 65,536 cycles, or its strand has ended or been
saved (R196). -/
def missDue (s : State) (m : Miss) : Bool := decide (65536 ≤ m.age) || !s.stands m.tag.who m.tag.lnum

/-- The firmware answers an entry that is due (R196). -/
def missLate (s : State) (core n : Nat) : State :=
  match (s.coreAt core).miss[n]? with
  | none => s
  | some m =>
    if !s.missDue m then s
    else (s.firmwareWiden m).modCore core fun c => { c with miss := c.miss.eraseIdx n }

/-- A widening notice may go out: a fence's has its write-backs behind it; the firmware's waits for them (R196). -/
def noticeReady (s : State) (f : Flight) : Bool :=
  f.done || (match f.msg with | .widen p _ _ => !s.backInFlight f.src.core p | _ => true)

/-- A widening notice arrives: from a core of this module, or from the module that a scope miss went to (R196, R199). -/
def noticeArrives (s : State) (n : Nat) : State :=
  match s.flights[n]? with
  | none => s
  | some f =>
    let s' := { s with flights := s.flights.eraseIdx n }
    match f.msg with
    | .widen p t sc => if s.noticeReady f then s'.widen p t sc else s
    | .scopeMiss m => if m.tag.module = s.mp.module then s else s'.widen m.place m.tag m.need
    | _ => s

/-- A walk by a walker fills the TLBs, or finds a fault and leaves nothing (R299, R300). -/
def walkAhead (s : State) (who : Sid) (va : Word) : State :=
  if !isGlobal va then s
  else
    match s.vdevOf who with
    | some d => (s.leafFor who.core d va.toNat).2
    | none => s

end State

/-- INSTRUCTION_FETCH (R66). -/
def execInstructionFetch (who : Sid) (va : Word) (s : State) : Out := .next (s.asStrand who fun s => s.fetchAhead va)
/-- ASYNC_TRAP_ENTRY (R61, R64). -/
def execAsyncTrapEntry (who : Sid) (s : State) : Out :=
  .next (s.asStrand who fun s =>
    if !s.strand.live then s
    else match s.asyncDue with
      | some (code, val, toM) => s.takeDue code val toM
      | none => s)
/-- BTO_TIMEOUT (R53, R202). -/
def execBtoTimeout (who : Sid) (s : State) : Out :=
  .next (s.asStrand who fun s => if s.waitedOut then s.takeSync 12 s.timeoutVal 0 else s)
/-- PROVISIONAL_STALL_TIMEOUT (R286). -/
def execProvisionalStallTimeout (who : Sid) (s : State) : Out :=
  .next (s.asStrand who fun s => if s.stalledOut then s.takeSync 12 s.strand.sync.sval 0 else s)
/-- GREEDY_RUN_LIMIT (R291). -/
def execGreedyRunLimit (core : Nat) (s : State) : Out :=
  .next (s.modCore core fun c =>
    match c.recent with
    | some k => if 64 ≤ c.run then { c with order := State.moveBack k c.order } else c
    | none => c)
/-- SFU_REQUEST_COMPLETE (R68). -/
def execSfuRequestComplete (core : Nat) (s : State) : Out := .next (s.sfuDone core)
/-- MATRIX_PUSH_STORE (R75, R143, R153): a 64-byte store to the push address queues a record while there is room. -/
def execMatrixPushStore (who : Sid) (data : Rec512) (s : State) : Out :=
  .next (s.asStrand who fun s =>
    if !s.strand.live then s
    else match s.pushRec ⟨Rec.withSlot data s.me.slot, true⟩ with
      | .ok _ t => t
      | _ => s)
/-- HELD_COUNT_WRITE (R75). -/
def execHeldCountWrite (who : Sid) (slot : Nat) (val : Word) (s : State) : Out :=
  .next (s.asStrand who fun s => s.imageStore (.count slot) val)
/-- TLB_INVALIDATE_ALL (R301). -/
def execTlbInvalidateAll (who : Sid) (s : State) : Out := .next (s.asStrand who fun s => s.imageStore .inval 1)
/-- TLB_INVALIDATE_PAGE (R301). -/
def execTlbInvalidatePage (who : Sid) (page : Word) (s : State) : Out :=
  .next (s.asStrand who fun s => s.imageStore .inval (page &&& 0xFFFF_FFFF_0000))
/-- REGISTER_WRITE (R5, R6). -/
def execRegisterWrite (who : Sid) (csr : BitVec 14) (val : Word) (s : State) : Out :=
  .next (s.asStrand who fun s => if s.strand.live && csrMode s.strand.mode csr.toNat && !csrRo s.strand.mode csr.toNat
    then csrWrite s csr.toNat val else s)
/-- PAGE_WALK (R299, R300). -/
def execPageWalk (who : Sid) (va : Word) (s : State) : Out := .next (s.walkAhead who va)
/-- BURST_SEND (R183): requests leave together; only time is at stake. -/
def execBurstSend (_cluster : Nat) (s : State) : Out := .next s
/-- SLICE_WRITE (R185, R195, R224, R249). -/
def execSliceWrite (n : Nat) (s : State) : Out := .next (s.performWrite n)
/-- SLICE_READ (R185). -/
def execSliceRead (core pa : Nat) (s : State) : Out := .next (s.performRead core pa)
/-- MEMORY_REPLY (R22, R184). -/
def execMemoryReply (n : Nat) (s : State) : Out := .next (s.readReply n)
/-- STORE_ACKNOWLEDGEMENT (R187, R205). -/
def execStoreAcknowledgement (n : Nat) (s : State) : Out := .next (s.storeAcked n)
/-- LM_PORT_ACCESS (R177, R179). -/
def execLmPortAccess (n : Nat) (s : State) : Out := .next (s.performLm n)
/-- SCOPE_MISS_MESSAGE (R196). -/
def execScopeMissMessage (n : Nat) (s : State) : Out := .next (s.missArrives n)
/-- MISS_ENTRY_TIMEOUT (R196). -/
def execMissEntryTimeout (core n : Nat) (s : State) : Out := .next (s.missLate core n)
/-- WIDENING_NOTICE (R196). -/
def execWideningNotice (n : Nat) (s : State) : Out := .next (s.noticeArrives n)

end Sys2Proof.Machine
end

