-- ==== Sys2Proof/Machine/Exchange.lean ====
section
/-! DEFINITION. `vxchg` (R473, R474). -/

namespace Sys2Proof.Machine

namespace State

/-- The core at position `p` of run `g` in the field of a core. -/
def runCore (core g p : Nat) : Nat := fieldOf core * 256 + 16 * (g / 2) + 8 * (g % 2) + p

/-- The members of the strand's piece on the eight cores of a run, `none` where one is missing. -/
def runMembers (s : State) (g : Nat) : List (Option (Nat × Strand)) :=
  (List.range 8).map fun p => s.memberOn s.strand.ident (runCore s.me.core g p)

/-- What the member at position `p` receives: chunk j is chunk p of the operand at position j. -/
def exchanged (ops : List V256) (p : Nat) : V256 := ofLanes 32 fun j => lane (ops.getD j 0) 32 p

/-- Once all eight members of a run have arrived, each gets its result. -/
def completeRun (s : State) (g : Nat) : State :=
  let ms := (s.runMembers g).filterMap id
  let ops := ms.filterMap fun q => match q.2.sync.xIn with
    | some (r, v) => if r = g then some v else none
    | none => none
  if ms.length = 8 ∧ ops.length = 8 then
    ms.foldl (fun s q => s.modStrand (Sid.ofKey q.1) fun t => t.modSync fun y =>
      { y with xIn := none, xOut := some (exchanged ops (colOf (q.1 / 4) % 8)) }) s
  else s

/-- The wait for the run, then the result under the mask. -/
def takeRun (s : State) (ty : ETy) (a : VReg) (m : MaskMod) (x : Word) : Eff Unit :=
  match s.strand.sync.xOut with
  | some r =>
    let w := ty.bits
    .ok () ((s.modSync fun y => { y with xOut := none }).setV a
      (mergeLanes w (s.active m) (zeroing m) (s.v a) (lane r w)))
  | none => if s.strand.sync.xIn.isSome then s.holdFor .run x else .ok () s

end State

/-- R473. -/
def execVxchg (ty : ETy) (a b : VReg) (d : XReg) (m : MaskMod) (s : State) : Out :=
  let x := s.x d
  finish s (s.notStep.bind fun _ s =>
    if 32 ≤ x.toNat then .trap 14 (State.errVal 8 x) 0
    else
      let g := x.toNat
      if s.strand.sync.began then s.takeRun ty a m x
      else if !((List.range 8).any fun p => State.runCore s.me.core g p == s.me.core) || (s.runMembers g).any Option.isNone then
        .trap 14 (State.errVal 3 x) 0
      else if s.strand.sync.xIn.isSome then s.holdFor .run x
      else ((s.modSync fun y => { y with xIn := some (g, s.v b), xOut := none, began := true }).completeRun g).takeRun ty a m x)

end Sys2Proof.Machine
end

