-- ==== Sys2Proof/Machine/Pieces.lean ====
section
/-! DEFINITION. The end of strands, pieces and launches (R37, R80, R279, R289, R395), delivery of a shape (R284, R287), and
the completions that the E-die writes (R136, R272, R316). -/

namespace Sys2Proof.Machine

namespace State

/-! ## The end of a strand (R80, R395) -/

/-- Release every register that a slot owns. -/
def releaseSlot (town : Word) (slot : Nat) : Word :=
  (List.range 12).foldl (fun t k =>
    if owns t k slot then setField (setField t (5 * k + 2) 1 0) (5 * k + 4) 1 0 else t) town

/-- The strand's piece has lost a member: it ends with its last, and is saved once those that are left are (R37). -/
def memberGone (w : Sid) (m : Nat) (p : Piece) : Piece :=
  let at_ := p.at_.erase w
  let gone := m :: p.gone
  { p with
    at_ := at_
    gone := gone
    st := if !at_.isEmpty || p.st != .running then p.st else if p.lm.length ≤ gone.length then .ended else .saved }

/-- The wires of a piece are held until it ends (R210). -/
def freeWires (s : State) (lnum st idx : Nat) : State :=
  let past := (s.launchNo lnum).all fun l => l.pieces.all fun (p : Piece) =>
    !(p.stage == st && p.idx == idx) || p.st == .ended || p.st == .squashed
  if past then { s with wires := s.wires.filter fun c => !(c.lnum == lnum && c.stage == st && c.piece == idx) } else s

/-- The queue entries that a strand holds, on their way back to their queues (R202). -/
def heldBack (w : Sid) (t : Strand) : List Flight :=
  t.sync.sqHeld.map fun (q : SqEntry) => ⟨w, .requeue t.ident.vdev q.desc q.room q.val, false⟩

/-- A strand ends: its slot and reservation are free, its registers released, what it held goes back (R37, R395). -/
def endStrand (s : State) (w : Sid) : State :=
  let t := s.strandAt w
  let i := t.ident
  let s := s.runtimeUp w
  let s := if t.troupe.size != 0 && t.troupe.lead == w.key then s.dissolve w.key t.pc false else s
  let s := (s.dropBuffer w).modCore w.core fun c =>
    { c with
      order := c.order.erase w.slot
      town := releaseSlot c.town w.slot
      recent := if c.recent = some w.slot then none else c.recent }
  let s := { s with flights := s.flights ++ heldBack w t }
  let s := s.setPiece i.lnum i.stage i.piece (memberGone w i.member)
  let s := s.modLaunch i.lnum fun l => { l with exch := l.exch.map fun e =>
    { e with stopped := e.stopped.filter fun q => (l.kd.xfer[q.rec_]?).all fun x => xferRank l x != t.rankOf } }
  let s := (s.releaseParked t.rankOf).setStrand w Strand.reset
  let s := (s.freeWires i.lnum i.stage i.piece)
  if s.turn.post then s else (s.groupOf { t with live := true }).foldl (fun s u => s.completeRound u) s

/-- Some matrix record of the slot is queued or executing. -/
def matrixBusy (s : State) (w : Sid) : Bool :=
  let m := (s.coreAt w.core).matrix
  (m.queue.any fun r => Rec.slot r.bits == w.slot) || m.run.any fun r => Rec.slot r.cmd.bits == w.slot

/-- `piece.end` (R289, R395). -/
def pieceEnd (s : State) : Eff Unit :=
  let busy := (s.core.ce.stat == 2 && s.core.ce.owner == s.me.slot) || s.matrixBusy s.me
  if rgsState s.strand.csr.rgs ≠ 0 then .trap 11 8 0
  else if busy || s.strand.sync.sendOut then .hold s false 0
  else (s.drainW s.me.core fun l => l.by_ == s.rankAt s.me).releaseAction 5

/-! ## Squash (R287) -/

/-- K of a delivered size that is not above P: pieces from it on do not stand. -/
def cutAt (l : Launch) : Option Nat :=
  match l.delivered with
  | some n => if l.lrec.shp ∧ n ≤ l.p then some (max n l.lrec.g) else none
  | none => none

/-- The piece of stage 0 is surplus. -/
def surplus (l : Launch) (idx : Nat) : Bool := (cutAt l).any fun k => decide (k ≤ idx)

/-- Engine work of a slot is discarded. -/
def discardWork (s : State) (w : Sid) : State :=
  s.modCore w.core fun c =>
    let mine (r : Rec512) : Bool := Rec.slot r == w.slot
    { c with
      matrix := { c.matrix with
        queue := c.matrix.queue.filter fun m => !mine m.bits
        run := c.matrix.run.filter fun m => !mine m.cmd.bits }
      ce := if c.ce.owner = w.slot ∧ c.ce.stat ≠ 0 then { c.ce with stat := 0, due := false } else c.ce }

/-- A write of a piece of stage 0 that has still to be performed. -/
def unlanded (l : Launch) (idx : Nat) (f : Flight) : Bool :=
  !f.done && match f.msg with
    | .write _ _ _ by_ => by_.any fun r => r.lnum == l.num && r.stage == 0 && r.rank / stageWidth l 0 == idx
    | _ => false

/-- The bytes that a piece has written, performed or on their way, read 0 from here on: in memory, in every clean copy, and for
the reads that had found them. -/
def zeroProv (s : State) (l : Launch) (idx : Nat) : State :=
  let sent := (s.flights.filter (unlanded l idx)).flatMap fun f => match f.msg with | .write cells _ _ _ => cells | _ => []
  let pas := (s.prov.filter fun p => p.lnum == l.num && p.piece == idx).map ProvByte.pa
    ++ (sent.filter fun c => moduleOfPa c.1 == s.mp.module && mappedPa c.1).map Prod.fst
  let clean (k : Line) : Line :=
    { k with data := pas.foldl (fun d a =>
        if a / 32 = k.line ∧ !k.dirty.getLsbD (a % 32) then setByte d (a % 32) 0 else d) k.data }
  let again (f : Flight) : Flight := match f.msg with
    | .read n (some _) bs bc => if pas.any fun a => a / 32 == n then { f with msg := .read n none bs bc } else f
    | _ => f
  let s := { s with
    cores := s.cores.map fun (q : Nat × Core) => (q.1, { q.2 with l1 := q.2.l1.map clean })
    flights := (s.flights.filter fun f => !unlanded l idx f).map again }
  s.sliceWrite (pas.map fun a => (a, 0)) none

/-- Saved strands end where they lie. -/
def dropSaved (s : State) (p : Saved → Bool) : State :=
  let s := (s.saved.filter p).foldl (fun s v => s.releaseParked v.strand.rankOf) s
  { s with
    saved := s.saved.filter fun v => !p v
    flights := s.flights ++ (s.saved.filter p).flatMap fun v => heldBack v.from_ v.strand }

/-- PIECE_SQUASH: a surplus piece ends without trap, or is dropped from its save; what it has sent and is not yet performed is
dropped with it. -/
def squash (s : State) (lnum idx : Nat) : State :=
  match s.launchNo lnum with
  | none => s
  | some l =>
    match l.pieces.find? fun (p : Piece) => p.stage == 0 && p.idx == idx with
    | none => s
    | some p =>
      if !surplus l idx || p.st == .squashed then s
      else
        let me := s.me
        let s := p.at_.foldl (fun s w => ((({ s with me := w }.discardWork w).cancelWaits).endStrand w).dropBlocks w) s
        let s := { s with me := me }.dropSaved fun v =>
          v.strand.ident.lnum == lnum && v.strand.ident.stage == 0 && v.strand.ident.piece == idx
        ((s.zeroProv l idx).setPiece lnum 0 idx fun p => { p with st := .squashed }).freeWires lnum 0 idx

/-! ## Delivery of a shape (R285, R287) -/

/-- Runs cut to the indices below `k`. -/
def cutRuns (k : Nat) (l : List (Nat × Nat)) : List (Nat × Nat) := (l.filter fun r => r.1 < k).map fun r => (r.1, min r.2 k)

/-- Bytes that `n` pieces map of an allocation. -/
def mappedFor (a : Alloc) (n : Nat) : Nat := (n * a.per + 65535) / 65536 * 65536

/-- N ≤ P: surplus indices leave the carousels, surplus pieces lose their engine work, the allocations shrink. -/
def trim (s : State) (l : Launch) (k : Nat) : State :=
  let gone := (l.pieces.filter fun (p : Piece) => p.stage == 0 && decide (k ≤ p.idx)).flatMap fun (p : Piece) =>
    if p.st == .running then p.at_ else []
  let s := gone.foldl (fun s w => s.discardWork w) s
  let s := s.modLaunch l.num fun l => { l with
    carousels := l.carousels.map fun c => if c.stage = 0 then { c with runs := cutRuns k c.runs } else c
    pieces := l.pieces.filter fun (p : Piece) => !(p.stage == 0 && decide (k ≤ p.idx) && p.st == .placed)
    allocs := l.allocs.map fun a => { a with size := min a.size (mappedFor a k) } }
  s.dropTlb l.vdev none

/-- The carousels of stage 0 with more indices behind those that stand there. -/
def addRuns (more : List Carousel) (l : List Carousel) : List Carousel :=
  l.map fun c =>
    if c.stage = 0 then { c with runs := c.runs ++ (more.filter fun m => m.die == c.die).flatMap Carousel.runs } else c

/-- N > P: the tail launch (R287). -/
def grow (s : State) (d : VDev) (l : Launch) (n : Nat) : State :=
  let s := l.allocs.foldl (fun s a => s.zeroAlloc d a a.size (mappedFor a n)) s
  s.modLaunch l.num fun l => { l with
    p := n
    carousels := addRuns (splitRun d 0 l.p n) l.carousels
    allocs := l.allocs.map fun a => { a with size := mappedFor a n } }

/-- SHAPE_DELIVERY: the launch reads N once (R284, R287). -/
def deliverShape (s : State) (lnum : Nat) : State :=
  let s := s.lookFar lnum
  match s.launchNo lnum with
  | none => s
  | some l =>
    match s.vdevNo l.vdev, l.seen, l.delivered with
    | some d, some n, none =>
      let most := mostPieces l.allocs
      let s := s.learn d.num l.lrec.kdesc l.lrec.pred n
      let s := s.modLaunch lnum fun l => { l with
        delivered := some n
        status := if n < l.lrec.g then 16 else if min n most < n then 17 else l.status }
      let s := { s with prov := s.prov.filter fun p => !(p.lnum == lnum && decide (p.piece < n)) }
      if n ≤ l.p then s.trim l (max n l.lrec.g) else if l.p < min n most then (s.grow d l (min n most)).makeRoom d lnum else s
    | _, _, _ => s

/-- `shape` (R284, R415). -/
def shapeStore (s : State) (a b : XReg) : Eff Unit :=
  let va := s.x b
  (s.outside 4).bind fun _ s =>
    if va.toNat % 8 ≠ 0 then .trap 2 va 0
    else if !isGlobal va then .trap 7 va 0
    else
      s.notStep.bind fun _ s =>
        if s.provisional s.me then (place s .store false va 8).bind fun _ s => s.provStall
        else s.storeAt va (bytesOfNat 8 (2 ^ 63 + min (s.x a).toNat (2 ^ 25 - 1))) ⟨5, .release, 0⟩

/-! ## Signatures (R136, R272) -/

/-- The signature of a step-mode launch (R136). -/
def signature (s : State) (l : Launch) : V256 :=
  let k := l.lrec.kdesc.toNat
  let image := shake256 (l.kd.image ++ bytesOfNat 8 (Config.bssSize k l.kd.image).toNat ++ l.kd.raw)
  let steps := shake256 (l.kd.xferRaw ++ Config.routineLists k l.kd.image)
  let level := (s.vdevNo l.vdev).elim 0 VDev.level
  shake256 (bytesOfNat 32 image.toNat ++ bytesOfNat 8 l.lrec.fpc.toNat ++ bytesOfNat 1 level ++ bytesOfNat 32 steps.toNat
    ++ bytesOfNat 16 (s.mp.features.elim 0 BitVec.toNat) ++ bytesOfNat 7 0)

/-! ## Idle devices (R304) -/

/-- A device holds no strand, no launch, no pending command and no engine transfer. -/
def nothingLeft (s : State) (d : VDev) : Bool :=
  !(s.residents.any fun q => q.2.ident.vdev == d.num)
    && !(s.launches.any fun l => l.vdev == d.num)
    && !(s.host.waiting.any fun c => c.vdev == d.num)
    && !(s.host.copies.any fun c => c.vdev == d.num)
    && !(s.submits.any fun p => p.vdev == d.num)
    && !(s.cores.any fun q => inVdev d q.1 && q.2.ce.stat == 2)

/-- A Running device that holds nothing becomes Idle. -/
def settleVdev (s : State) (vdev : Nat) : State :=
  match s.vdevNo vdev with
  | some d => if d.power = .running ∧ s.nothingLeft d then s.modVdev vdev fun d => { d with power := .idle } else s
  | none => s

/-! ## The end of a launch (R37, R279) -/

/-- A piece is over: squashed, or ended and not surplus, for a surplus piece that ended is squashed first (R287). -/
def pieceOver (l : Launch) (p : Piece) : Bool :=
  p.st == .squashed || (p.st == .ended && !(p.stage == 0 && surplus l p.idx))

/-- Every piece of every stage has ended and a shape launch has had its size; or the launch has been ended from outside. -/
def hasEnded (l : Launch) : Bool :=
  l.aborted || (!hasWaiting l && l.pieces.all (pieceOver l) && (!l.lrec.shp || l.delivered.isSome) && l.runAt.isSome)

/-- The launch leaves the engine: barrier slots that it configured are disabled (R206), its messages are gone, its
allocations unmapped unless they persist (R288). -/
def forget (s : State) (l : Launch) : State :=
  let s := { s with
    launches := s.launches.filter fun k => k.num != l.num
    prov := s.prov.filter fun p => p.lnum != l.num
    wires := s.wires.filter fun c => c.lnum != l.num
    flights := s.flights.filter fun f => match f.msg with
      | .chan _ t _ _ => t.lnum != l.num
      | .chanWait _ t _ _ => t.lnum != l.num
      | _ => true
    cores := s.cores.map fun (q : Nat × Core) =>
      (q.1, { q.2 with bars := q.2.bars.map fun (b : Nat × Barrier) => if b.2.lnum = l.num then (b.1, { b.2 with n := 0 }) else b }) }
  let s := s.modVdev l.vdev fun d => { d with kept := d.kept ++ l.allocs.filter fun a => d.persist.contains a.base }
  s.dropTlb l.vdev none

/-- The counter of a launch that ends (R279); with an uncorrectable error there the launch ends with status 8, and the address
(R67, R317; entry 107). -/
def countLaunch (s : State) (l : Launch) (status : Nat) (val : Word) : Nat × Word × State :=
  match s.vdevNo l.vdev with
  | none => (status, val, s)
  | some d =>
    if l.lrec.done = 0 then (status, val, s)
    else
      match s.countUp d l.lrec.done with
      | .ok s => (status, val, s)
      | .error true => (8, l.lrec.done, s)
      | .error false => (status, val, s)

/-- A launch ends with a status (R279, R315): the counter, the completion with its signature, the device settles. -/
def endLaunch (s : State) (l : Launch) (status : Nat) (val : Word) : State :=
  let (status, val, s) := s.countLaunch l status val
  let s := match l.origin with
    | some o => (s.setServing o.serial).complete o.queue o.tag status l.num val (if l.lrec.step then s.signature l else 0)
    | none => s
  (s.forget l).settleVdev l.vdev

/-- Writes of a launch that has been ended from outside are still on their way: its strands waited for none of them. -/
def writesLeft (s : State) (l : Launch) : Bool :=
  l.aborted && s.flights.any fun f =>
    match f.msg with
    | .write _ _ own by_ => (by_.any fun q => q.lnum == l.num) || (!own && (s.vdevNo l.vdev).any fun d => inVdev d f.src.core)
    | _ => false

/-- The line of a launch's completion counter. -/
def doneLine (s : State) (l : Launch) : List Target :=
  match s.vdevNo l.vdev with
  | some d => if l.lrec.done = 0 then [] else s.counterLine d l.lrec.done
  | none => []

/-- LAUNCH_COMPLETION: the launch has ended and its writes are performed; the counter's older release that is narrower is
widened first (R195, R279). -/
def completeLaunch (s : State) (lnum : Nat) : State :=
  match s.launchNo lnum with
  | none => s
  | some l =>
    if !hasEnded l || s.writesLeft l then s
    else
      let (wide, s) := s.allWide (s.doneLine l)
      if wide then s.endLaunch l l.status l.val else s

/-- A launch ended from outside: nothing of it is left to place or to run. -/
def cutShort (l : Launch) (status : Nat) (val : Word) : Launch :=
  { l with
    aborted := true
    status := status
    val := val
    carousels := []
    exch := none
    pieces := l.pieces.map fun p => { p with st := if p.st = .squashed then .squashed else .ended, at_ := [] } }

/-- VAL of a launch that the firmware ends: the rank of its strand whose trap is taken in M (status 9), or the address of the
error (status 8, cause 19), else 0 (R62, R316, R317; entry 97). -/
def blame (s : State) (lnum status : Nat) : Word :=
  match s.residents.find? fun q => q.2.ident.lnum == lnum && q.2.mode == .M && !q.2.mBank.cause.getLsbD 63 with
  | some (_, t) =>
    if status = 9 then BitVec.ofNat 64 t.ident.rank else if status = 8 ∧ t.mBank.cause = 19 then t.mBank.tval else 0
  | none => 0

/-- Firmware ends a launch (R62, R309): its strands end where they stand, with their stores written back (R279); the device's
event queue is told; and the launch completes with the status once every write of it is performed. -/
def abortLaunch (s : State) (lnum status : Nat) : State :=
  match s.launchNo lnum with
  | none => s
  | some l =>
    if l.aborted then s else
    let me := s.me
    let val := s.blame lnum status
    let mine := (s.residents.filter fun q => q.2.ident.lnum == lnum).map fun q => Sid.ofKey q.1
    let s := mine.foldl (fun s w => (((({ s with me := w }.flushOf w).discardWork w).cancelWaits).endStrand w)) s
    let s := { s with me := me }.dropSaved fun v => v.strand.ident.lnum == lnum
    let s := (s.unmarkEngines lnum).postEvent l.vdev status l.num val
    (s.modLaunch lnum (cutShort · status val)).completeLaunch lnum

end State

/-- R289, R395. -/
def execPieceEnd (s : State) : Out :=
  match s.pieceEnd with
  | .ok _ t => .next (t.endStrand t.me)
  | e => finish s e
/-- R284, R415. -/
def execShape (a b : XReg) (s : State) : Out := finish s (s.shapeStore a b)
/-- SHAPE_DELIVERY (R287). -/
def execShapeDelivery (lnum : Nat) (s : State) : Out := .next (s.deliverShape lnum)
/-- PIECE_SQUASH (R287). -/
def execPieceSquash (lnum idx : Nat) (s : State) : Out := .next (s.squash lnum idx)
/-- LAUNCH_COMPLETION (R279). -/
def execLaunchCompletion (lnum : Nat) (s : State) : Out := .next (s.completeLaunch lnum)

end Sys2Proof.Machine
end

