-- ==== Sys2Proof/Machine/Xmss.lean ====
section
/-! DEFINITION. Verification of an XMSS signature (RFC 8391) with the parameter set XMSS-SHAKE256_20_256 of NIST SP 800-208:
n = 32, w = 16, 67 chains, height 20 (R323; entry 96). -/

namespace Sys2Proof.Machine.Xmss

/-- A node: 32 bytes. -/
abbrev Node := List Byte

/-- `n` bytes of a number, the most significant first. -/
def be (n v : Nat) : List Byte := (bytesOfNat n v).reverse

/-- The hash with its prefix and its key: 0 in chains, 1 in trees, 2 of the message, 3 for the keys and masks
(entry 98). -/
def keyed (k : Nat) (key m : List Byte) : Node := bytesOfNat 32 (shake256 (be 32 k ++ key ++ m)).toNat

/-- An address, of layer 0 and tree 0: its type, its three words, and whether it names the key or a mask (entry 98). -/
def adrs (ty a b c mask : Nat) : List Byte := be 12 0 ++ be 4 ty ++ be 4 a ++ be 4 b ++ be 4 c ++ be 4 mask

def xorBytes (a b : List Byte) : List Byte := a.zipWith (· ^^^ ·) b

/-- One step of chain `c` of one-time key `i` at hash address `j`. -/
def chainStep (seed : Node) (i c : Nat) (x : Node) (j : Nat) : Node :=
  keyed 0 (keyed 3 seed (adrs 0 i c j 0)) (xorBytes x (keyed 3 seed (adrs 0 i c j 1)))

/-- A chain from step `lo` to its end. -/
def chainEnd (seed : Node) (i c lo : Nat) (x : Node) : Node :=
  ((List.range (15 - lo)).map (lo + ·)).foldl (chainStep seed i c) x

/-- Two nodes hashed to one at an address of a tree. -/
def join (seed : Node) (ty a b c : Nat) (l r : Node) : Node :=
  keyed 1 (keyed 3 seed (adrs ty a b c 0)) (xorBytes (l ++ r) (keyed 3 seed (adrs ty a b c 1) ++ keyed 3 seed (adrs ty a b c 2)))

/-- The 64 base-16 digits of a digest and the three of their checksum. -/
def digits (m : Node) : List Nat :=
  let d := m.flatMap fun b => [b.toNat / 16, b.toNat % 16]
  let sum := (d.map fun x => 15 - x).sum
  d ++ [sum / 256, sum / 16 % 16, sum % 16]

/-- One level of the tree over the 67 chain ends; an odd one goes up as it is. -/
def pairUp (seed : Node) (i h : Nat) : Nat → List Node → List Node
  | k, l :: r :: rest => join seed 1 i h k l r :: pairUp seed i h (k + 1) rest
  | _, l => l

/-- The leaf of a one-time public key: seven levels bring 67 nodes to one. -/
def leafOf (seed : Node) (i : Nat) (pk : List Node) : Node :=
  ((List.range 7).foldl (fun l h => pairUp seed i h 0 l) pk).headD []

/-- Up the tree from leaf `i` along the path of its signature. -/
def climb (seed : Node) (i : Nat) : Nat → Node → List Node → Node
  | _, x, [] => x
  | k, x, y :: rest =>
    let up := if i / 2 ^ k % 2 = 0 then join seed 2 0 k (i / 2 ^ (k + 1)) x y else join seed 2 0 k (i / 2 ^ (k + 1)) y x
    climb seed i (k + 1) up rest

/-- Node `k` of the nodes of a signature, which follow its 4-byte index. -/
def nodeAt (sig : List Byte) (k : Nat) : Node := (sig.drop (4 + 32 * k)).take 32

/-- Bytes of a signature: the index, the randomizer, 67 chain values and 20 nodes of the path. -/
def sigBytes : Nat := 4 + 32 * (1 + 67 + 20)

/-- The root that a signature gives for a message, under the root and the seed of the public key. -/
def rootFrom (root seed : Node) (m sig : List Byte) : Node :=
  let i := natOfBytes (sig.take 4).reverse
  let digest := keyed 2 (nodeAt sig 0 ++ root ++ be 32 i) m
  let ends := ((digits digest).zip (List.range 67)).map fun q => chainEnd seed i q.2 q.1 (nodeAt sig (1 + q.2))
  climb seed i 0 (leafOf seed i ends) ((List.range 20).map fun k => nodeAt sig (68 + k))

/-- A message verifies against a public key. -/
def verifies (root seed : Node) (m sig : List Byte) : Bool := sig.length == sigBytes && rootFrom root seed m sig == root

end Sys2Proof.Machine.Xmss

namespace Sys2Proof.Machine

/-- A firmware image verifies: its signature, which stands last, is over everything before it, against the root and the seed in
fuses (R323; entry 96). -/
def imageGood (root seed : V256) (image : List Byte) : Bool :=
  let k := image.length - Xmss.sigBytes
  Xmss.verifies (bytesOfNat 32 root.toNat) (bytesOfNat 32 seed.toNat) (image.take k) (image.drop k)

end Sys2Proof.Machine
end

