-- ==== Sys2Proof/Machine/Hosts.lean ====
section
/-! DEFINITION. Work queues and their commands LAUNCH, COPY, EVENT, SHAPE and WAKE (R311 to R318), collectives (R322), and
accesses of other modules (R199, R321). -/

namespace Sys2Proof.Machine

namespace State

/-! ## How a command arrives, waits and starts -/

/-- The binding of a work queue (R312; entry 63). -/
def boundTo (s : State) (q : Nat) : Option (WorkQueue × VDev) :=
  match s.host.queues.find? fun p => p.1 == q with
  | some (_, wq) => (s.vdevNo wq.vdev).map fun d => (wq, d)
  | none => none

/-- The module takes no command: frozen (R328), or in recovery boot, which accepts an image only (R324). -/
def deaf (s : State) : Bool := s.mp.frozen || s.mp.recovery || !s.mp.booted

/-- A command arrives: it is outstanding from here on, and is served (R315). -/
def cmdArrives (s : State) (h : HostHead) : State :=
  let k := s.host.arrived + 1
  { s with host := { s.host with arrived := k, serving := k, live := s.host.live ++ [(h.queue, k)] } }

/-- The earlier commands of its queue that a command with ORD = 1 waits for (R315). -/
def ordPreds (s : State) (h : HostHead) : List Nat :=
  if h.ord then (s.host.live.filter fun p => p.1 == h.queue).map Prod.snd else []

/-- CREATE, DESTROY and RESTORE, of which one runs at a time (R319, R326). -/
def isLayout (words : List Word) : Bool :=
  match words.map BitVec.toNat with
  | 6 :: k :: _ => k == 1 || k == 2 || k == 18
  | _ => false

/-- The commands that it waits for by ORD = 1 have completed (R315). -/
def inTurn (s : State) (c : Waiting) : Bool := c.preds.all fun p => !s.host.live.any fun q => q.2 == p

/-- An earlier command that has not begun and holds this one back: layout commands wait in the order of their arrival (R326),
and those that a device holds are delivered in that order (R307), where one with ORD = 1 then waits apart. -/
def holdsBack (s : State) (e c : Waiting) : Bool :=
  decide (e.serial < c.serial) && !e.begun && e.vdev == c.vdev
    && (if c.vdev = 0 then isLayout e.words && isLayout c.words else s.inTurn e)

/-- A command that moves bytes over a port beside its own: DOMAIN, ATTEST and RESTORE, and a COPY from or to host memory or
within a collective group. -/
def usesHost (words : List Word) : Bool :=
  match words.map BitVec.toNat with
  | [2, _, _, _, flags, _] => flags % 8 != 0
  | 6 :: k :: _ => k == 14 || k == 16 || k == 18
  | _ => false

/-- A layout change stands whose done record is still to come: its nodes stay stopped until then (R326, R327). -/
def changing (s : State) : Bool := s.mp.journal.any fun j => !j.done

/-- A command may start: those before it have completed, its device, if any, is up and not stopped, a port carries what it moves
(R311), no layout change stands in its way. -/
def mayStart (s : State) (c : Waiting) : Bool :=
  s.inTurn c
    && ((s.vdevNo c.vdev).all fun d => d.power != .boxed && !d.waking && !s.stopped d.num)
    && (s.linked || !usesHost c.words)
    && !(isLayout c.words && s.changing)
    && !s.host.waiting.any fun e => s.holdsBack e c

/-- Leave a command waiting. -/
def holdCmd (s : State) (c : Waiting) : State := { s with host := { s.host with waiting := s.host.waiting ++ [c] } }

/-- The next place in the order of wake arrivals (R305). -/
def nextWake (s : State) : Nat := s.vdevs.foldl (fun n d => max n (d.wakeSeq + 1)) 1

/-- A waking event stops the boxing of a device: it is Running again, and a BOX command that began it has failed (R308; entry
92). -/
def stopBoxing (s : State) (vdev : Nat) : State :=
  let mine (c : Waiting) : Bool := c.vdev == vdev && c.begun && c.words == [6, 11]
  let k := s.host.serving
  let s := (s.host.waiting.filter mine).foldl (fun s c => (s.setServing c.serial).complete c.head.queue c.head.tag 10 0 0 0) s
  let s := { s with host := { s.host with serving := k, waiting := s.host.waiting.filter fun c => !mine c } }
  s.modVdev vdev fun d => { d with boxing := false, power := .running }

/-- A waking event reaches a device: a boxed one wakes (R307, R308). -/
def wakeVdev (s : State) (vdev : Nat) : State :=
  match s.vdevNo vdev with
  | none => s
  | some d =>
    if d.power = .boxed then (if d.waking then s else s.modVdev vdev fun d => { d with waking := true, wakeSeq := s.nextWake })
    else if d.boxing then s.stopBoxing vdev
    else s

/-- A command reaches the E-die, or, where the turn names one that waits, it is looked at again (R311, R315; entry 6). -/
def takeCmd (s : State) (h : HostHead) (vdev : Nat) (words : List Word) (run : State → State) : State :=
  if s.deaf then s
  else
    match s.turn.look with
    | some k =>
      match s.host.waiting.find? fun c => c.serial == k && c.head == h && c.words == words with
      | some c =>
        if s.mayStart c then run ({ s with host := { s.host with waiting := s.host.waiting.erase c } }.setServing k) else s
      | none => s
    | none =>
      if !s.linked then s
      else
        let preds := s.ordPreds h
        let s := (s.cmdArrives h).wakeVdev vdev
        let c : Waiting := ⟨h, vdev, words, preds, s.host.arrived, false⟩
        if s.mayStart c then run s else s.holdCmd c

/-- The command that is served has begun and waits on. -/
def stayCmd (s : State) (h : HostHead) (vdev : Nat) (words : List Word) : State :=
  s.holdCmd ⟨h, vdev, words, [], s.host.serving, true⟩

/-- A command on a queue that is bound to a device (R304, R307, R312, R315). `keep`: it leaves an Idle device Idle. -/
def onVdev (s : State) (h : HostHead) (words : List Word) (keep : Bool) (run : VDev → State → State) : State :=
  match s.boundTo h.queue with
  | none => s.takeCmd h 0 words fun s => s.complete h.queue h.tag 7 0 0 0
  | some (wq, _) =>
    s.takeCmd h wq.vdev words fun s =>
      match s.vdevNo wq.vdev with
      | none => s.complete h.queue h.tag 7 0 0 0
      | some d =>
        let s := if d.power = .idle ∧ !keep then s.modVdev d.num fun d => { d with power := .running } else s
        (run d s).settleVdev d.num

/-- A command on the management queue (R312, R319); on another queue it completes with status 7. -/
def onManagement (s : State) (h : HostHead) (words : List Word) (run : State → State) : State :=
  if h.queue = 0 then s.takeCmd h 0 words run
  else s.onVdev h words false fun _ s => s.complete h.queue h.tag 7 0 0 0

/-- Complete a command without a launch number. -/
def ends (s : State) (h : HostHead) (status : Nat) (val : Word) : State := s.complete h.queue h.tag status 0 val 0

/-! ## LAUNCH -/

/-- The record of a LAUNCH is admitted (R273 to R283); a refused one completes at once. -/
def admitHost (s : State) (h : Origin) (d : VDev) (bytes : List Byte) : State :=
  let (st, n, s) := s.admitRecord d bytes false (some h)
  if st = 0 then s else (s.setServing h.serial).complete h.queue h.tag st n 0 0

/-- An earlier record of the same queue still waits: a queue's commands are admitted in the order of arrival (R315). -/
def passes (s : State) (n : Nat) (o : Origin) : Bool :=
  (s.submits.take n).any fun p => p.origin.any fun q => q.queue == o.queue

def hostLaunch (s : State) (h : HostHead) (addr : Word) : State :=
  s.onVdev h [1, addr] false fun d s =>
    if addr.toNat % 8 ≠ 0 then s.ends h 1 0
    else
      match s.engineBytes d addr.toNat 128 with
      | none => s.ends h 3 0
      | some bytes =>
        let o : Origin := ⟨h.queue, h.tag, s.host.serving⟩
        if s.turn.post || s.passes s.submits.length o then { s with submits := s.submits ++ [⟨none, some o, d.num, addr, bytes⟩] }
        else s.admitHost o d bytes

/-- LAUNCH_RECORD_ADMISSION: the launch engine answers the record that has waited at place `n`. -/
def admitNext (s : State) (n : Nat) : State :=
  match s.submits[n]? with
  | none => s
  | some p =>
    match p.who, p.origin, s.vdevNo p.vdev with
    | some _, _, _ => s.admitSubmit n
    | none, some o, some d =>
      if s.passes n o then s
      else ({ s with submits := s.submits.eraseIdx n }.admitHost o d p.bytes).settleVdev d.num
    | _, _, _ => s

/-! ## COPY -/

def copySrch (c : HCopy) : Bool := c.flags.getLsbD 0
def copyDsth (c : HCopy) : Bool := c.flags.getLsbD 1
def copyRed (c : HCopy) : Bool := c.flags.getLsbD 2
def copyGroup (c : HCopy) : Nat := field c.flags 32 32

/-- The source bytes of a copy, or where it fails (entry 46). -/
def copySource (s : State) (d : VDev) (c : HCopy) : Except (Bool × Nat) (List Byte) :=
  if copySrch c then .ok (s.host.mem.readN c.src.toNat c.len) else s.engineRead d c.src.toNat c.len

/-- The cells at the destination of a copy in the memories of modules, or where it fails. -/
def copyCells (s : State) (d : VDev) (c : HCopy) (bs : List Byte) : Except (Bool × Nat) (List Host.Cell) :=
  if copyDsth c then .ok [] else s.engineCells d c.dst.toNat bs

/-- A copy may write: a port carries what it moves to or from a host or another module of its group; no held release blocks a
line that it writes (R195); and its counter is wide enough (R314). -/
def copyClear (s : State) (d : VDev) (c : HCopy) (cells : List Host.Cell) : Bool × State :=
  let free := (linesOf (s.ownCells cells)).all fun l => !s.blocked.any fun q => q.1 == .line (l * 32)
  let (wide, s) := if c.done = 0 then (true, s) else s.allWide (s.counterLine d c.done)
  ((s.linked || !(copySrch c || copyDsth c || copyRed c)) && free && wide, s)

/-- A copy fails: status 8 where the error is uncorrectable, else 11 (R67, R317). -/
def failCopy (s : State) (c : HCopy) (e : Bool × Nat) : State := s.ends c.head (if e.1 then 8 else 11) (BitVec.ofNat 64 e.2)

/-- The last byte of a copy is performed at the home slices or in host memory, and after it the counter and the completion,
for which nothing of the copy is then left to release (R190, R314, R315). -/
def landCopy (s : State) (d : VDev) (c : HCopy) (bs : List Byte) (cells : List Host.Cell) : State :=
  let s :=
    if copyDsth c then { s with host := { s.host with mem := s.host.mem.writeN c.dst.toNat bs } }
    else s.sliceWrite (s.ownCells cells) none
  if c.done = 0 then s.ends c.head 0 0
  else
    match s.countUp d c.done with
    | .ok s => s.ends c.head 0 0
    | .error e => s.failCopy c (e, c.done.toNat)

/-- A copy with its bytes: it ends, or stays as it is until it may write. -/
def endCopy (s : State) (d : VDev) (c : HCopy) (bs : List Byte) : State :=
  let past (s : State) : State := { s with host := { s.host with copies := s.host.copies.erase c } }
  let s := s.setServing c.serial
  match s.copyCells d c bs with
  | .error e => ((past s).failCopy c e).settleVdev d.num
  | .ok cells =>
    let (clear, s) := s.copyClear d c cells
    if clear then ((past s).landCopy d c bs cells).settleVdev d.num else s

/-- COPY_COMPLETION: a copy that runs is performed and completes. -/
def finishCopy (s : State) (n : Nat) : State :=
  match s.host.copies[n]? with
  | none => s
  | some c =>
    if copyRed c then s
    else
      match s.vdevNo c.vdev with
      | none => s
      | some d =>
        match s.copySource d c with
        | .ok bs => s.endCopy d c bs
        | .error e =>
          (({ s with host := { s.host with copies := s.host.copies.eraseIdx n } }.setServing c.serial).failCopy c e).settleVdev d.num

/-- The fields of a COPY are as R314 gives them (entry 47). -/
def copyGood (c : HCopy) : Bool :=
  decide (1 ≤ c.len) && decide (c.len ≤ 2 ^ 40) && field c.flags 3 29 == 0 && c.done.toNat % 8 == 0

/-- Feature bit of the accepted vector (R320). -/
def hasFeature (s : State) (i : Nat) : Bool := s.mp.features.any fun f => f.getLsbD i

/-- Size of an element of a collective group: f32, bf, i32 (R322). -/
def elemBytes (ty : Nat) : Nat := if ty = 1 then 2 else 4

def groupNum (s : State) (vdev n : Nat) : Option Group := s.host.groups.find? fun g => g.vdev == vdev && g.num == n

/-- A contribution to an all-reduce (R322). -/
def contribute (s : State) (d : VDev) (c : HCopy) : State :=
  match s.copySource d c with
  | .error e => s.failCopy c e
  | .ok bs => { s with host := { s.host with copies := s.host.copies ++ [{ c with part := some bs }] } }

/-- An image verifies against the root in fuses, and is no older than the version counter (R323). -/
def imageFits (s : State) (image : List Byte) : Bool :=
  imageGood s.mp.root s.mp.seed image && decide (s.mp.version ≤ Config.imageVersion image)

/-- COLD_RESET: everything at its reset value but what the hardware keeps: the store, fuses, fused and retired parts, hosts'
memory. The ROM verifies the image in the store and runs it, with its M firmware in every core (R323); an image that does not
verify, or a store that the turn finds unreadable, starts recovery boot (R324; entry 57). -/
def coldReset (s : State) : State :=
  let ok := s.turn.err.isNone && s.imageFits s.mp.store
  { State.reset with
    sched := s.sched
    turn := s.turn
    fresh := s.fresh
    retired := s.retired
    badPages := s.badPages
    host := { HostSide.reset with mem := s.host.mem, links := s.host.links, comps := s.host.comps }
    mp := { Mp.reset with
      store := s.mp.store
      root := s.mp.root
      seed := s.mp.seed
      firmware := if ok then s.mp.store else []
      leaf := s.mp.leaf
      seq := s.mp.seq
      booted := ok
      recovery := !ok
      version := if ok then Config.imageVersion s.mp.store else s.mp.version } }

/-- An image that verifies goes into the store, and the module resets (R324). -/
def takeImage (s : State) (image : List Byte) : State := { s with mp := { s.mp with store := image } }.coldReset

/-- A COPY in recovery boot: on queue 0, through port 0, from host memory (R324; entry 74). -/
def recoveryCopy (s : State) (h : HostHead) (c : HCopy) : State :=
  if s.mp.frozen || s.host.links[0] == false || h.queue != 0 || !copySrch c || copyRed c then s
  else
    let image := s.host.mem.readN c.src.toNat c.len
    let s := s.cmdArrives h
    if !copyGood c then s.ends h 1 0
    else if s.imageFits image then (s.ends h 0 0).takeImage image
    else s.ends h 11 c.src

def hostCopy (s : State) (h : HostHead) (src dst len flags done : Word) : State :=
  let copy (vdev serial : Nat) : HCopy := ⟨h, vdev, src, dst, len.toNat, flags, done, none, serial⟩
  if s.mp.recovery then s.recoveryCopy h (copy 0 0)
  else
    s.onVdev h [2, src, dst, len, flags, done] false fun d s =>
      let c := copy d.num s.host.serving
      if !copyGood c then s.ends h 1 0
      else if copyRed c then
        if !s.hasFeature 1 then s.ends h 7 0
        else
          match s.groupNum d.num (copyGroup c) with
          | none => s.ends h 1 0
          | some g => if c.len % elemBytes g.ty ≠ 0 then s.ends h 1 0 else s.contribute d c
      else
        let s := { s with host := { s.host with copies := s.host.copies ++ [c] } }
        if s.turn.post then s else s.finishCopy (s.host.copies.length - 1)

/-! ## Collectives (R322) -/

/-- One element of a collective: add rounds to nearest even with subnormals kept, and NaN results are canonical. -/
def combineElem (ty op a b : Nat) : Nat :=
  let env : FpEnv := ⟨.rne, false, false, false⟩
  let f := if ty = 1 then Fmt.bf else Fmt.f32
  match ty, op with
  | 2, 0 => (a + b) % 2 ^ 32
  | 2, 1 => if (BitVec.ofNat 32 a).slt (BitVec.ofNat 32 b) then b else a
  | 2, _ => if (BitVec.ofNat 32 b).slt (BitVec.ofNat 32 a) then b else a
  | _, 0 => (f.add env (f.read env a) (f.read env b)).1
  | _, 1 => (f.minmax env true a b).1
  | _, _ => (f.minmax env false a b).1

/-- Two contributions, element by element. -/
def combine (ty op : Nat) (a b : List Byte) : List Byte :=
  let k := elemBytes ty
  (List.range (a.length / k)).flatMap fun i =>
    bytesOfNat k (combineElem ty op (natOfBytes ((a.drop (k * i)).take k)) (natOfBytes ((b.drop (k * i)).take k)))

/-- The members of a group, in ascending module number. -/
def membersOf (g : Group) : List Nat := (List.range 64).filter fun i => g.mask.getLsbD i

/-- Every member's contribution: this module's own, and free values for what the others have sent (entry 27). -/
def contributions (s : State) (g : Group) (own : List Byte) : List (List Byte) × State :=
  (membersOf g).foldl (fun r m =>
    if m = s.mp.module then (r.1 ++ [own], r.2)
    else let (bs, s) := r.2.freeBytes own.length; (r.1 ++ [bs], s)) ([], s)

/-- The commands that have contributed to groups of a number and wait for the others, the first of each device's group: two
devices may give groups one number. -/
def contributors (s : State) (num : Nat) : List HCopy :=
  let all := s.host.copies.filter fun c => copyRed c && copyGroup c == num && c.part.isSome
  (all.map HCopy.vdev).eraseDups.filterMap fun v => all.find? fun c => c.vdev == v

/-- The one of them that the turn's choice means. -/
def contributed (s : State) (num : Nat) : Option HCopy := (s.contributors num)[s.turn.way]?

/-- COLLECTIVE_COMBINE: the result at DST, and the completion of the member's command. -/
def combineGroup (s : State) (num : Nat) : State :=
  match s.contributed num with
  | none => s
  | some c =>
    match s.groupNum c.vdev num, s.vdevNo c.vdev, c.part with
    | some g, some d, some own =>
      let (parts, s) := s.contributions g own
      match parts with
      | [] => s
      | p :: ps => s.endCopy d c (ps.foldl (combine g.ty g.op) p)
    | _, _, _ => s

/-- COLLECTIVE_TIMEOUT: a member has failed to contribute within 1 s; the commands end with status 11, and VAL 0 (R322; entry
104). -/
def collectiveLate (s : State) (num : Nat) : State :=
  match s.contributed num with
  | none => s
  | some c =>
    (({ s with host := { s.host with copies := s.host.copies.erase c } }.setServing c.serial).ends c.head 11 0).settleVdev c.vdev

/-! ## EVENT, SHAPE and WAKE -/

/-- The stage and rank that an EVENT names, the lowest stage first, when that strand has not ended (entry 50). -/
def eventTarget (s : State) (vdev lnum rank : Nat) : Option Rank :=
  (List.range 8).findSome? fun st =>
    let r : Rank := ⟨lnum, st, rank⟩
    match s.ofRank r with
    | some t => if t.ident.vdev = vdev then some r else none
    | none => none

def hostEvent (s : State) (h : HostHead) (lnum rank : Nat) (payload : Word) : State :=
  s.onVdev h [3, BitVec.ofNat 64 lnum, BitVec.ofNat 64 rank, payload] false fun d s =>
    match s.eventTarget d.num (if lnum = 0 then d.runtime else lnum) rank with
    | none => s.ends h 12 0
    | some r =>
      let s := s.modVdev d.num fun d => { d with evPend := d.evPend ++ [(r, payload)] }
      let s := match s.sidOfRank r with
        | some w => s.nextEvent w
        | none => s
      s.ends h 0 0

/-- The place of a shape word. -/
def shapePlace (pa : Nat) : List Target := [.line (pa / 32 * 32)]

/-- SHAPE: a release at system scope, so it waits for an older release that is narrower (R195, R314). -/
def hostShape (s : State) (h : HostHead) (addr n : Word) : State :=
  s.onVdev h [4, addr, n] false fun d s =>
    if addr.toNat % 8 ≠ 0 then s.ends h 1 0
    else
      match s.engineReach d .store addr.toNat with
      | .fault => s.ends h 3 0
      | .bad => s.ends h 8 addr
      | .place l =>
        if moduleOfPa l.pa ≠ s.mp.module then s.ends h 0 0
        else
          let (wide, s) := s.allWide (shapePlace l.pa)
          if !wide then s.stayCmd h d.num [4, addr, n]
          else (s.engineRelease (cellsAt l.pa (bytesOfNat 8 (2 ^ 63 + min n.toNat (2 ^ 25 - 1))))).ends h 0 0

def hostWake (s : State) (h : HostHead) : State := s.onVdev h [5] false fun _ s => s.ends h 0 0

/-- A command whose first word `op` has a reserved OP or a nonzero reserved bit, or a CONFIG with a subcode that R319 does
not list (R313, R319). Bit 8 is ORD. On a queue that is not bound it gets status 7 (R312; entry 102). -/
def reservedOp (s : State) (h : HostHead) (op sub : Nat) : State :=
  let code := op % 256
  let known := decide (1 ≤ code) && decide (code ≤ 6) && op / 512 == 0
  let listed := decide (1 ≤ sub) && decide (sub ≤ 19)
  let st := if known then 7 else 1
  let words := [BitVec.ofNat 64 (2 ^ 63 + op % 2 ^ 32), BitVec.ofNat 64 sub]
  if known && (code != 6 || listed) then s
  else if h.queue = 0 then s.onManagement h words fun s => s.ends h st 0
  else s.onVdev h words false fun _ s => s.ends h st 0

/-! ## Other modules (R199, R321) -/

/-- New of an atomic of a peer, on numbers of `w` bits, and whether it is stored (R333). -/
def remoteNew (acc : RemoteAcc) (w old x cmp : Nat) : Option Nat :=
  match acc with
  | .load => none
  | .store => some x
  | .swap => some x
  | .add => some (amoInt (· + ·) w old x).1
  | .cas => if old = cmp % 2 ^ w then some x else none
  | .and => some (amoInt (· &&& ·) w old x).1
  | .or => some (amoInt (· ||| ·) w old x).1
  | .xor => some (amoInt (· ^^^ ·) w old x).1
  | .min => some (amoPick true false w old x).1
  | .max => some (amoPick true true w old x).1
  | .minu => some (amoPick false false w old x).1
  | .maxu => some (amoPick false true w old x).1
  | .fadd => some (amoFadd w old x).1

/-- The widest that a tag must be for a peer's access: an acquire needs the domain, a release write the module (R192, R195). -/
def remoteNeed (mm : MemMod) (writes : Bool) : Nat :=
  if MemMod.acquires mm then 6 else if writes && MemMod.releases mm then 5 else 0

/-- An access of a peer at the home slice of this module, as one step; what it reads goes back to the peer. A place outside
the bounds of the device is not reached (R297); a tag that is too narrow is widened first, and a held write comes first (R195,
R196; entry 62). -/
def remoteAccess (s : State) (src : Nat) (who : Sid) (lnum : Nat) (r : RemoteReq) : State :=
  match (s.vdevNo r.vdev).bind fun d => praToPa d r.pra with
  | none => s
  | some a =>
    let pa := s.mp.module * 2 ^ 42 + a
    let p : Target := .line (pa / 32 * 32)
    let writes := r.acc != .load
    if !mappedPa pa || !([1, 2, 4, 8, 32].contains r.size) || pa % r.size != 0 || (writes && r.data.length != r.size) then s
    else if s.blockedBy p writes then s
    else
      let narrow := (s.tagAt p).any fun t => decide (t.scope.toNat < remoteNeed r.mm writes) && !(t.module == src && t.who == who)
      match s.tagAt p, narrow with
      | some t, true => s.sendMiss ⟨p, who, t, BitVec.ofNat 3 (remoteNeed r.mm writes), 0⟩
      | _, _ =>
        match remoteNew r.acc (8 * r.size) (s.mem.nat pa r.size) (natOfBytes r.data) r.cmp.toNat with
        | none => s
        | some v =>
          s.sliceWrite (cellsAt pa (bytesOfNat r.size v))
            (if MemMod.releases r.mm then some ⟨src, who, lnum, r.mm.scope⟩ else none)

/-- What arrives from a peer through the E-dies, while the module is one of its domain (R199, R311, R320). -/
def peerMessage (s : State) (src : Nat) (who : Sid) (lnum : Nat) (m : PeerMsg) : State :=
  if !s.moduleUp src || src == s.mp.module then s
  else
    match m with
    | .access r => s.remoteAccess src who lnum r
    | .scopeMiss scope need pra =>
      s.deliverMiss ⟨.line ((src * 2 ^ 42 + pra) / 32 * 32), who, ⟨s.mp.module, who, lnum, scope⟩, need, 0⟩

/-- REMOTE_ACCESS_TIMEOUT: the strand's access to another module ends with an uncorrectable error, taken as cause 19. -/
def remoteLate (s : State) (who : Sid) : State :=
  match s.flights.find? (isRemote who) with
  | some f =>
    match f.msg with
    | .remote pra => { (({ s with me := who }.dropRemote who).takeSync 19 (BitVec.ofNat 64 pra) 0) with me := s.me }
    | _ => s
  | none => s

end State

/-- HOST_LAUNCH (R314). -/
def execHostLaunch (h : HostHead) (addr : Word) (s : State) : Out := .next (s.hostLaunch h addr)
/-- LAUNCH_RECORD_ADMISSION (R275). -/
def execLaunchRecordAdmission (n : Nat) (s : State) : Out := .next (s.admitNext n)
/-- HOST_COPY (R314). -/
def execHostCopy (h : HostHead) (src dst len flags done : Word) (s : State) : Out := .next (s.hostCopy h src dst len flags done)
/-- COPY_COMPLETION (R315). -/
def execCopyCompletion (n : Nat) (s : State) : Out := .next (s.finishCopy n)
/-- HOST_EVENT (R64, R314). -/
def execHostEvent (h : HostHead) (lnum rank : Nat) (payload : Word) (s : State) : Out := .next (s.hostEvent h lnum rank payload)
/-- HOST_SHAPE (R284, R314). -/
def execHostShape (h : HostHead) (addr n : Word) (s : State) : Out := .next (s.hostShape h addr n)
/-- HOST_WAKE (R307, R314). -/
def execHostWake (h : HostHead) (s : State) : Out := .next (s.hostWake h)
/-- RESERVED_OP_COMMAND (R313). -/
def execReservedOpCommand (h : HostHead) (c : OddCommand) (s : State) : Out := .next (s.reservedOp h c.op c.sub)
/-- COLLECTIVE_COMBINE (R322). -/
def execCollectiveCombine (group : Nat) (s : State) : Out := .next (s.combineGroup group)
/-- COLLECTIVE_TIMEOUT (R322). -/
def execCollectiveTimeout (group : Nat) (s : State) : Out := .next (s.collectiveLate group)
/-- REMOTE_ACCESS (R199). -/
def execRemoteAccess (src : Nat) (who : Sid) (lnum : Nat) (m : PeerMsg) (s : State) : Out :=
  .next (s.peerMessage src who lnum m)
/-- REMOTE_ACCESS_TIMEOUT (R321). -/
def execRemoteAccessTimeout (who : Sid) (s : State) : Out := .next (s.remoteLate who)

end Sys2Proof.Machine
end

