-- ==== Sys2Proof/Machine/Integer.lean ====
section
/-! DEFINITION. The integer instructions of pages 0 (R330 to R423): each computes on 64-bit values, wraps, and writes
X[D]; D = A without RGX (R85). -/

namespace Sys2Proof.Machine

/-- Truth as an integer result. -/
def flagWord (b : Bool) : Word := if b then 1 else 0

/-- Quotient and remainder (R359). -/
def divWord (n q : Word) : Word :=
  if q = 0 then BitVec.allOnes 64 else BitVec.ofInt 64 (n.toInt.tdiv q.toInt)
def remWord (n q : Word) : Word := if q = 0 then n else BitVec.ofInt 64 (n.toInt.tmod q.toInt)
def divuWord (n q : Word) : Word := if q = 0 then BitVec.allOnes 64 else BitVec.ofNat 64 (n.toNat / q.toNat)
def remuWord (n q : Word) : Word := if q = 0 then n else BitVec.ofNat 64 (n.toNat % q.toNat)

/-- Bits [127:64] of the exact product (R390). -/
def mulhWord (a b : Word) : Word := BitVec.ofInt 64 (a.toInt * b.toInt / 2 ^ 64)
def mulhuWord (a b : Word) : Word := BitVec.ofNat 64 (a.toNat * b.toNat / 2 ^ 64)

/-- The number of zero bits above the highest 1, and below the lowest 1, of `n` bits (R354). -/
def leadingZeros (w : Word) : Nat → Nat
  | 0 => 0
  | n + 1 => if w.getLsbD n then 0 else 1 + leadingZeros w n
def trailingZeros (w : Word) : Nat → Nat
  | 0 => 0
  | n + 1 => if w.getLsbD (63 - n) then 0 else 1 + trailingZeros w n
/-- The number of 1 bits among the lowest `n`. -/
def onesBelow (w : BitVec m) : Nat → Nat
  | 0 => 0
  | n + 1 => bit (w.getLsbD n) + onesBelow w n

def clzWord (w : Word) : Word := BitVec.ofNat 64 (leadingZeros w 64)
def ctzWord (w : Word) : Word := BitVec.ofNat 64 (trailingZeros w 64)
def popcWord (w : Word) : Word := BitVec.ofNat 64 (onesBelow w 64)
def rev8Word (w : Word) : Word := wordOfBytes (bytesOfNat 8 w.toNat).reverse

def minWord (a b : Word) : Word := if b.slt a then b else a
def maxWord (a b : Word) : Word := if a.slt b then b else a
def minuWord (a b : Word) : Word := if b.ult a then b else a
def maxuWord (a b : Word) : Word := if a.ult b then b else a

/-- The interleaved coordinates, bit `i` of each up to `n` (R386). -/
def interleave (x y z : Nat) : Nat → Nat
  | 0 => 0
  | n + 1 => interleave x y z n + 8 ^ n * (x / 2 ^ n % 2 + 2 * (y / 2 ^ n % 2) + 4 * (z / 2 ^ n % 2))
def mort3Word (w : Word) (s : Nat) : Word :=
  BitVec.ofNat 64 (interleave (field w 0 21 / 2 ^ s) (field w 21 21 / 2 ^ s) (field w 42 21 / 2 ^ s) (21 - s))

/-- Shift amounts are the low 6 bits (R418). -/
def shamt (w : Word) : Nat := w.toNat % 64

/-- R331. -/
def execAdd (a b d : XReg) (s : State) : Out := done (s.setX d (s.x a + s.x b))
/-- R423. -/
def execSub (a b d : XReg) (s : State) : Out := done (s.setX d (s.x a - s.x b))
/-- R336. -/
def execAnd (a b d : XReg) (s : State) : Out := done (s.setX d (s.x a &&& s.x b))
/-- R394. -/
def execOr (a b d : XReg) (s : State) : Out := done (s.setX d (s.x a ||| s.x b))
/-- R479. -/
def execXor (a b d : XReg) (s : State) : Out := done (s.setX d (s.x a ^^^ s.x b))
/-- R418. -/
def execSll (a b d : XReg) (s : State) : Out := done (s.setX d (s.x a <<< shamt (s.x b)))
/-- R418. -/
def execSrl (a b d : XReg) (s : State) : Out := done (s.setX d (s.x a >>> shamt (s.x b)))
/-- R418. -/
def execSra (a b d : XReg) (s : State) : Out := done (s.setX d ((s.x a).sshiftRight (shamt (s.x b))))
/-- R390. -/
def execMul (a b d : XReg) (s : State) : Out := done (s.setX d (s.x a * s.x b))
/-- R390. -/
def execMulh (a b d : XReg) (s : State) : Out := done (s.setX d (mulhWord (s.x a) (s.x b)))
/-- R390. -/
def execMulhu (a b d : XReg) (s : State) : Out := done (s.setX d (mulhuWord (s.x a) (s.x b)))
/-- R359. -/
def execDiv (a b d : XReg) (s : State) : Out := done (s.setX d (divWord (s.x a) (s.x b)))
/-- R359. -/
def execDivu (a b d : XReg) (s : State) : Out := done (s.setX d (divuWord (s.x a) (s.x b)))
/-- R359. -/
def execRem (a b d : XReg) (s : State) : Out := done (s.setX d (remWord (s.x a) (s.x b)))
/-- R359. -/
def execRemu (a b d : XReg) (s : State) : Out := done (s.setX d (remuWord (s.x a) (s.x b)))
/-- R413. -/
def execSlt (a b d : XReg) (s : State) : Out := done (s.setX d (flagWord ((s.x a).slt (s.x b))))
/-- R413. -/
def execSltu (a b d : XReg) (s : State) : Out := done (s.setX d (flagWord ((s.x a).ult (s.x b))))
/-- R413. -/
def execSeq (a b d : XReg) (s : State) : Out := done (s.setX d (flagWord (s.x a == s.x b)))
/-- R413. -/
def execSne (a b d : XReg) (s : State) : Out := done (s.setX d (flagWord (s.x a != s.x b)))
/-- R384. -/
def execMin (a b d : XReg) (s : State) : Out := done (s.setX d (minWord (s.x a) (s.x b)))
/-- R384. -/
def execMax (a b d : XReg) (s : State) : Out := done (s.setX d (maxWord (s.x a) (s.x b)))
/-- R384. -/
def execMinu (a b d : XReg) (s : State) : Out := done (s.setX d (minuWord (s.x a) (s.x b)))
/-- R384. -/
def execMaxu (a b d : XReg) (s : State) : Out := done (s.setX d (maxuWord (s.x a) (s.x b)))
/-- R355. -/
def execCselZ (a b d : XReg) (s : State) : Out := done (s.setX d (if s.x b = 0 then s.x a else s.x d))
/-- R355. -/
def execCselNz (a b d : XReg) (s : State) : Out := done (s.setX d (if s.x b ≠ 0 then s.x a else s.x d))
/-- R354. -/
def execClz (a b : XReg) (s : State) : Out := done (s.setX a (clzWord (s.x b)))
/-- R354. -/
def execCtz (a b : XReg) (s : State) : Out := done (s.setX a (ctzWord (s.x b)))
/-- R354. -/
def execPopc (a b : XReg) (s : State) : Out := done (s.setX a (popcWord (s.x b)))
/-- R354. -/
def execRev8 (a b : XReg) (s : State) : Out := done (s.setX a (rev8Word (s.x b)))
/-- R414. -/
def execSextW (a b : XReg) (s : State) : Out := done (s.setX a (((s.x b).truncate 32).signExtend 64))
/-- R414. -/
def execZextW (a b : XReg) (s : State) : Out := done (s.setX a (((s.x b).truncate 32).zeroExtend 64))
/-- R331. -/
def execAddi (a d : XReg) (imm : BitVec 24) (s : State) : Out := done (s.setX d (s.x a + imm.signExtend 64))
/-- R336. -/
def execAndi (a d : XReg) (imm : BitVec 24) (s : State) : Out := done (s.setX d (s.x a &&& imm.signExtend 64))
/-- R394. -/
def execOri (a d : XReg) (imm : BitVec 24) (s : State) : Out := done (s.setX d (s.x a ||| imm.signExtend 64))
/-- R479. -/
def execXori (a d : XReg) (imm : BitVec 24) (s : State) : Out := done (s.setX d (s.x a ^^^ imm.signExtend 64))
/-- R413. -/
def execSlti (a d : XReg) (imm : BitVec 24) (s : State) : Out := done (s.setX d (flagWord ((s.x a).slt (imm.signExtend 64))))
/-- R413. -/
def execSltiu (a d : XReg) (imm : BitVec 24) (s : State) : Out := done (s.setX d (flagWord ((s.x a).ult (imm.signExtend 64))))
/-- R390. -/
def execMuli (a d : XReg) (imm : BitVec 24) (s : State) : Out := done (s.setX d (s.x a * imm.signExtend 64))
/-- R378. -/
def execLsi (a d : XReg) (imm : BitVec 24) (s : State) : Out := done (s.setX d ((s.x a <<< 24) ||| imm.zeroExtend 64))
/-- R413. -/
def execSeqi (a d : XReg) (imm : BitVec 24) (s : State) : Out := done (s.setX d (flagWord (s.x a == imm.signExtend 64)))
/-- R384. -/
def execMini (a d : XReg) (imm : BitVec 24) (s : State) : Out := done (s.setX d (minWord (s.x a) (imm.signExtend 64)))
/-- R384. -/
def execMaxi (a d : XReg) (imm : BitVec 24) (s : State) : Out := done (s.setX d (maxWord (s.x a) (imm.signExtend 64)))
/-- R418. -/
def execSlli (a d : XReg) (imm : BitVec 6) (s : State) : Out := done (s.setX d (s.x a <<< imm.toNat))
/-- R418. -/
def execSrli (a d : XReg) (imm : BitVec 6) (s : State) : Out := done (s.setX d (s.x a >>> imm.toNat))
/-- R418. -/
def execSrai (a d : XReg) (imm : BitVec 6) (s : State) : Out := done (s.setX d ((s.x a).sshiftRight imm.toNat))
/-- R378. -/
def execLi (a : XReg) (imm : BitVec 24) (s : State) : Out := done (s.setX a (imm.signExtend 64))
/-- R386. -/
def execMort3 (a d : XReg) (shift : BitVec 5) (s : State) : Out := done (s.setX d (mort3Word (s.x a) shift.toNat))
/-- R392. -/
def execNop (s : State) : Out := done s
/-- R373. -/
def execLa (a : XReg) (off : BitVec 28) (s : State) : Out := done (s.setX a (s.pcf + off.signExtend 64))

end Sys2Proof.Machine
end

