-- ==== Sys2Proof/Machine/LoadStore.lean ====
section
/-! DEFINITION. Scalar loads and stores (R375 to R377, R408 to R410), with the full/empty forms (R178, R179). -/

namespace Sys2Proof.Machine

namespace State

/-- A scalar load of `n` bytes (R376): `ext` extends what it brings. -/
def scalarLoad (s : State) (a b : XReg) (imm : BitVec 20) (mm : MemMod) (n : Nat) (ext : List Byte → Word) : Eff Unit :=
  let va := s.ea b imm
  if isWindow va then
    if va.toNat % n ≠ 0 then .trap 2 va 0
    else (s.windowLoad va n mm).bind fun bs s => .ok () (s.setX a (ext bs))
  else (s.loadAt va n mm).bind fun bs s => .ok () (s.setX a (ext bs))

/-- A scalar store of `n` bytes (R409). -/
def scalarStore (s : State) (a b : XReg) (imm : BitVec 20) (mm : MemMod) (n : Nat) : Eff Unit :=
  let va := s.ea b imm
  if isWindow va then
    if va.toNat % n ≠ 0 then .trap 2 va 0 else s.windowStore va (s.x a) (n == 8) mm
  else s.storeAt va (lowBytes (s.x a) n) mm

/-- The checks of the full/empty forms: alignment, then own LM or field window. -/
def wordPlace (s : State) (k : Access) (va : Word) : Eff Place :=
  if va.toNat % 8 ≠ 0 then .trap 2 va 0
  else if !isOwnLm va && !isFieldLm va then .trap 7 va 0
  else place s k false va 8

/-- The scope of the acquire that `ldf` and `ldfe` make (R377). -/
def fullScope (mm : MemMod) : Nat := if MemMod.acquires mm then max 1 mm.scope.toNat else 1

/-- What the port has served reaches the register once the acquire is done. -/
def takeFull (s : State) (a : XReg) (c off : Nat) (mm : MemMod) (v : Word) : Eff Unit :=
  let s := s.modSync fun y => { y with reply := some v }
  (s.acquireScope (.lm c (off / 8 * 8)) (fullScope mm) false).bind fun sc s =>
    (s.acquireAction sc).bind fun _ s => .ok () (s.setX a v)

/-- `ldf` and `ldfe` (R179): served at once while the word is full, else parked at the port. -/
def fullLoad (s : State) (a b : XReg) (imm : BitVec 20) (mm : MemMod) (toEmpty : Bool) : Eff Unit :=
  let va := s.ea b imm
  (s.wordPlace .load va).bind fun p s =>
    match p with
    | .glob _ => .trap 7 va 0
    | .lm c off =>
      (s.lmOrder c (.lm c (off / 8 * 8))).bind fun _ s =>
        match s.strand.sync.reply with
        | some v => s.takeFull a c off mm v
        | none =>
          let w := off / 8
          if (s.coreAt c).empty.contains w then
            let r : PortReq := ⟨off, s.me, toEmpty⟩
            .hold (if (s.coreAt c).port.contains r then s else s.modCore c fun k => { k with port := k.port ++ [r] }) true va
          else if s.blockedBy (.lm c (w * 8)) false then .hold s false 0
          else
            let v := wordOfBytes (Memory.readN (s.coreAt c).lm off 8)
            let s := if toEmpty then s.modCore c fun k => { k with empty := w :: k.empty } else s
            s.takeFull a c off mm v

/-- `sdf` and `sfe` (R178). -/
def bitStore (s : State) (b : XReg) (imm : BitVec 20) (mm : MemMod) (bytes : List Byte) (full : Bool) : Eff Unit :=
  let va := s.ea b imm
  (s.wordPlace .store va).bind fun p s =>
    match p with
    | .glob _ => .trap 7 va 0
    | .lm c off =>
      if s.provisional s.me ∧ c ≠ s.me.core then s.provStall
      else s.lmStore c off bytes [(off / 8, full)] mm

end State

/-- R376. -/
def execLb (a b : XReg) (imm : BitVec 20) (mm : MemMod) (s : State) : Out := finish s (s.scalarLoad a b imm mm 1 sextBytes)
/-- R376. -/
def execLbu (a b : XReg) (imm : BitVec 20) (mm : MemMod) (s : State) : Out := finish s (s.scalarLoad a b imm mm 1 zextBytes)
/-- R376. -/
def execLh (a b : XReg) (imm : BitVec 20) (mm : MemMod) (s : State) : Out := finish s (s.scalarLoad a b imm mm 2 sextBytes)
/-- R376. -/
def execLhu (a b : XReg) (imm : BitVec 20) (mm : MemMod) (s : State) : Out := finish s (s.scalarLoad a b imm mm 2 zextBytes)
/-- R376. -/
def execLw (a b : XReg) (imm : BitVec 20) (mm : MemMod) (s : State) : Out := finish s (s.scalarLoad a b imm mm 4 sextBytes)
/-- R376. -/
def execLwu (a b : XReg) (imm : BitVec 20) (mm : MemMod) (s : State) : Out := finish s (s.scalarLoad a b imm mm 4 zextBytes)
/-- R376. -/
def execLd (a b : XReg) (imm : BitVec 20) (mm : MemMod) (s : State) : Out := finish s (s.scalarLoad a b imm mm 8 zextBytes)
/-- R179, R376. -/
def execLdf (a b : XReg) (imm : BitVec 20) (mm : MemMod) (s : State) : Out := finish s (s.fullLoad a b imm mm false)
/-- R179, R376. -/
def execLdfe (a b : XReg) (imm : BitVec 20) (mm : MemMod) (s : State) : Out := finish s (s.fullLoad a b imm mm true)
/-- R409. -/
def execSb (a b : XReg) (imm : BitVec 20) (mm : MemMod) (s : State) : Out := finish s (s.scalarStore a b imm mm 1)
/-- R409. -/
def execSh (a b : XReg) (imm : BitVec 20) (mm : MemMod) (s : State) : Out := finish s (s.scalarStore a b imm mm 2)
/-- R409. -/
def execSw (a b : XReg) (imm : BitVec 20) (mm : MemMod) (s : State) : Out := finish s (s.scalarStore a b imm mm 4)
/-- R409. -/
def execSd (a b : XReg) (imm : BitVec 20) (mm : MemMod) (s : State) : Out := finish s (s.scalarStore a b imm mm 8)
/-- R178, R409. -/
def execSdf (a b : XReg) (imm : BitVec 20) (mm : MemMod) (s : State) : Out := finish s (s.bitStore b imm mm (lowBytes (s.x a) 8) true)
/-- R178, R409. -/
def execSfe (b : XReg) (imm : BitVec 20) (mm : MemMod) (s : State) : Out := finish s (s.bitStore b imm mm [] false)

end Sys2Proof.Machine
end

