-- ==== Sys2Proof/Machine/Domain.lean ====
section
/-! DEFINITION. The module's number in the Mardom domain changes (R17, R321): it is part of every local physical address that
the state holds, and of the tags of its strands. -/

namespace Sys2Proof.Machine

/-- A new number for a module: the number that it had, and the one that it gets. -/
structure Renumber where
  old : Nat
  new : Nat
  deriving DecidableEq, Repr

namespace Renumber

def mod (r : Renumber) (m : Nat) : Nat := if m = r.old then r.new else m
def addr (r : Renumber) (a : Nat) : Nat := r.mod (moduleOfPa a) * 2 ^ 42 + a % 2 ^ 42
def line (r : Renumber) (l : Nat) : Nat := r.addr (l * 32) / 32
def cells (r : Renumber) (l : List Host.Cell) : List Host.Cell := l.map fun c => (r.addr c.1, c.2)
def tag (r : Renumber) (t : Tag) : Tag := { t with module := r.mod t.module }

def target (r : Renumber) (p : Target) : Target :=
  match p with
  | .line a => .line (r.addr a)
  | .lm .. => p

def miss (r : Renumber) (m : Miss) : Miss := { m with place := r.target m.place, tag := r.tag m.tag }

def watch (r : Renumber) (w : Watch) : Watch :=
  { w with
    place := r.target w.place
    word := match w.place with | .line _ => r.addr w.word | .lm .. => w.word
    tag := w.tag.map r.tag }

def heldFor (r : Renumber) (h : HeldFor) : HeldFor :=
  match h with
  | .deq a => .deq (r.addr a)
  | _ => h

def msg (r : Renumber) (m : Msg) : Msg :=
  match m with
  | .write cells tag own by_ => .write (r.cells cells) (tag.map r.tag) own by_
  | .lmWrite core cells bits tag => .lmWrite core cells bits (tag.map r.tag)
  | .read l data barS barC => .read (r.line l) data barS barC
  | .scopeMiss m => .scopeMiss (r.miss m)
  | .widen p t sc => .widen (r.target p) (r.tag t) sc
  | .requeue v desc room val => .requeue v (r.addr desc) room val
  | .barArr .. | .barRel .. | .barCfg .. | .chan .. | .chanWait .. | .refill .. | .remote .. => m

def strand (r : Renumber) (t : Strand) : Strand :=
  { t with
    sync := { t.sync with
      what := r.heldFor t.sync.what
      sqHeld := t.sync.sqHeld.map fun q => { q with desc := r.addr q.desc, ring := r.addr q.ring }
      watch := t.sync.watch.map r.watch }
    region := { t.region with
      reads := t.region.reads.map fun l => { l with line := r.line l.line }
      wlines := t.region.wlines.map fun l => (r.line l.1, l.2)
      writes := r.cells t.region.writes } }

def core (r : Renumber) (c : Core) : Core :=
  { c with
    lmTags := c.lmTags.map fun q => (q.1, r.tag q.2)
    l1 := c.l1.map fun l => { l with line := r.line l.line }
    icache := c.icache.map fun l => (r.line l.1, l.2)
    wbuf := c.wbuf.map fun l => { l with line := r.line l.line }
    miss := c.miss.map r.miss }

def launch (r : Renumber) (l : Launch) : Launch :=
  { l with deps := l.deps.map fun p => { p with pa := r.addr p.pa }, shapePa := r.addr l.shapePa }

end Renumber

/-- The module gets a number: every local address goes on under it. -/
def State.renumber (s : State) (n : Nat) : State :=
  let r : Renumber := ⟨s.mp.module, n⟩
  { s with
    strands := s.strands.map fun q => (q.1, r.strand q.2)
    cores := s.cores.map fun q => (q.1, r.core q.2)
    mem := Memory.writeCells [] (r.cells s.mem)
    tags := s.tags.map fun q => (r.line q.1, r.tag q.2)
    blocked := s.blocked.map fun q => (r.target q.1, q.2)
    flights := s.flights.map fun f => { f with msg := r.msg f.msg }
    parked := s.parked.map fun p => { p with desc := r.addr p.desc, tag := p.tag.map r.tag }
    prov := s.prov.map fun p => { p with pa := r.addr p.pa }
    badPages := s.badPages.map r.addr
    launches := s.launches.map r.launch
    saved := s.saved.map fun v => { v with strand := r.strand v.strand }
    mp := { s.mp with module := n } }

end Sys2Proof.Machine
end

