-- ==== Sys2Proof/Machine/Power.lean ====
section
/-! DEFINITION. The partition tree (R294, R295), boxing and waking (R304 to R308), retirement (R309), reset, recovery and the
watchdog (R323 to R327), freeze (R328), power and clock (R26), and the port links (R311). -/

namespace Sys2Proof.Machine

namespace State

/-! ## The partition tree -/

/-- Node (l, i) lies in node `n`. -/
def nodeIn (l i : Nat) (n : Node) : Bool := decide (l ≤ n.level) && i / 2 ^ (n.level - l) == n.index

/-- The node holds a retired cluster (R309). -/
def hasHole (s : State) (l i : Nat) : Bool := (nodeClusters l i).any fun c => s.retired.contains c

/-- The tree with the free node `n` split down to node (l, i), which becomes `v`'s (R295). -/
def splitTo (l i v : Nat) (n : Node) : Nat → List Node
  | 0 => [{ n with vdev := some v }]
  | k + 1 =>
    if n.level = l then [⟨l, i, some v⟩]
    else
      let a : Node := ⟨n.level - 1, 2 * n.index, none⟩
      let b : Node := ⟨n.level - 1, 2 * n.index + 1, none⟩
      if nodeIn l i a then splitTo l i v a k ++ [b] else a :: splitTo l i v b k

/-- A free node of a level: out of the smallest free node that has one, the lowest of them (entry 28). -/
def freeNode (s : State) (level : Nat) (nohole : Bool) : Option (Nat × Node) :=
  let free := s.tree.filter fun n => n.vdev.isNone && decide (level ≤ n.level)
  let sub (n : Node) : Option (Nat × Node) :=
    ((List.range (2 ^ (n.level - level))).find? fun j =>
      !(nohole && s.hasHole level (n.index * 2 ^ (n.level - level) + j))).map fun j => (n.index * 2 ^ (n.level - level) + j, n)
  (free.filterMap sub).foldl (fun r q =>
    match r with
    | none => some q
    | some p => if q.2.level < p.2.level ∨ (q.2.level = p.2.level ∧ q.1 < p.1) then some q else some p) none

/-- The tree once node (level, i), out of the free node `n`, is given to `v`. -/
def assign (t : List Node) (level i v : Nat) (n : Node) : List Node :=
  t.flatMap fun m => if m = n then splitTo level i v n 16 else [m]

/-- Merge the first pair of free siblings. -/
def mergeOne (t : List Node) : List Node :=
  match t.find? fun n => n.vdev.isNone && decide (n.level < 13) && t.any fun m =>
      m.vdev.isNone && m.level == n.level && m.index != n.index && m.index / 2 == n.index / 2 with
  | none => t
  | some n => (⟨n.level + 1, n.index / 2, none⟩ : Node) :: t.filter fun m => !(m.level == n.level && m.index / 2 == n.index / 2)

def mergeAll (t : List Node) : Nat → List Node
  | 0 => t
  | k + 1 => mergeAll (mergeOne t) k

/-- The tree once a device's node is free. -/
def unassign (t : List Node) (v : Nat) : List Node :=
  mergeAll (t.map fun n => if n.vdev = some v then { n with vdev := none } else n) 16

/-! ## Boxing and waking -/

/-- A message of a core of the device. -/
def flightOn (d : VDev) (f : Flight) : Bool := inVdev d f.src.core

/-- Steps 1 and 2 of boxing: what the device's cores have in flight is performed, and every line of their L1s goes back and is
dropped (R306). -/
def flushVdev (s : State) (d : VDev) : State :=
  let keep := s.turn
  let on := s.cores.filter fun q => inVdev d q.1
  let s := on.foldl (fun s q => (s.drainW q.1 fun _ => true).invalidateAll q.1) s.atOnce
  let s := s.performAll (flightOn d)
  { s with turn := keep }

/-- Step 3: the HBM4E contents of a W2 device go to the second tier; its range then lists nothing (R305, R306; entry 75). -/
def stowVdev (s : State) (d : VDev) : State :=
  if d.wclass ≠ 2 then s
  else
    let base := s.mp.module * 2 ^ 42 + d.hbase
    let here (c : Host.Cell) : Bool := decide (base ≤ c.1) && decide (c.1 < base + d.hbound)
    { s with mem := s.mem.filter fun c => !here c }.modVdev d.num fun d =>
      { d with stowed := (s.mem.filter here).map fun (c : Host.Cell) => (c.1 - base, c.2) }

/-- The contents of a W2 device come back by the wake channel (R305, R307). -/
def unstowVdev (s : State) (d : VDev) : State :=
  { s with mem := s.mem.writeCells (d.stowed.map fun (c : Host.Cell) => (c.1 + (s.mp.module * 2 ^ 42 + d.hbase), c.2)) }.modVdev d.num fun d =>
    { d with stowed := [] }

/-- A message that a gated node leaves in flight: a write that waits at its slice, a scope miss, channel messages of saved
launches with their acknowledgements, and entries on their way back to a slice queue (R185, R195, R202). -/
def outlives (f : Flight) : Bool :=
  match f.msg with
  | .write .. => !f.done
  | .scopeMiss _ | .chan .. | .chanWait .. | .requeue .. => true
  | _ => false

/-- Before the node is gated the releases of barrier phases arrive, and widening notices, whose write-backs are done (R196, R202,
R208). -/
def arriveLast (s : State) (m : Msg) : State :=
  match m with
  | .barRel home slot ph core => s.releaseCore home slot ph core
  | .widen p t sc => s.widen p t sc
  | _ => s

/-- Step 4, the power-gating, and what boxing leaves of the node: cores with nothing kept, full/empty bits full, no barrier
slot, no tile configuration (R80, R178, R206, R306); the TLB entries of the device are dropped. -/
def gateVdev (s : State) (d : VDev) : State :=
  let s := s.flights.foldl (fun s f => if flightOn d f then s.arriveLast f.msg else s) s
  let s := { s with
    cores := s.cores.filter fun q => !inVdev d q.1
    strands := s.strands.filter fun q => !inVdev d (q.1 / 4)
    flights := s.flights.filter fun f => !flightOn d f || outlives f
    fused := s.fused.filter fun c => !inVdev d (coreOfCluster c 0)
    parked := s.parked.filter fun p => !inVdev d p.who.core }
  (s.dropTlb d.num none).modVdev d.num fun d => { d with power := .boxed, boxing := false }

/-- The steps of boxing (R306). -/
def boxVdev (s : State) (d : VDev) : State := ((s.flushVdev d).stowVdev d).gateVdev d

/-- Boxing begins or goes on. The turn may leave it after step 2, where a waking event still finds it (R308). -/
def boxStep (s : State) (d : VDev) : State :=
  if d.boxing then (s.stowVdev d).gateVdev d
  else if s.turn.post then (s.flushVdev d).modVdev d.num fun d => { d with boxing := true }
  else s.boxVdev d

/-- The runtime starts from RTREC (R296, R307). -/
def startRuntime (s : State) (vdev : Nat) : State :=
  match s.vdevNo vdev with
  | none => s
  | some d =>
    let up (s : State) (n : Nat) : State := s.modVdev vdev fun d => { d with runtime := n, waking := d.waking && n != 0 }
    match (if d.rtrec = 0 then none else s.engineBytes d d.rtrec.toNat 128) with
    | none => up s 0
    | some bytes =>
      match s.checkLaunch d bytes true none with
      | .error _ => up s 0
      | .ok l =>
        if !l.kd.priv then up s 0
        else
          let (n, s) := s.acceptLaunch d l
          up s n

/-- A free node of this module for a device that must have no hole, where its own has one (R309, R310). -/
def newNode (s : State) (d : VDev) : Option (Nat × List Node) :=
  let tree := unassign s.tree d.num
  (({ s with tree := tree } : State).freeNode d.level true).map fun (q : Nat × Node) => (q.1, assign tree d.level q.1 d.num q.2)

/-- The device can be woken where it is, or on the node that it goes to, no layout change standing; and no W2 device has a wake
that arrived earlier, since their contents come back one at a time in that order (R305, R309, R326). -/
def canWake (s : State) (d : VDev) : Bool :=
  d.power == .boxed && d.waking && !s.stopped d.num
    && (!(d.nohole && s.hasHole d.level d.index) || (!s.changing && (s.newNode d).isSome))
    && !(d.wclass == 2 && s.vdevs.any fun e => e.wclass == 2 && e.power == .boxed && e.waking && decide (e.wakeSeq < d.wakeSeq))

/-- A boxed device that must have no hole leaves a node that has one (R309); of two changes of the layout only one runs at a time
(R326; entry 56). -/
def leaveHole (s : State) (d : VDev) : State :=
  if !(d.nohole && s.hasHole d.level d.index) || s.changing then s
  else
    match s.newNode d with
    | some (i, t) => { s with tree := t }.modVdev d.num fun d => { d with index := i }
    | none => s

/-- DEVICE_WAKE: power is back, the contents of a W2 device too, and the runtime starts (R307). A device that must have no
hole moves off a node that has one, and stays boxed while no other is free (R309; entry 56). -/
def wakeUp (s : State) (vdev : Nat) : State :=
  match s.vdevNo vdev with
  | none => s
  | some d =>
    if !s.canWake d then s
    else (((s.leaveHole d).unstowVdev d).modVdev vdev fun d => { d with power := .running }).startRuntime vdev

/-- IDLE_TIMEOUT: a W1 or W2 device that has been Idle for IDLET is boxed, or its boxing goes on (R304, R306, R308). -/
def idleOver (s : State) (vdev : Nat) : State :=
  match s.vdevNo vdev with
  | none => s
  | some d => if d.power = .idle ∧ d.wclass ≠ 0 ∧ (d.boxing ∨ d.idlet ≠ 0) ∧ !s.stopped d.num then s.boxStep d else s

/-! ## Retirement (R309) -/

/-- The launches with a strand on a cluster. -/
def launchesOn (s : State) (cl : Nat) : List Nat :=
  ((s.residents.filter fun q => clusterOf (q.1 / 4) == cl).map fun q => q.2.ident.lnum).eraseDups

/-- Pieces that have still to start give up their positions on some cores: their indices stand on a carousel again. -/
def unplace (s : State) (on : Nat → Bool) : State :=
  let back (p : Piece) : Bool := p.st == .placed && p.at_.any fun w => on w.core
  let put (cs : List Carousel) (p : Piece) : List Carousel :=
    replaceFirst (fun c => c.stage == p.stage) (fun c =>
      { c with runs := (c.runs.takeWhile fun r => decide (r.1 < p.idx)) ++ (p.idx, p.idx + 1) :: c.runs.dropWhile fun r => decide (r.1 < p.idx) }) cs
  { s with launches := s.launches.map fun (l : Launch) =>
      { l with pieces := l.pieces.filter fun p => !back p, carousels := (l.pieces.filter back).foldl put l.carousels } }

/-- A device that has been asked off its node has no strand there any more, and no layout change stands. -/
def hasLeft (s : State) (d : VDev) : Bool :=
  d.moving && d.power != .boxed && !s.changing && !s.residents.any fun q => q.2.ident.vdev == d.num

/-- The device, its strands saved, is boxed as W1 and restored on a free node of its level of this module (R309, R310); without
such a node it stays boxed where it is, and moves when it wakes (entry 56). -/
def moveOn (s : State) (d : VDev) : State :=
  let s := (((s.flushVdev d).gateVdev d).leaveHole d).modVdev d.num fun d => { d with moving := false }
  s.wakeVdev d.num

/-- A device that must have no hole is pre-empted: its strands are asked, urgently, to leave, and no piece starts there (R72, R309;
entry 56). -/
def moveVdev (s : State) (d : VDev) : State :=
  if d.power = .boxed then s.leaveHole d
  else
    let s := (s.unplace (inVdev d)).modVdev d.num fun d => { d with moving := true }
    let s := (s.residents.filter fun q => q.2.ident.vdev == d.num).foldl (fun s q => s.requestPreempt (Sid.ofKey q.1) true) s
    match s.vdevNo d.num with
    | some d => if s.hasLeft d then s.moveOn d else s
    | none => s

/-- CLUSTER_RETIREMENT: the cluster's cores and their L1s are gone; launches with strands there end with status 8. -/
def retireCluster (s : State) (cl : Nat) : State :=
  if s.retired.contains cl then s
  else
    let lost := s.launchesOn cl
    let s := { s with
      retired := cl :: s.retired
      cores := s.cores.map fun (q : Nat × Core) => if clusterOf q.1 = cl then (q.1, { q.2 with l1 := [], wbuf := [], icache := [] }) else q }
    let s := (lost.foldl (fun s n => s.abortLaunch n 8) s).unplace fun c => clusterOf c == cl
    let s := { s with cores := s.cores.filter fun q => clusterOf q.1 != cl }
    match s.vdevs.find? fun d => d.nohole && (nodeClusters d.level d.index).contains cl with
    | some d => s.moveVdev d
    | none => s

/-! ## The management processor -/

/-- A number's bytes as the journal and the reports hold it. -/
def word8 (n : Nat) : List Byte := bytesOfNat 8 n

/-- The digest of an intent record: its sequence number, its nodes and their assignment (R326). -/
def intentDigest (seq : Nat) (ns : List Node) : V256 :=
  shake256 (word8 seq ++ ns.flatMap fun n => word8 n.level ++ word8 n.index ++ word8 (n.vdev.elim 0 (· + 1)))

/-- The tree once a node has its new assignment (R326). -/
def setNode (t : List Node) (m : Node) : List Node :=
  match m.vdev with
  | none => mergeAll (t.map fun n => if n.level = m.level ∧ n.index = m.index then m else n) 16
  | some v =>
    match t.find? fun n => n.vdev.isNone && nodeIn m.level m.index n with
    | some n => assign t m.level m.index v n
    | none => t

/-- What a device that is destroyed has left completes: launches that the module saved and copies with status 8, records that no
engine has answered with status 7 (R316; entry 58). -/
def endAll (s : State) (vdev : Nat) : State :=
  let s := (s.launches.filter fun l => l.vdev == vdev).foldl (fun s l => s.abortLaunch l.num 8) s
  let s := (s.host.copies.filter fun c => c.vdev == vdev).foldl (fun s c =>
    ({ s with host := { s.host with copies := s.host.copies.erase c } }.setServing c.serial).ends c.head 8 0) s
  let s := (s.submits.filter fun p => p.vdev == vdev).foldl (fun s p => match p.origin with
    | some o => (s.setServing o.serial).complete o.queue o.tag 7 0 0 0
    | none => s) s
  { s with submits := s.submits.filter fun p => p.vdev != vdev }

/-- A device stops and leaves nothing: no entry goes back to its memory, its predictors, groups and event word go with it. -/
def removeVdev (s : State) (vdev : Nat) : State :=
  match s.vdevNo vdev with
  | none => s
  | some d =>
    let s := s.endAll vdev
    let s := if d.power = .boxed then s else (s.flushVdev d).gateVdev d
    let s := { s with
      vdevs := s.vdevs.filter fun e => e.num != vdev
      flights := s.flights.filter fun f => match f.msg with | .requeue v .. => v != vdev | _ => true
      preds := s.preds.filter fun p => p.vdev != vdev
      host := { s.host with
        queues := s.host.queues.filter fun q => q.2.vdev != vdev
        groups := s.host.groups.filter fun (g : Group) => g.vdev != vdev
        events := s.host.events.filter fun e => e.1 != vdev } }
    s.dropTlb vdev none

/-- The change of a journal record takes effect: the nodes that change have stopped, and its done record is written (R326). -/
def applyJournal (s : State) (j : Journal) : State :=
  let s := j.gone.foldl removeVdev s
  let s := { s with
    tree := j.nodes.foldl setNode s.tree
    vdevs := (s.vdevs.filter fun (d : VDev) => !j.devs.any fun (e : VDev) => e.num == d.num) ++ j.devs
    mp := { s.mp with journal := s.mp.journal.map fun (k : Journal) => if k.seq = j.seq then { k with done := true } else k } }
  (s.setServing j.serial).ends j.head 0 j.val

/-- RECOVERY_IMAGE: an image has come in through port 0 (R324; entry 74). -/
def recoveryImage (s : State) (image : List Byte) : State :=
  if !s.mp.recovery || s.mp.frozen || s.host.links[0] == false || !s.imageFits image then s else s.takeImage image

/-- WATCHDOG_RESET: the MP's journal is read again: an intent without its done record is applied when its digest checks,
and dropped when not (R327). The clocks of a frozen module stand still: its journal waits (R328; entry
108). -/
def watchdog (s : State) : State :=
  match (if s.mp.frozen then none else s.mp.journal.find? fun j => !j.done) with
  | none => s
  | some j =>
    if j.digest = intentDigest j.seq j.nodes then s.applyJournal j
    else ({ s with mp := { s.mp with journal := s.mp.journal.filter fun (k : Journal) => k.seq != j.seq } }.setServing j.serial).ends j.head 10 0

def freeze (s : State) : State := { s with mp := { s.mp with frozen := true } }

/-- An unsolicited completion on queue 0 (R26, R317). -/
def alarm (s : State) (status : Nat) (val : Nat) : State := s.report ⟨0, 0xFFFF_FFFF, status, 0, BitVec.ofNat 64 val, 0⟩

/-- The words of a 256-bit value, the lowest first. -/
def words4 (v : V256) : List Word := (List.range 4).map fun i => v.extractLsb' (64 * i) 64

/-- A view of a frozen module's state (R328; entry 65). -/
def viewOf (s : State) (v : DebugView) : List Word :=
  match v with
  | .xreg w r => [(s.strandAt w).getX r]
  | .vreg w r => words4 (vget (s.strandAt w).v r rfl)
  | .breg w r => words4 (vget (s.strandAt w).b r rfl)
  | .pc w => [(s.strandAt w).pc, BitVec.ofNat 64 (match (s.strandAt w).mode with | .U => 0 | .S => 1 | .M => 2)]
  | .csr w n => (csrRead { s with me := w } n.toNat).toList
  | .lm c off => [BitVec.ofNat 64 ((s.coreAt c).lm.nat (off / 8 * 8) 8), bit (!(s.coreAt c).empty.contains (off / 8))]
  | .mem pa => [BitVec.ofNat 64 (s.mem.nat (pa / 8 * 8) 8)]
  | .tile c t i => [(vget (s.coreAt c).tiles t rfl).extractLsb' (64 * (i % 128)) 64]
  | .acc c a odd i => [(vget (if odd then (s.coreAt c).accO else (s.coreAt c).accE) a rfl).extractLsb' (64 * (i % 128)) 64]
  | .book c k => words4 (vget (s.coreAt c).books k rfl)
  | .queue c q => vget (s.coreAt c).q q rfl
  | .engine c i => ((imageAt .M (8 * i)).map fun im => imageWord { s with me := ⟨c, 0⟩ } im).toList
  | .line c pa => match (s.coreAt c).l1.find? fun l => l.line == pa / 32 with
    | some l => [l.data.extractLsb' (64 * (pa / 8 % 4)) 64]
    | none => []
  | .fetched c pa => match (s.coreAt c).icache.find? fun l => l.1 == pa / 32 with
    | some l => [l.2.extractLsb' (64 * (pa / 8 % 4)) 64]
    | none => []
  | .bar c k =>
    let b := s.barAt c k
    [b.n, b.nx, b.arr, b.ph.toNat, b.lnum].map (BitVec.ofNat 64)
  | .copier c k => [ceStatus { s with me := ⟨c, k⟩ }]
  | .missEntry c i => match (s.coreAt c).miss[i]? with
    | some m => [match m.place with | .line pa => BitVec.ofNat 64 pa | .lm d off => BitVec.ofNat 64 (d * 65536 + off),
        BitVec.ofNat 64 m.who.key, BitVec.ofNat 64 (m.tag.lnum + 2 ^ 32 * m.need.toNat)]
    | none => []

/-- A port's link is up again: the records that waited are written to their rings (R311), unless the transport stands still
(R328). -/
def linkUp (s : State) (port : Nat) : State :=
  let h := { s.host with links := vsetN s.host.links port true }
  { s with host :=
      if 16 ≤ port then s.host
      else if s.mp.frozen then h
      else h.unsent.foldl HostSide.writeRecord { h with unsent := [] } }

end State

/-- IDLE_TIMEOUT (R304, R306). -/
def execIdleTimeout (vdev : Nat) (s : State) : Out := .next (s.idleOver vdev)
/-- WAKE_WORD_WRITE (R307). -/
def execWakeWordWrite (vdev : Nat) (s : State) : Out := .next (s.wakeVdev vdev)
/-- DEVICE_WAKE (R307), or the boxing before it of a device whose strands have left a node with a hole (R309). -/
def execDeviceWake (vdev : Nat) (s : State) : Out :=
  .next (match s.vdevs.find? fun d => d.num == vdev && s.hasLeft d with
    | some d => s.moveOn d
    | none => s.wakeUp vdev)
/-- CLUSTER_RETIREMENT (R309). -/
def execClusterRetirement (cl : Nat) (s : State) : Out := .next (s.retireCluster cl)
/-- PAGE_RETIREMENT (R309): the page is remapped below the physical address. -/
def execPageRetirement (pa : Nat) (s : State) : Out :=
  .next { s with badPages := if s.badPages.contains pa then s.badPages else pa :: s.badPages }
/-- COLD_RESET (R323). -/
def execColdReset (s : State) : Out := .next s.coldReset
/-- RECOVERY_IMAGE (R324). -/
def execRecoveryImage (image : List Byte) (s : State) : Out := .next (s.recoveryImage image)
/-- WATCHDOG_RESET (R327). -/
def execWatchdogReset (s : State) : Out := .next s.watchdog
/-- FREEZE_PIN (R328). -/
def execFreezePin (s : State) : Out := .next s.freeze
/-- DEBUG_PORT_ACCESS (R328). -/
def execDebugPortAccess (v : DebugView) (s : State) : Out :=
  .next (if s.mp.frozen then { s with mp := { s.mp with debug := s.viewOf v } } else s)
/-- POWER_AT_RATING (R26): a step down, or status 18 at the floor. -/
def execPowerAtRating (mw : Nat) (s : State) : Out :=
  .next (if s.mp.mhz ≤ 1000 then s.alarm 18 mw else { s with mp := { s.mp with mhz := s.mp.mhz - 25 } })
/-- CLOCK_RECOVERY_TIMER (R26). -/
def execClockRecoveryTimer (s : State) : Out := .next { s with mp := { s.mp with mhz := min 1300 (s.mp.mhz + 25) } }
/-- SUPPLY_OR_JUNCTION_LIMIT (R26): the module freezes; 1 is the supply current, 2 a junction. -/
def execSupplyOrJunctionLimit (kind : Nat) (s : State) : Out :=
  .next (if s.mp.frozen then s else s.freeze.alarm 19 (if kind = 2 then 2 else 1))
/-- PORT_LINK_DOWN (R311). -/
def execPortLinkDown (port : Nat) (s : State) : Out :=
  .next { s with host := { s.host with links := vsetN s.host.links port false } }
/-- PORT_LINK_UP (R311). -/
def execPortLinkUp (port : Nat) (s : State) : Out :=
  .next (s.linkUp port)

end Sys2Proof.Machine
end

