-- ==== Sys2Proof/Machine/Manage.lean ====
section
/-! DEFINITION. The CONFIG commands (R319 to R328). -/

namespace Sys2Proof.Machine

namespace State

/-! ## Devices (R295, R296, R305) -/

/-- 32 MiB, the unit of memory ranges. -/
def unit32 : Nat := 0x200_0000
/-- Ends of HBM4E and of the second tier in the module's local addresses (R17). -/
def hbmEnd : Nat := 0x80_0000_0000
def tierBase : Nat := 0x200_0000_0000
def tierEnd : Nat := 0x400_0000_0000

/-- Two ranges do not meet. -/
def apart (a n b m : Nat) : Bool := n == 0 || m == 0 || decide (a + n ≤ b) || decide (b + m ≤ a)

/-- Memory ranges that a device may have: in units, inside the module's memory, apart from those of the others. -/
def rangesGood (s : State) (self hb hn lb ln : Nat) : Bool :=
  hb % unit32 == 0 && hn % unit32 == 0 && lb % unit32 == 0 && ln % unit32 == 0
    && decide (hb + hn ≤ hbmEnd) && (ln == 0 || (decide (tierBase ≤ lb) && decide (lb + ln ≤ tierEnd)))
    && (s.vdevs.all fun d => d.num == self || (apart hb hn d.hbase d.hbound && apart lb ln d.lbase d.lbound))

/-- The lowest base for `n` bytes from `lo` up, apart from the ranges in use (entry 28). -/
def freeRange (used : List (Nat × Nat)) (lo hi n : Nat) : Option Nat :=
  ((lo :: used.map fun r => r.1 + r.2).filter fun b =>
    decide (lo ≤ b) && decide (b + n ≤ hi) && used.all fun r => apart b n r.1 r.2).foldl (fun r b =>
      match r with
      | none => some b
      | some c => some (min b c)) none

/-- Places for a device's two ranges. -/
def freeRanges (s : State) (hn ln : Nat) : Option (Nat × Nat) :=
  (freeRange (s.vdevs.map fun d => (d.hbase, d.hbound)) 0 hbmEnd hn).bind fun h =>
    (freeRange (s.vdevs.map fun d => (d.lbase, d.lbound)) tierBase tierEnd ln).map fun l => (h, l)

/-- 250 µs + n bytes at 1.0 TB/s fit in a bound in µs (R305; entry 48). -/
def boundKept (wbound n : Nat) : Bool := decide (250 * 10 ^ 6 + n ≤ wbound * 10 ^ 6)

/-- Every wake bound is kept with a new device of a class, a bound and a cap (R305). -/
def wakeGood (s : State) (wclass wbound wcap hn : Nat) : Bool :=
  match wclass with
  | 0 => true
  | 1 => true
  | _ =>
    let w2 := s.vdevs.filter fun d => d.wclass == 2
    let total := w2.foldl (fun n d => n + d.wcap) wcap
    decide (hn ≤ wcap) && boundKept wbound total && w2.all fun d => boundKept d.wbound total

/-- The lowest device number not in use, from 1 (entry 28). -/
def freshVdev (s : State) : Nat := ((List.range (s.vdevs.length + 1)).find? fun i => (s.vdevNo (i + 1)).isNone).getD 0 + 1

/-- Begin a layout change: the intent record, then, unless the turn leaves it there, the change itself (R326; entry 58). -/
def changeLayout (s : State) (h : HostHead) (nodes : List Node) (devs : List VDev) (gone : List Nat) (val : Word) : State :=
  let n := s.mp.seq + 1
  let j : Journal :=
    { seq := n, nodes := nodes, devs := devs, gone := gone
      digest := if s.turn.join then 0 else intentDigest n nodes
      done := false, head := h, val := val, serial := s.host.serving }
  let s := { s with mp := { s.mp with seq := n, journal := s.mp.journal ++ [j] } }
  if s.turn.post then s else s.applyJournal j

/-- A device as creation makes it (R296). WAYS is all ones, IDLET and ROOT are 0: the spec names no value (entry 101). -/
def newVdev (num level index : Nat) (nohole : Bool) (wclass wbound wcap hb hn lb ln : Nat) : VDev :=
  { num := num, level := level, index := index, nohole := nohole
    hbase := hb, hbound := hn, lbase := lb, lbound := ln
    root := 0, ways := 0xFFFF, wclass := wclass, wbound := wbound, wcap := wcap
    idlet := 0, rtrec := 0, tvec := 0, quantum := 2000, persist := [], kept := [], power := .idle, runtime := 0
    waking := false, evPend := [], boxing := false, wakeSeq := 0, stowed := [], moving := false }

/-- Operand `i`, 0 when it is missing. -/
def opNat (ops : List Word) (i : Nat) : Nat := (ops.getD i 0).toNat

/-- A layout command: it starts as a management command when no change runs (R326); one that the turn looks at again goes on
from its intent record. -/
def layoutCmd (s : State) (h : HostHead) (words : List Word) (run : State → State) : State :=
  match s.mp.journal.find? fun j => !j.done && j.head == h && s.turn.look == some j.serial with
  | some j => if s.deaf then s else s.applyJournal j
  | none => s.onManagement h words run

/-- CREATE. -/
def create (s : State) (h : HostHead) (ops : List Word) : State :=
  s.layoutCmd h (6 :: 1 :: ops) fun s =>
    let level := opNat ops 0
    let wclass := opNat ops 2
    let hn := opNat ops 5
    let ln := opNat ops 6
    let nohole := opNat ops 1 == 1
    if s.mp.features.isNone || decide (level < 4) || decide (13 < level) || decide (2 < wclass) || decide (1 < opNat ops 1)
        || hn % unit32 != 0 || ln % unit32 != 0 || !s.wakeGood wclass (opNat ops 3) (opNat ops 4) hn then s.ends h 10 0
    else
      match s.freeNode level nohole, s.freeRanges hn ln with
      | some (i, _), some (hb, lb) =>
        let v := s.freshVdev
        let d := newVdev v level i nohole wclass (opNat ops 3) (opNat ops 4) hb hn lb ln
        let s := { s with mp := { s.mp with created := true } }
        s.changeLayout h [⟨level, i, some v⟩] [d] [] (BitVec.ofNat 64 v)
      | _, _ => s.ends h 10 0

/-- DESTROY: an Idle or Boxed device. -/
def destroy (s : State) (h : HostHead) (vdev : Word) : State :=
  s.layoutCmd h [6, 2, vdev] fun s =>
    match s.vdevNo vdev.toNat with
    | some d =>
      if d.power = .running then s.ends h 10 0
      else s.changeLayout h [⟨d.level, d.index, none⟩] [] [d.num] 0
    | none => s.ends h 10 0

/-- MEMORY. -/
def setMemory (s : State) (h : HostHead) (ops : List Word) : State :=
  s.onManagement h (6 :: 3 :: ops) fun s =>
    match s.vdevNo (opNat ops 0) with
    | some d =>
      let hn := opNat ops 2
      if d.power = .boxed || !s.rangesGood d.num (opNat ops 1) hn (opNat ops 3) (opNat ops 4)
          || (d.wclass == 2 && decide (d.wcap < hn)) then s.ends h 10 0
      else
        (s.modVdev d.num fun d =>
          { d with hbase := opNat ops 1, hbound := hn, lbase := opNat ops 3, lbound := opNat ops 4 }).ends h 0 0
    | none => s.ends h 10 0

/-- WAYS: which ways the device may allocate; values are never affected (R303). -/
def setWays (s : State) (h : HostHead) (vdev mask : Word) : State :=
  s.onManagement h [6, 4, vdev, mask] fun s =>
    if (s.vdevNo vdev.toNat).isNone || decide (0xFFFF < mask.toNat) then s.ends h 10 0
    else (s.modVdev vdev.toNat fun d => { d with ways := mask }).ends h 0 0

/-- The device can reserve positions beside its other reservations (R282). -/
def canReserve (s : State) (d : VDev) (q w n : Nat) : Bool :=
  let others := (s.host.queues.filter fun p => p.2.vdev == d.num && p.2.dclass != 0 && p.1 != q).map fun p => (p.2.width, p.2.count)
  widths.contains w && s.fits d (fun c => if s.retired.contains (clusterOf c) then 0 else 4) ((w, n) :: others)

/-- QUEUE. -/
def setQueue (s : State) (h : HostHead) (ops : List Word) : State :=
  s.onManagement h (6 :: 5 :: ops) fun s =>
    let q := opNat ops 0
    let cls := opNat ops 2
    match s.vdevNo (opNat ops 1) with
    | some d =>
      if q = 0 || decide (131072 ≤ q) || decide (2 < cls) || decide (1 < opNat ops 6)
          || (cls != 0 && !s.canReserve d q (opNat ops 3) (opNat ops 4)) then s.ends h 10 0
      else
        let ev := opNat ops 6 == 1
        let wq : WorkQueue := ⟨d.num, cls, opNat ops 3, opNat ops 4, ops.getD 5 0, ev, 0⟩
        let rest := (s.host.queues.filter fun p => p.1 != q).map fun (p : Nat × WorkQueue) =>
          if ev ∧ p.2.vdev = d.num then (p.1, { p.2 with events := false }) else p
        { s with host := { s.host with queues := rest ++ [(q, wq)] } }.ends h 0 0
    | none => s.ends h 10 0

/-! ## A device's own parameters -/

/-- A parameter that is set when it is legal. -/
def setOwn (s : State) (h : HostHead) (words : List Word) (ok : Bool) (f : VDev → VDev) : State :=
  s.onVdev h words false fun d s => if ok then (s.modVdev d.num f).ends h 0 0 else s.ends h 10 0

/-- A legal ROOT: a partition-relative multiple of 4 KiB (R296). -/
def rootGood (root : Word) : Bool := root.toNat % 4096 == 0 && decide (root.toNat < 2 ^ 42)

/-- The runtime of a device, started from RTREC, rewrites ROOT before any other launch runs there (R304; entry 121). -/
def reroot (s : State) (vdev : Nat) (root : Word) : State :=
  match s.vdevNo vdev with
  | none => s
  | some d =>
    let up := s.residents.any fun q => q.2.ident.vdev == vdev && q.2.ident.lnum == d.runtime
    let others := s.residents.any fun q => q.2.ident.vdev == vdev && q.2.ident.lnum != d.runtime
    if rootGood root && up && !others then s.modVdev vdev fun d => { d with root := root } else s

/-- RTREC: the runtime starts when the device has none (R296; entry 49). -/
def setRtrec (s : State) (h : HostHead) (addr : Word) : State :=
  s.onVdev h [6, 8, addr] false fun d s =>
    let s := (s.modVdev d.num fun d => { d with rtrec := addr }).ends h 0 0
    if (s.launchNo d.runtime).isSome then s else s.startRuntime d.num

/-- BOX: an Idle device of class W1 or W2 (R304, R308). -/
def boxCmd (s : State) (h : HostHead) : State :=
  s.onVdev h [6, 11] true fun d s =>
    let idle := d.power == .idle || (d.power == .running && s.nothingLeft d)
    if d.wclass = 0 || !idle then s.ends h 10 0
    else if s.turn.post && !d.boxing then (s.boxStep d).stayCmd h d.num [6, 11]
    else (s.boxStep d).ends h 0 0

/-- GROUP (R322; entry 55). -/
def setGroup (s : State) (h : HostHead) (num mask ty op : Word) : State :=
  s.onVdev h [6, 15, num, mask, ty, op] false fun d s =>
    if decide (2 < ty.toNat) || decide (2 < op.toNat) || !mask.getLsbD s.mp.module then s.ends h 10 0
    else
      let g : Group := ⟨num.toNat, d.num, mask, ty.toNat, op.toNat⟩
      { s with host := { s.host with
          groups := (s.host.groups.filter fun (k : Group) => !(k.vdev == d.num && k.num == num.toNat)) ++ [g] } }.ends h 0 0

/-! ## The module -/

/-- FEATURES: once, before the first CREATE, a subset of bits 0 to 2 (R320). -/
def acceptFeatures (s : State) (h : HostHead) (lo hi : Word) : State :=
  s.onManagement h [6, 13, lo, hi] fun s =>
    if s.mp.features.isSome || s.mp.created || decide (7 < lo.toNat) || hi != 0 then s.ends h 10 0
    else { s with mp := { s.mp with features := some (hi ++ lo) } }.ends h 0 0

/-- The peer table in host memory: 64 entries of a module number and a transport address, 8 bytes each; an address of 0
is an unused entry (entry 29). -/
def peerTable (s : State) (a : Nat) : List (Nat × Word) :=
  ((List.range 64).map fun i => (s.host.mem.nat (a + 16 * i) 8, BitVec.ofNat 64 (s.host.mem.nat (a + 16 * i + 8) 8))).filter
    fun p => p.2 != 0

/-- DOMAIN: the module's number and its peers (R321). With feature DOMAIN declined, or none accepted yet, the command fails (R320;
entry 29). -/
def setDomain (s : State) (h : HostHead) (num table : Word) : State :=
  s.onManagement h [6, 14, num, table] fun s =>
    let n := num.toNat
    if !s.hasFeature 0 || decide (63 < n) then s.ends h 10 0
    else
      let s := if n = s.mp.module then s else s.renumber n
      { s with host := { s.host with peers := s.peerTable table.toNat } }.ends h 0 0

/-- The digest of the layout, and a report (R325): nonce, image digest, accepted features, layout digest. -/
def reportOf (s : State) (nonce : Nat) : List Byte :=
  s.host.mem.readN nonce 32 ++ bytesOfNat 32 (Config.imageDigest s.mp.store).toNat
    ++ bytesOfNat 16 (s.mp.features.elim 0 BitVec.toNat) ++ bytesOfNat 32 (intentDigest s.mp.seq s.tree).toNat

/-- ATTEST: the report with its signature by the next leaf (R325, entry 30). -/
def attest (s : State) (h : HostHead) (nonce report : Word) : State :=
  s.onManagement h [6, 16, nonce, report] fun s =>
    if !s.hasFeature 2 then s.ends h 7 0
    else if 2 ^ 20 ≤ s.mp.leaf then s.ends h 10 0
    else
      let r := s.reportOf nonce.toNat
      let s := { s with host := { s.host with mem := s.host.mem.writeN report.toNat (r ++ Config.xmssSign s.mp.leaf r) } }
      { s with mp := { s.mp with leaf := s.mp.leaf + 1 } }.ends h 0 0

/-- FREEZE. -/
def freezeCmd (s : State) (h : HostHead) : State := s.onManagement h [6, 17] fun s => s.freeze.ends h 0 0

/-- A tenant's image in host memory (entry 31): sixteen 8-byte words, then the contents of its two memory ranges. -/
def imageOp (s : State) (a i : Nat) : Nat := s.host.mem.nat (a + 8 * i) 8

/-- Why an image cannot be restored as R310 counts it, before its ranges are placed: 1 for a level, a ROOT, WAYS, IDLET, QUANTUM
or NOHOLE that no device has, or no node; 2 for ranges that are not in units; 3 for a class (R296; entry 31). -/
def imageFault (s : State) (a : Nat) : Nat :=
  let op := s.imageOp a
  if decide (op 0 < 4) || decide (13 < op 0) || decide (1 < op 1) || op 7 % 4096 != 0 || decide (2 ^ 42 ≤ op 7) || decide (0xFFFF < op 8)
      || !(op 9 == 0 || (decide (100 ≤ op 9) && decide (op 9 ≤ 10 ^ 7))) || decide (op 12 < 1000) || decide (10 ^ 6 < op 12) then 1
  else if op 5 % unit32 != 0 || op 6 % unit32 != 0 then 2
  else if 2 < op 2 then 3 else 0

/-- Bytes [from, from + n) of host memory at a place of the module's memory. -/
def fromHost (s : State) (from_ n dest : Nat) : State :=
  let base := s.mp.module * 2 ^ 42 + dest
  let s := s.zeroMem base n
  { s with mem := s.mem.writeCells ((s.host.mem.filter fun c => decide (from_ ≤ c.1) && decide (c.1 < from_ + n)).map fun c =>
      (c.1 - from_ + base, c.2)) }

/-- RESTORE: the tenant on a free node of its level (R310). VAL is the device's number, or the outcome that failed; the
device then wakes. -/
def restoreCmd (s : State) (h : HostHead) (image : Word) : State :=
  s.layoutCmd h [6, 18, image] fun s =>
    let a := image.toNat
    let op := s.imageOp a
    let nohole := op 1 == 1
    if s.imageFault a ≠ 0 then s.ends h 10 (BitVec.ofNat 64 (s.imageFault a))
    else
      match s.freeNode (op 0) nohole with
      | none => s.ends h 10 1
      | some (i, _) =>
        match s.freeRanges (op 5) (op 6) with
        | none => s.ends h 10 2
        | some (hb, lb) =>
          if !s.wakeGood (op 2) (op 3) (op 4) (op 5) then s.ends h 10 3
          else
            let v := s.freshVdev
            let d := newVdev v (op 0) i nohole (op 2) (op 3) (op 4) hb (op 5) lb (op 6)
            let d := { d with
              root := BitVec.ofNat 64 (op 7)
              ways := BitVec.ofNat 64 (op 8)
              idlet := BitVec.ofNat 64 (op 9)
              rtrec := BitVec.ofNat 64 (op 10)
              tvec := BitVec.ofNat 64 (op 11)
              quantum := BitVec.ofNat 64 (op 12)
              power := .boxed
              waking := true
              wakeSeq := s.nextWake }
            let s := (s.fromHost (a + 128) (op 5) hb).fromHost (a + 128 + op 5) (op 6) lb
            s.changeLayout h [⟨op 0, i, some v⟩] [d] [] (BitVec.ofNat 64 v)

end State

/-- CREATE (R295, R296, R305, R319, R326). -/
def execCreate (h : HostHead) (ops : List Word) (s : State) : Out := .next (s.create h ops)
/-- DESTROY (R319, R326). -/
def execDestroy (h : HostHead) (vdev : Word) (s : State) : Out := .next (s.destroy h vdev)
/-- MEMORY (R296, R319). -/
def execMemory (h : HostHead) (ops : List Word) (s : State) : Out := .next (s.setMemory h ops)
/-- WAYS (R303, R319). -/
def execWays (h : HostHead) (vdev mask : Word) (s : State) : Out := .next (s.setWays h vdev mask)
/-- QUEUE (R282, R312, R319). -/
def execQueue (h : HostHead) (ops : List Word) (s : State) : Out := .next (s.setQueue h ops)
/-- ROOT (R296, R304, R319): a partition-relative multiple of 4 KiB. -/
def execRoot (h : HostHead) (root : Word) (s : State) : Out :=
  .next (s.setOwn h [6, 6, root] (State.rootGood root) fun d => { d with root := root })
/-- IDLET (R296, R319): 0, or 0.1 ms to 10 s. -/
def execIdlet (h : HostHead) (time : Word) (s : State) : Out :=
  .next (s.setOwn h [6, 7, time] (time == 0 || (decide (100 ≤ time.toNat) && decide (time.toNat ≤ 10 ^ 7))) fun d => { d with idlet := time })
/-- RTREC (R296, R319). -/
def execRtrec (h : HostHead) (addr : Word) (s : State) : Out := .next (s.setRtrec h addr)
/-- QUANTUM (R281, R319): 1 ms to 1,000 ms. -/
def execQuantum (h : HostHead) (time : Word) (s : State) : Out :=
  .next (s.setOwn h [6, 9, time] (decide (1000 ≤ time.toNat) && decide (time.toNat ≤ 10 ^ 6)) fun d => { d with quantum := time })
/-- PERSIST (R288, R319). -/
def execPersist (h : HostHead) (base : Word) (s : State) : Out :=
  .next (s.setOwn h [6, 10, base] true fun d => { d with persist := base :: d.persist.erase base })
/-- BOX (R304, R319). -/
def execBox (h : HostHead) (s : State) : Out := .next (s.boxCmd h)
/-- WORDS (R319). -/
def execWords (h : HostHead) (s : State) : Out :=
  .next (s.onVdev h [6, 12] false fun d s => s.ends h 0 (Config.wakeWord d.num))
/-- FEATURES (R319, R320). -/
def execFeatures (h : HostHead) (lo hi : Word) (s : State) : Out := .next (s.acceptFeatures h lo hi)
/-- DOMAIN (R319, R321). -/
def execDomain (h : HostHead) (num table : Word) (s : State) : Out := .next (s.setDomain h num table)
/-- GROUP (R319, R322). -/
def execGroup (h : HostHead) (group mask ty op : Word) (s : State) : Out := .next (s.setGroup h group mask ty op)
/-- ATTEST (R319, R325). -/
def execAttest (h : HostHead) (nonce report : Word) (s : State) : Out := .next (s.attest h nonce report)
/-- FREEZE (R319, R328). -/
def execFreeze (h : HostHead) (s : State) : Out := .next (s.freezeCmd h)
/-- RESTORE (R310, R319, R326). -/
def execRestore (h : HostHead) (image : Word) (s : State) : Out := .next (s.restoreCmd h image)
/-- TVEC (R296, R319). -/
def execTvec (h : HostHead) (addr : Word) (s : State) : Out := .next (s.setOwn h [6, 19, addr] true fun d => { d with tvec := addr })
/-- EVENT_WORD_WRITE (R318). -/
def execEventWordWrite (vdev : Nat) (val : Word) (s : State) : Out := .next (s.eventWord vdev val)

end Sys2Proof.Machine
end

