-- ==== Sys2Proof/Machine/Troupes.lean ====
section
/-! DEFINITION. Troupes: joining and splitting (R41, R42, R431, R432), and what the strings carry (R43, R44, R46). -/

namespace Sys2Proof.Machine

namespace State

/-- The cores of the segment of `n` cores in a core's row (R41). -/
def segment (core n : Nat) : List Nat := (List.range n).map (core - colOf core + colOf core / n * n + ·)

/-- The members of the executing strand's piece that stand in its row. -/
def rowMembers (s : State) : List (Nat × Strand) :=
  ((List.range 16).map (s.me.core - colOf s.me.core + ·)).filterMap (s.memberOn s.strand.ident)

/-- Arrivals that a strand at a `troupe.join` of size `n` meets, their outcome still to come: those in its segment, and
those whose own segment holds it. -/
def joinPeers (s : State) (n : Nat) : List (Nat × Strand) :=
  s.rowMembers.filter fun q =>
    q.1 != s.me.key && q.2.sync.reply.isNone && match q.2.sync.joinN with
      | some (_, m) => (segment s.me.core n).contains (q.1 / 4) || (segment (q.1 / 4) m.toNat).contains s.me.core
      | none => false

/-- The outcome of a join for members that wait. -/
def joinOutcome (s : State) (ks : List Nat) (v : Word) (f : Troupe → Troupe) : State :=
  ks.foldl (fun s k => s.modStrand (Sid.ofKey k) fun t =>
    { (t.modSync fun y => { y with reply := some v }) with troupe := f t.troupe }) s

/-- A join, when the strand arrives: it fails for all who have arrived, or succeeds for the whole segment, or waits
(R41, R42; entry 43). -/
def joinTroupe (s : State) (a : XReg) (n : Word) : Eff Unit :=
  let size := n.toNat
  let good := [2, 4, 8, 16].contains size
  let peers := s.joinPeers (if good then size else 1)
  let ms := if good then (segment s.me.core size).map (s.memberOn s.strand.ident) else []
  let fused := ms.any fun q => q.any fun q => q.2.troupe.size != 0
  let odd := peers.any fun q => q.2.sync.joinN != some (s.pcf, n)
  if !good || fused || odd || ms.any Option.isNone then .ok () ((s.joinOutcome (peers.map Prod.fst) 0 id).setX a 0)
  else
    let ks := (ms.filterMap id).map Prod.fst
    let waits (y : Sync) : Bool := y.joinN == some (s.pcf, n) && y.reply.isNone
    if ks.all fun k => k == s.me.key || waits (s.strandAt (Sid.ofKey k)).sync then
      let s := s.joinOutcome ks n fun _ => ⟨size, ks.headD 0, [], [], 4, 0, none⟩
      .ok () ((s.modSync fun y => { y with reply := none }).setX a n)
    else .hold (s.modSync fun y => { y with joinN := some (s.pcf, n) }) true n

end State

/-- R41, R42, R431. Inside a troupe it reports the size at which the troupe was joined (entry 83). -/
def execTroupeJoin (a b : XReg) (s : State) : Out :=
  finish s ((s.outside 4).bind fun _ s =>
    if s.strand.mode != .U then .ok () (s.setX a 0)
    else
      match s.strand.sync.reply with
      | some v => .ok () ((s.modSync fun y => { y with joinN := none }).setX a v)
      | none =>
        if s.strand.sync.joinN.isSome then .hold s true (s.x b)
        else if s.strand.troupe.size != 0 then .ok () (s.setX a (BitVec.ofNat 64 s.strand.troupe.size))
        else s.joinTroupe a (s.x b))

/-- R46, R431, R432: the leader's ends the troupe behind it; any other strand's has no effect. -/
def execTroupeSplit (s : State) : Out :=
  match s.outside 4 with
  | .ok _ s =>
    let t := s.retire
    .next (if s.strand.mode == .U && s.leads then t.dissolve t.me.key t.pcf false else t)
  | e => finish s e

/-- The first entry on a follower's strings reaches its buffer. -/
def Troupe.deliver (t : Troupe) : Troupe :=
  match t.onWire with
  | f :: rest => { t with onWire := rest, buf := t.buf ++ [f] }
  | [] => t

/-- INSTRUCTION_FORWARD: an instruction on the strings reaches a follower (R43). -/
def execInstructionForward (who : Sid) (s : State) : Out :=
  .next (s.modStrand who fun t =>
    match t.troupe.onWire with
    | .insn .. :: _ => { t with troupe := t.troupe.deliver }
    | _ => t)
/-- DISSOLVING_MARKER: the marker reaches a follower, behind what was sent before it (R46). -/
def execDissolvingMarker (who : Sid) (s : State) : Out :=
  .next (s.modStrand who fun t =>
    match t.troupe.onWire with
    | .dissolve _ :: _ => { t with troupe := t.troupe.deliver }
    | _ => t)
/-- FORWARD_CREDIT: a freed entry's credit reaches the leader (R44). -/
def execForwardCredit (who : Sid) (s : State) : Out :=
  .next (s.modStrand who fun t =>
    if t.troupe.owed = 0 then t
    else { t with troupe := { t.troupe with credit := t.troupe.credit + 1, owed := t.troupe.owed - 1 } })

end Sys2Proof.Machine
end

