-- ==== Sys2Proof/Machine/Dispatch.lean ====
section
/-! DEFINITION. Which meaning each instruction and each event has. -/

namespace Sys2Proof.Machine

def exec (i : Instr) (s : State) : Host.Outcome State Fault Refusal :=
  match i with
  | .add a b d => Sys2Proof.Machine.execAdd a b d s
  | .sub a b d => Sys2Proof.Machine.execSub a b d s
  | .and a b d => Sys2Proof.Machine.execAnd a b d s
  | .or a b d => Sys2Proof.Machine.execOr a b d s
  | .xor a b d => Sys2Proof.Machine.execXor a b d s
  | .sll a b d => Sys2Proof.Machine.execSll a b d s
  | .srl a b d => Sys2Proof.Machine.execSrl a b d s
  | .sra a b d => Sys2Proof.Machine.execSra a b d s
  | .mul a b d => Sys2Proof.Machine.execMul a b d s
  | .mulh a b d => Sys2Proof.Machine.execMulh a b d s
  | .mulhu a b d => Sys2Proof.Machine.execMulhu a b d s
  | .div a b d => Sys2Proof.Machine.execDiv a b d s
  | .divu a b d => Sys2Proof.Machine.execDivu a b d s
  | .rem a b d => Sys2Proof.Machine.execRem a b d s
  | .remu a b d => Sys2Proof.Machine.execRemu a b d s
  | .nop => Sys2Proof.Machine.execNop s
  | .slt a b d => Sys2Proof.Machine.execSlt a b d s
  | .sltu a b d => Sys2Proof.Machine.execSltu a b d s
  | .seq a b d => Sys2Proof.Machine.execSeq a b d s
  | .sne a b d => Sys2Proof.Machine.execSne a b d s
  | .min a b d => Sys2Proof.Machine.execMin a b d s
  | .max a b d => Sys2Proof.Machine.execMax a b d s
  | .minu a b d => Sys2Proof.Machine.execMinu a b d s
  | .maxu a b d => Sys2Proof.Machine.execMaxu a b d s
  | .cselZ a b d => Sys2Proof.Machine.execCselZ a b d s
  | .cselNz a b d => Sys2Proof.Machine.execCselNz a b d s
  | .clz a b => Sys2Proof.Machine.execClz a b s
  | .ctz a b => Sys2Proof.Machine.execCtz a b s
  | .popc a b => Sys2Proof.Machine.execPopc a b s
  | .rev8 a b => Sys2Proof.Machine.execRev8 a b s
  | .sextW a b => Sys2Proof.Machine.execSextW a b s
  | .zextW a b => Sys2Proof.Machine.execZextW a b s
  | .addi a d imm => Sys2Proof.Machine.execAddi a d imm s
  | .andi a d imm => Sys2Proof.Machine.execAndi a d imm s
  | .ori a d imm => Sys2Proof.Machine.execOri a d imm s
  | .xori a d imm => Sys2Proof.Machine.execXori a d imm s
  | .slli a d imm => Sys2Proof.Machine.execSlli a d imm s
  | .srli a d imm => Sys2Proof.Machine.execSrli a d imm s
  | .srai a d imm => Sys2Proof.Machine.execSrai a d imm s
  | .slti a d imm => Sys2Proof.Machine.execSlti a d imm s
  | .sltiu a d imm => Sys2Proof.Machine.execSltiu a d imm s
  | .muli a d imm => Sys2Proof.Machine.execMuli a d imm s
  | .li a imm => Sys2Proof.Machine.execLi a imm s
  | .lsi a d imm => Sys2Proof.Machine.execLsi a d imm s
  | .seqi a d imm => Sys2Proof.Machine.execSeqi a d imm s
  | .mini a d imm => Sys2Proof.Machine.execMini a d imm s
  | .maxi a d imm => Sys2Proof.Machine.execMaxi a d imm s
  | .mort3 a d sh => Sys2Proof.Machine.execMort3 a d sh s
  | .lb a b imm mm => Sys2Proof.Machine.execLb a b imm mm s
  | .lbu a b imm mm => Sys2Proof.Machine.execLbu a b imm mm s
  | .lh a b imm mm => Sys2Proof.Machine.execLh a b imm mm s
  | .lhu a b imm mm => Sys2Proof.Machine.execLhu a b imm mm s
  | .lw a b imm mm => Sys2Proof.Machine.execLw a b imm mm s
  | .lwu a b imm mm => Sys2Proof.Machine.execLwu a b imm mm s
  | .ld a b imm mm => Sys2Proof.Machine.execLd a b imm mm s
  | .ldf a b imm mm => Sys2Proof.Machine.execLdf a b imm mm s
  | .ldfe a b imm mm => Sys2Proof.Machine.execLdfe a b imm mm s
  | .sb a b imm mm => Sys2Proof.Machine.execSb a b imm mm s
  | .sh a b imm mm => Sys2Proof.Machine.execSh a b imm mm s
  | .sw a b imm mm => Sys2Proof.Machine.execSw a b imm mm s
  | .sd a b imm mm => Sys2Proof.Machine.execSd a b imm mm s
  | .sdf a b imm mm => Sys2Proof.Machine.execSdf a b imm mm s
  | .sfe b imm mm => Sys2Proof.Machine.execSfe b imm mm s
  | .bz a off => Sys2Proof.Machine.execBz a off s
  | .bnz a off => Sys2Proof.Machine.execBnz a off s
  | .beq a b off => Sys2Proof.Machine.execBeq a b off s
  | .bne a b off => Sys2Proof.Machine.execBne a b off s
  | .blt a b off => Sys2Proof.Machine.execBlt a b off s
  | .bge a b off => Sys2Proof.Machine.execBge a b off s
  | .bltu a b off => Sys2Proof.Machine.execBltu a b off s
  | .bgeu a b off => Sys2Proof.Machine.execBgeu a b off s
  | .jal a off => Sys2Proof.Machine.execJal a off s
  | .jalr a b off => Sys2Proof.Machine.execJalr a b off s
  | .skipZ a n => Sys2Proof.Machine.execSkipZ a n s
  | .skipNz a n => Sys2Proof.Machine.execSkipNz a n s
  | .skipLt a n => Sys2Proof.Machine.execSkipLt a n s
  | .skipGe a n => Sys2Proof.Machine.execSkipGe a n s
  | .loop a n => Sys2Proof.Machine.execLoop a n s
  | .rep a n str => Sys2Proof.Machine.execRep a n str s
  | .csrr a csr => Sys2Proof.Machine.execCsrr a csr s
  | .csrw a csr => Sys2Proof.Machine.execCsrw a csr s
  | .csrs a csr => Sys2Proof.Machine.execCsrs a csr s
  | .csrc a csr => Sys2Proof.Machine.execCsrc a csr s
  | .csrx a d csr => Sys2Proof.Machine.execCsrx a d csr s
  | .trap imm => Sys2Proof.Machine.execTrap imm s
  | .rti => Sys2Proof.Machine.execRti s
  | .yield => Sys2Proof.Machine.execYield s
  | .halt => Sys2Proof.Machine.execHalt s
  | .brk imm => Sys2Proof.Machine.execBrk imm s
  | .fence scope => Sys2Proof.Machine.execFence scope s
  | .fenceI => Sys2Proof.Machine.execFenceI s
  | .idle => Sys2Proof.Machine.execIdle s
  | .safe n => Sys2Proof.Machine.execSafe n s
  | .la a off => Sys2Proof.Machine.execLa a off s
  | .faddS a b d => Sys2Proof.Machine.execFaddS a b d s
  | .fsubS a b d => Sys2Proof.Machine.execFsubS a b d s
  | .fmulS a b d => Sys2Proof.Machine.execFmulS a b d s
  | .fdivS a b d => Sys2Proof.Machine.execFdivS a b d s
  | .fminS a b d => Sys2Proof.Machine.execFminS a b d s
  | .fmaxS a b d => Sys2Proof.Machine.execFmaxS a b d s
  | .fsqrtS a b => Sys2Proof.Machine.execFsqrtS a b s
  | .fmaS a b d => Sys2Proof.Machine.execFmaS a b d s
  | .faddD a b d => Sys2Proof.Machine.execFaddD a b d s
  | .fsubD a b d => Sys2Proof.Machine.execFsubD a b d s
  | .fmulD a b d => Sys2Proof.Machine.execFmulD a b d s
  | .fdivD a b d => Sys2Proof.Machine.execFdivD a b d s
  | .fminD a b d => Sys2Proof.Machine.execFminD a b d s
  | .fmaxD a b d => Sys2Proof.Machine.execFmaxD a b d s
  | .fsqrtD a b => Sys2Proof.Machine.execFsqrtD a b s
  | .fmaD a b d => Sys2Proof.Machine.execFmaD a b d s
  | .feqS a b d => Sys2Proof.Machine.execFeqS a b d s
  | .fltS a b d => Sys2Proof.Machine.execFltS a b d s
  | .fleS a b d => Sys2Proof.Machine.execFleS a b d s
  | .feqD a b d => Sys2Proof.Machine.execFeqD a b d s
  | .fltD a b d => Sys2Proof.Machine.execFltD a b d s
  | .fleD a b d => Sys2Proof.Machine.execFleD a b d s
  | .fclassS a b => Sys2Proof.Machine.execFclassS a b s
  | .fclassD a b => Sys2Proof.Machine.execFclassD a b s
  | .fcvtSD a b => Sys2Proof.Machine.execFcvtSD a b s
  | .fcvtDS a b => Sys2Proof.Machine.execFcvtDS a b s
  | .fcvtSL a b => Sys2Proof.Machine.execFcvtSL a b s
  | .fcvtLS a b => Sys2Proof.Machine.execFcvtLS a b s
  | .fcvtDL a b => Sys2Proof.Machine.execFcvtDL a b s
  | .fcvtLD a b => Sys2Proof.Machine.execFcvtLD a b s
  | .fcvtSBf a b => Sys2Proof.Machine.execFcvtSBf a b s
  | .fcvtBfS a b => Sys2Proof.Machine.execFcvtBfS a b s
  | .fcvtSHf a b => Sys2Proof.Machine.execFcvtSHf a b s
  | .fcvtHfS a b => Sys2Proof.Machine.execFcvtHfS a b s
  | .fcvtSE4 a b => Sys2Proof.Machine.execFcvtSE4 a b s
  | .fcvtE4S a b => Sys2Proof.Machine.execFcvtE4S a b s
  | .fcvtSE5 a b => Sys2Proof.Machine.execFcvtSE5 a b s
  | .fcvtE5S a b => Sys2Proof.Machine.execFcvtE5S a b s
  | .fcvtSW a b => Sys2Proof.Machine.execFcvtSW a b s
  | .fcvtWS a b => Sys2Proof.Machine.execFcvtWS a b s
  | .fexp2 a b => Sys2Proof.Machine.execFexp2 a b s
  | .flog2 a b => Sys2Proof.Machine.execFlog2 a b s
  | .frcp a b => Sys2Proof.Machine.execFrcp a b s
  | .frsq a b => Sys2Proof.Machine.execFrsq a b s
  | .fsin a b => Sys2Proof.Machine.execFsin a b s
  | .fcos a b => Sys2Proof.Machine.execFcos a b s
  | .ftanh a b => Sys2Proof.Machine.execFtanh a b s
  | .flgst a b => Sys2Proof.Machine.execFlgst a b s
  | .vadd ty a b d m => Sys2Proof.Machine.execVadd ty a b d m s
  | .vsub ty a b d m => Sys2Proof.Machine.execVsub ty a b d m s
  | .vmul ty a b d m => Sys2Proof.Machine.execVmul ty a b d m s
  | .vmin ty a b d m => Sys2Proof.Machine.execVmin ty a b d m s
  | .vmax ty a b d m => Sys2Proof.Machine.execVmax ty a b d m s
  | .vand ty a b d m => Sys2Proof.Machine.execVand ty a b d m s
  | .vor ty a b d m => Sys2Proof.Machine.execVor ty a b d m s
  | .vxor ty a b d m => Sys2Proof.Machine.execVxor ty a b d m s
  | .vshl ty a b d m => Sys2Proof.Machine.execVshl ty a b d m s
  | .vshr ty a b d m => Sys2Proof.Machine.execVshr ty a b d m s
  | .vsra ty a b d m => Sys2Proof.Machine.execVsra ty a b d m s
  | .vabs ty a b m => Sys2Proof.Machine.execVabs ty a b m s
  | .vneg ty a b m => Sys2Proof.Machine.execVneg ty a b m s
  | .vfma ty a b d m => Sys2Proof.Machine.execVfma ty a b d m s
  | .vmulh ty a b d m => Sys2Proof.Machine.execVmulh ty a b d m s
  | .vdiv ty a b d m => Sys2Proof.Machine.execVdiv ty a b d m s
  | .vceq ty a b c m => Sys2Proof.Machine.execVceq ty a b c m s
  | .vcne ty a b c m => Sys2Proof.Machine.execVcne ty a b c m s
  | .vclt ty a b c m => Sys2Proof.Machine.execVclt ty a b c m s
  | .vcle ty a b c m => Sys2Proof.Machine.execVcle ty a b c m s
  | .vld ty a b imm m => Sys2Proof.Machine.execVld ty a b imm m s
  | .vst ty a b imm m => Sys2Proof.Machine.execVst ty a b imm m s
  | .vlds ty a b d imm m => Sys2Proof.Machine.execVlds ty a b d imm m s
  | .vsts ty a b d imm m => Sys2Proof.Machine.execVsts ty a b d imm m s
  | .vldx ty a b d imm m => Sys2Proof.Machine.execVldx ty a b d imm m s
  | .vstx ty a b d imm m => Sys2Proof.Machine.execVstx ty a b d imm m s
  | .vldsr ty a b imm m => Sys2Proof.Machine.execVldsr ty a b imm m s
  | .vstsr ty a b imm m => Sys2Proof.Machine.execVstsr ty a b imm m s
  | .vperm ty a b d m => Sys2Proof.Machine.execVperm ty a b d m s
  | .vcompress ty a b m => Sys2Proof.Machine.execVcompress ty a b m s
  | .vexpand ty a b m => Sys2Proof.Machine.execVexpand ty a b m s
  | .vslideup ty a b d m => Sys2Proof.Machine.execVslideup ty a b d m s
  | .vslidedn ty a b d m => Sys2Proof.Machine.execVslidedn ty a b d m s
  | .vsel ty a b d m => Sys2Proof.Machine.execVsel ty a b d m s
  | .vbcast ty a b m => Sys2Proof.Machine.execVbcast ty a b m s
  | .vxchg ty a b d m => Sys2Proof.Machine.execVxchg ty a b d m s
  | .vmvxv ty a b lane m => Sys2Proof.Machine.execVmvxv ty a b lane m s
  | .vmvvx ty a b lane m => Sys2Proof.Machine.execVmvvx ty a b lane m s
  | .vredAdd ty a b m => Sys2Proof.Machine.execVredAdd ty a b m s
  | .vredMax ty a b m => Sys2Proof.Machine.execVredMax ty a b m s
  | .vredMin ty a b m => Sys2Proof.Machine.execVredMin ty a b m s
  | .vcvt st dt a b m => Sys2Proof.Machine.execVcvt st dt a b m s
  | .vexp2 ty a b m => Sys2Proof.Machine.execVexp2 ty a b m s
  | .vlog2 ty a b m => Sys2Proof.Machine.execVlog2 ty a b m s
  | .vrcp ty a b m => Sys2Proof.Machine.execVrcp ty a b m s
  | .vrsq ty a b m => Sys2Proof.Machine.execVrsq ty a b m s
  | .vtanh ty a b m => Sys2Proof.Machine.execVtanh ty a b m s
  | .vlgst ty a b m => Sys2Proof.Machine.execVlgst ty a b m s
  | .vrng ty a b m => Sys2Proof.Machine.execVrng ty a b m s
  | .tcfg a t c => Sys2Proof.Machine.execTcfg a t c s
  | .tcfgr a t c => Sys2Proof.Machine.execTcfgr a t c s
  | .trel r => Sys2Proof.Machine.execTrel r s
  | .tld t b c imm mm => Sys2Proof.Machine.execTld t b c imm mm s
  | .tst t b c imm mm => Sys2Proof.Machine.execTst t b c imm mm s
  | .tldt t b c imm mm => Sys2Proof.Machine.execTldt t b c imm mm s
  | .tldm t b c d imm mm => Sys2Proof.Machine.execTldm t b c d imm mm s
  | .tmvVr t r p m => Sys2Proof.Machine.execTmvVr t r p m s
  | .tmvRv t r p m => Sys2Proof.Machine.execTmvRv t r p m s
  | .tmvVc t r p m => Sys2Proof.Machine.execTmvVc t r p m s
  | .tmvCv t r p m => Sys2Proof.Machine.execTmvCv t r p m s
  | .tzero t => Sys2Proof.Machine.execTzero t s
  | .tcomp24 t u => Sys2Proof.Machine.execTcomp24 t u s
  | .tcomp48 t u => Sys2Proof.Machine.execTcomp48 t u s
  | .ocmpEq bd t u => Sys2Proof.Machine.execOcmpEq bd t u s
  | .ocmpNe bd t u => Sys2Proof.Machine.execOcmpNe bd t u s
  | .ocmpLt bd t u => Sys2Proof.Machine.execOcmpLt bd t u s
  | .ocmpLe bd t u => Sys2Proof.Machine.execOcmpLe bd t u s
  | .ocmpGt bd t u => Sys2Proof.Machine.execOcmpGt bd t u s
  | .ocmpGe bd t u => Sys2Proof.Machine.execOcmpGe bd t u s
  | .ocmpUnord bd t u => Sys2Proof.Machine.execOcmpUnord bd t u s
  | .ocmpOrd bd t u => Sys2Proof.Machine.execOcmpOrd bd t u s
  | .ocmpTeq bd t u => Sys2Proof.Machine.execOcmpTeq bd t u s
  | .ocmpTlt bd t u => Sys2Proof.Machine.execOcmpTlt bd t u s
  | .ocmpTle bd t u => Sys2Proof.Machine.execOcmpTle bd t u s
  | .ocmpTltx bd t u => Sys2Proof.Machine.execOcmpTltx bd t u s
  | .ocmpTgtx bd t u => Sys2Proof.Machine.execOcmpTgtx bd t u s
  | .btAnd bd b1 b2 => Sys2Proof.Machine.execBtAnd bd b1 b2 s
  | .btOr bd b1 b2 => Sys2Proof.Machine.execBtOr bd b1 b2 s
  | .btXor bd b1 b2 => Sys2Proof.Machine.execBtXor bd b1 b2 s
  | .btAndn bd b1 b2 => Sys2Proof.Machine.execBtAndn bd b1 b2 s
  | .btComp bd b1 b2 => Sys2Proof.Machine.execBtComp bd b1 b2 s
  | .btNot bd bs => Sys2Proof.Machine.execBtNot bd bs s
  | .btTr bd bs => Sys2Proof.Machine.execBtTr bd bs s
  | .btClos bd bs => Sys2Proof.Machine.execBtClos bd bs s
  | .btClosr bd bs => Sys2Proof.Machine.execBtClosr bd bs s
  | .btId bd => Sys2Proof.Machine.execBtId bd s
  | .btZero bd => Sys2Proof.Machine.execBtZero bd s
  | .btPopr a bs => Sys2Proof.Machine.execBtPopr a bs s
  | .btPopc a bs => Sys2Proof.Machine.execBtPopc a bs s
  | .btMvbv a bs => Sys2Proof.Machine.execBtMvbv a bs s
  | .btMvvb bd b => Sys2Proof.Machine.execBtMvvb bd b s
  | .btLd bd b imm mm => Sys2Proof.Machine.execBtLd bd b imm mm s
  | .btSt bd b imm mm => Sys2Proof.Machine.execBtSt bd b imm mm s
  | .tsv r b imm => Sys2Proof.Machine.execTsv r b imm s
  | .trs r b imm => Sys2Proof.Machine.execTrs r b imm s
  | .mmaE4e4 n t u sc => Sys2Proof.Machine.execMmaE4e4 n t u sc s
  | .mmaE4e5 n t u sc => Sys2Proof.Machine.execMmaE4e5 n t u sc s
  | .mmaE5e4 n t u sc => Sys2Proof.Machine.execMmaE5e4 n t u sc s
  | .mmaE5e5 n t u sc => Sys2Proof.Machine.execMmaE5e5 n t u sc s
  | .mmaBfbf n t u => Sys2Proof.Machine.execMmaBfbf n t u s
  | .mmaHfhf n t u => Sys2Proof.Machine.execMmaHfhf n t u s
  | .mmaF32 n t u => Sys2Proof.Machine.execMmaF32 n t u s
  | .mmaI8i8 n t u sc => Sys2Proof.Machine.execMmaI8i8 n t u sc s
  | .mmaI8n8 n t u sc => Sys2Proof.Machine.execMmaI8n8 n t u sc s
  | .mmaCbcb n t u ka kb => Sys2Proof.Machine.execMmaCbcb n t u ka kb s
  | .mmaCbe4 n t u ka => Sys2Proof.Machine.execMmaCbe4 n t u ka s
  | .mmaCbbf n t u ka => Sys2Proof.Machine.execMmaCbbf n t u ka s
  | .mmaMx8 n t u sc => Sys2Proof.Machine.execMmaMx8 n t u sc s
  | .mmaMx6 n t u sc => Sys2Proof.Machine.execMmaMx6 n t u sc s
  | .mmaMx4 n t u sc => Sys2Proof.Machine.execMmaMx4 n t u sc s
  | .mmaMxi8 n t u sc => Sys2Proof.Machine.execMmaMxi8 n t u sc s
  | .smmaE4e4 n t u sc => Sys2Proof.Machine.execSmmaE4e4 n t u sc s
  | .smmaBfbf n t u => Sys2Proof.Machine.execSmmaBfbf n t u s
  | .smmaI8i8 n t u sc => Sys2Proof.Machine.execSmmaI8i8 n t u sc s
  | .smmaCbcb n t u ka kb => Sys2Proof.Machine.execSmmaCbcb n t u ka kb s
  | .mzero n => Sys2Proof.Machine.execMzero n s
  | .mdrain ty t n => Sys2Proof.Machine.execMdrain ty t n s
  | .mdraint ty t n u d => Sys2Proof.Machine.execMdraint ty t n u d s
  | .mcb k b => Sys2Proof.Machine.execMcb k b s
  | .msync => Sys2Proof.Machine.execMsync s
  | .mqs a => Sys2Proof.Machine.execMqs a s
  | .mpush p => Sys2Proof.Machine.execMpush p s
  | .mdrainMx t n d => Sys2Proof.Machine.execMdrainMx t n d s
  | .amoadd w32 a b d imm mm => Sys2Proof.Machine.execAmoadd w32 a b d imm mm s
  | .amoswap w32 a b d imm mm => Sys2Proof.Machine.execAmoswap w32 a b d imm mm s
  | .amocas w32 a b d imm mm => Sys2Proof.Machine.execAmocas w32 a b d imm mm s
  | .amoand w32 a b d imm mm => Sys2Proof.Machine.execAmoand w32 a b d imm mm s
  | .amoor w32 a b d imm mm => Sys2Proof.Machine.execAmoor w32 a b d imm mm s
  | .amoxor w32 a b d imm mm => Sys2Proof.Machine.execAmoxor w32 a b d imm mm s
  | .amomin w32 a b d imm mm => Sys2Proof.Machine.execAmomin w32 a b d imm mm s
  | .amomax w32 a b d imm mm => Sys2Proof.Machine.execAmomax w32 a b d imm mm s
  | .amominu w32 a b d imm mm => Sys2Proof.Machine.execAmominu w32 a b d imm mm s
  | .amomaxu w32 a b d imm mm => Sys2Proof.Machine.execAmomaxu w32 a b d imm mm s
  | .amofadd w32 a b d imm mm => Sys2Proof.Machine.execAmofadd w32 a b d imm mm s
  | .wait a b cond imm mm => Sys2Proof.Machine.execWait a b cond imm mm s
  | .barArr a => Sys2Proof.Machine.execBarArr a s
  | .barWait a => Sys2Proof.Machine.execBarWait a s
  | .barSync a => Sys2Proof.Machine.execBarSync a s
  | .barCfg a b => Sys2Proof.Machine.execBarCfg a b s
  | .wbarRow => Sys2Proof.Machine.execWbarRow s
  | .wbarCol => Sys2Proof.Machine.execWbarCol s
  | .wbarRc => Sys2Proof.Machine.execWbarRc s
  | .send a b => Sys2Proof.Machine.execSend a b s
  | .recv a b => Sys2Proof.Machine.execRecv a b s
  | .sendv a b => Sys2Proof.Machine.execSendv a b s
  | .recvv a b => Sys2Proof.Machine.execRecvv a b s
  | .recvt a b d => Sys2Proof.Machine.execRecvt a b d s
  | .qw a q => Sys2Proof.Machine.execQw a q s
  | .qr a q => Sys2Proof.Machine.execQr a q s
  | .qtr a q d => Sys2Proof.Machine.execQtr a q d s
  | .sqenq a b imm mm => Sys2Proof.Machine.execSqenq a b imm mm s
  | .sqdeq a b imm mm => Sys2Proof.Machine.execSqdeq a b imm mm s
  | .propBegin => Sys2Proof.Machine.execPropBegin s
  | .propEnd a b => Sys2Proof.Machine.execPropEnd a b s
  | .propPass => Sys2Proof.Machine.execPropPass s
  | .propSerial => Sys2Proof.Machine.execPropSerial s
  | .propStat a => Sys2Proof.Machine.execPropStat a s
  | .rng a b => Sys2Proof.Machine.execRng a b s
  | .sstep => Sys2Proof.Machine.execSstep s
  | .troupeJoin a b => Sys2Proof.Machine.execTroupeJoin a b s
  | .troupeSplit => Sys2Proof.Machine.execTroupeSplit s
  | .ceW a b => Sys2Proof.Machine.execCeW a b s
  | .ceArm a b => Sys2Proof.Machine.execCeArm a b s
  | .ceStat a => Sys2Proof.Machine.execCeStat a s
  | .ceStop => Sys2Proof.Machine.execCeStop s
  | .launch a b => Sys2Proof.Machine.execLaunch a b s
  | .shape a b => Sys2Proof.Machine.execShape a b s
  | .pieceEnd => Sys2Proof.Machine.execPieceEnd s
  | .instructionFetch who va => Sys2Proof.Machine.execInstructionFetch who va s
  | .carouselPull core w => Sys2Proof.Machine.execCarouselPull core w s
  | .carouselSteal core w => Sys2Proof.Machine.execCarouselSteal core w s
  | .pieceStart lnum stage idx => Sys2Proof.Machine.execPieceStart lnum stage idx s
  | .ageLimit lnum => Sys2Proof.Machine.execAgeLimit lnum s
  | .strandResume lnum places => Sys2Proof.Machine.execStrandResume lnum places s
  | .preemptionRequest who urgent => Sys2Proof.Machine.execPreemptionRequest who urgent s
  | .preemptionDeadline who => Sys2Proof.Machine.execPreemptionDeadline who s
  | .quantumExpiry lnum => Sys2Proof.Machine.execQuantumExpiry lnum s
  | .asyncTrapEntry who => Sys2Proof.Machine.execAsyncTrapEntry who s
  | .btoTimeout who => Sys2Proof.Machine.execBtoTimeout who s
  | .greedyRunLimit core => Sys2Proof.Machine.execGreedyRunLimit core s
  | .instructionForward who => Sys2Proof.Machine.execInstructionForward who s
  | .forwardCredit who => Sys2Proof.Machine.execForwardCredit who s
  | .dissolvingMarker who => Sys2Proof.Machine.execDissolvingMarker who s
  | .sfuRequestComplete core => Sys2Proof.Machine.execSfuRequestComplete core s
  | .matrixRecordStart core => Sys2Proof.Machine.execMatrixRecordStart core s
  | .matrixRecordComplete core => Sys2Proof.Machine.execMatrixRecordComplete core s
  | .matrixPushStore who data => Sys2Proof.Machine.execMatrixPushStore who data s
  | .heldCountWrite who slot val => Sys2Proof.Machine.execHeldCountWrite who slot val s
  | .tlbInvalidateAll who => Sys2Proof.Machine.execTlbInvalidateAll who s
  | .tlbInvalidatePage who page => Sys2Proof.Machine.execTlbInvalidatePage who page s
  | .qbindWrite who q val => Sys2Proof.Machine.execQbindWrite who q val s
  | .registerWrite who csr val => Sys2Proof.Machine.execRegisterWrite who csr val s
  | .ceChunkPerformed core => Sys2Proof.Machine.execCeChunkPerformed core s
  | .ceCompletionWrite core => Sys2Proof.Machine.execCeCompletionWrite core s
  | .pageWalk who va => Sys2Proof.Machine.execPageWalk who va s
  | .burstSend cluster => Sys2Proof.Machine.execBurstSend cluster s
  | .sliceWrite n => Sys2Proof.Machine.execSliceWrite n s
  | .sliceRead core pa => Sys2Proof.Machine.execSliceRead core pa s
  | .memoryReply n => Sys2Proof.Machine.execMemoryReply n s
  | .storeAcknowledgement n => Sys2Proof.Machine.execStoreAcknowledgement n s
  | .lmPortAccess n => Sys2Proof.Machine.execLmPortAccess n s
  | .scopeMissMessage n => Sys2Proof.Machine.execScopeMissMessage n s
  | .missEntryTimeout core n => Sys2Proof.Machine.execMissEntryTimeout core n s
  | .wideningNotice n => Sys2Proof.Machine.execWideningNotice n s
  | .barrierConfig n => Sys2Proof.Machine.execBarrierConfig n s
  | .barrierArrival n => Sys2Proof.Machine.execBarrierArrival n s
  | .barrierRelease n => Sys2Proof.Machine.execBarrierRelease n s
  | .wirePhaseRelease who => Sys2Proof.Machine.execWirePhaseRelease who s
  | .channelMessage n => Sys2Proof.Machine.execChannelMessage n s
  | .sendAcknowledgement n => Sys2Proof.Machine.execSendAcknowledgement n s
  | .channelSliceMove who chan => Sys2Proof.Machine.execChannelSliceMove who chan s
  | .queueRefill core q => Sys2Proof.Machine.execQueueRefill core q s
  | .refillArrival core q => Sys2Proof.Machine.execRefillArrival core q s
  | .queueDrain core q => Sys2Proof.Machine.execQueueDrain core q s
  | .heldEntryReenqueue n => Sys2Proof.Machine.execHeldEntryReenqueue n s
  | .roundBarrierComplete who => Sys2Proof.Machine.execRoundBarrierComplete who s
  | .regionResolution who => Sys2Proof.Machine.execRegionResolution who s
  | .exchangeStart lnum => Sys2Proof.Machine.execExchangeStart lnum s
  | .xferRecordPerformed lnum r => Sys2Proof.Machine.execXferRecordPerformed lnum r s
  | .superstepRelease lnum => Sys2Proof.Machine.execSuperstepRelease lnum s
  | .launchRecordAdmission n => Sys2Proof.Machine.execLaunchRecordAdmission n s
  | .dependenceSatisfied lnum k => Sys2Proof.Machine.execDependenceSatisfied lnum k s
  | .shapeDelivery lnum => Sys2Proof.Machine.execShapeDelivery lnum s
  | .pieceSquash lnum idx => Sys2Proof.Machine.execPieceSquash lnum idx s
  | .provisionalStallTimeout who => Sys2Proof.Machine.execProvisionalStallTimeout who s
  | .launchCompletion lnum => Sys2Proof.Machine.execLaunchCompletion lnum s
  | .clusterFuse cluster => Sys2Proof.Machine.execClusterFuse cluster s
  | .clusterUnfuse cluster => Sys2Proof.Machine.execClusterUnfuse cluster s
  | .idleTimeout vdev => Sys2Proof.Machine.execIdleTimeout vdev s
  | .wakeWordWrite vdev => Sys2Proof.Machine.execWakeWordWrite vdev s
  | .deviceWake vdev => Sys2Proof.Machine.execDeviceWake vdev s
  | .clusterRetirement cluster => Sys2Proof.Machine.execClusterRetirement cluster s
  | .pageRetirement pa => Sys2Proof.Machine.execPageRetirement pa s
  | .hostLaunch h addr => Sys2Proof.Machine.execHostLaunch h addr s
  | .hostCopy h src dst len flags done => Sys2Proof.Machine.execHostCopy h src dst len flags done s
  | .copyCompletion n => Sys2Proof.Machine.execCopyCompletion n s
  | .hostEvent h lnum rank payload => Sys2Proof.Machine.execHostEvent h lnum rank payload s
  | .hostShape h addr n => Sys2Proof.Machine.execHostShape h addr n s
  | .hostWake h => Sys2Proof.Machine.execHostWake h s
  | .create h ops => Sys2Proof.Machine.execCreate h ops s
  | .destroy h vdev => Sys2Proof.Machine.execDestroy h vdev s
  | .memory h ops => Sys2Proof.Machine.execMemory h ops s
  | .ways h vdev mask => Sys2Proof.Machine.execWays h vdev mask s
  | .queue h ops => Sys2Proof.Machine.execQueue h ops s
  | .root h root => Sys2Proof.Machine.execRoot h root s
  | .idlet h time => Sys2Proof.Machine.execIdlet h time s
  | .rtrec h addr => Sys2Proof.Machine.execRtrec h addr s
  | .quantum h time => Sys2Proof.Machine.execQuantum h time s
  | .persist h base => Sys2Proof.Machine.execPersist h base s
  | .box h => Sys2Proof.Machine.execBox h s
  | .words h => Sys2Proof.Machine.execWords h s
  | .features h lo hi => Sys2Proof.Machine.execFeatures h lo hi s
  | .domain h num table => Sys2Proof.Machine.execDomain h num table s
  | .group h group mask ty op => Sys2Proof.Machine.execGroup h group mask ty op s
  | .attest h nonce report => Sys2Proof.Machine.execAttest h nonce report s
  | .freeze h => Sys2Proof.Machine.execFreeze h s
  | .restore h image => Sys2Proof.Machine.execRestore h image s
  | .tvec h addr => Sys2Proof.Machine.execTvec h addr s
  | .eventWordWrite vdev val => Sys2Proof.Machine.execEventWordWrite vdev val s
  | .collectiveCombine group => Sys2Proof.Machine.execCollectiveCombine group s
  | .collectiveTimeout group => Sys2Proof.Machine.execCollectiveTimeout group s
  | .remoteAccess src who lnum m => Sys2Proof.Machine.execRemoteAccess src who lnum m s
  | .remoteAccessTimeout who => Sys2Proof.Machine.execRemoteAccessTimeout who s
  | .portLinkDown port => Sys2Proof.Machine.execPortLinkDown port s
  | .coldReset => Sys2Proof.Machine.execColdReset s
  | .recoveryImage image => Sys2Proof.Machine.execRecoveryImage image s
  | .watchdogReset => Sys2Proof.Machine.execWatchdogReset s
  | .freezePin => Sys2Proof.Machine.execFreezePin s
  | .debugPortAccess view => Sys2Proof.Machine.execDebugPortAccess view s
  | .powerAtRating mw => Sys2Proof.Machine.execPowerAtRating mw s
  | .clockRecoveryTimer => Sys2Proof.Machine.execClockRecoveryTimer s
  | .supplyOrJunctionLimit kind => Sys2Proof.Machine.execSupplyOrJunctionLimit kind s
  | .portLinkUp port => Sys2Proof.Machine.execPortLinkUp port s
  | .reservedOpCommand h c => Sys2Proof.Machine.execReservedOpCommand h c s
  | .barrierAcknowledgement n => Sys2Proof.Machine.execBarrierAcknowledgement n s

end Sys2Proof.Machine
end

