-- ==== Sys2Proof/Machine/Rename.lean ====
section
/-! DEFINITION. The renaming of vector fields in the body of a `rep` (R403). -/

namespace Sys2Proof.Machine

def renameV (k : Nat) (r : VReg) : VReg := r + BitVec.ofNat 5 k
def renameP (k : Nat) (p : BitVec 4) : BitVec 4 := p + BitVec.ofNat 4 k

/-- Every vector field moved by `sh` registers, and every pair by `sh` pairs; the other fields as they stand. -/
noncomputable def rename (sh : Nat) (i : Instr) : Instr :=
  match i with
  | .vadd ty a b d m => .vadd ty (renameV sh a) (renameV sh b) (renameV sh d) m
  | .vsub ty a b d m => .vsub ty (renameV sh a) (renameV sh b) (renameV sh d) m
  | .vmul ty a b d m => .vmul ty (renameV sh a) (renameV sh b) (renameV sh d) m
  | .vmin ty a b d m => .vmin ty (renameV sh a) (renameV sh b) (renameV sh d) m
  | .vmax ty a b d m => .vmax ty (renameV sh a) (renameV sh b) (renameV sh d) m
  | .vand ty a b d m => .vand ty (renameV sh a) (renameV sh b) (renameV sh d) m
  | .vor ty a b d m => .vor ty (renameV sh a) (renameV sh b) (renameV sh d) m
  | .vxor ty a b d m => .vxor ty (renameV sh a) (renameV sh b) (renameV sh d) m
  | .vshl ty a b d m => .vshl ty (renameV sh a) (renameV sh b) (renameV sh d) m
  | .vshr ty a b d m => .vshr ty (renameV sh a) (renameV sh b) (renameV sh d) m
  | .vsra ty a b d m => .vsra ty (renameV sh a) (renameV sh b) (renameV sh d) m
  | .vabs ty a b m => .vabs ty (renameV sh a) (renameV sh b) m
  | .vneg ty a b m => .vneg ty (renameV sh a) (renameV sh b) m
  | .vfma ty a b d m => .vfma ty (renameV sh a) (renameV sh b) (renameV sh d) m
  | .vmulh ty a b d m => .vmulh ty (renameV sh a) (renameV sh b) (renameV sh d) m
  | .vdiv ty a b d m => .vdiv ty (renameV sh a) (renameV sh b) (renameV sh d) m
  | .vceq ty a b c m => .vceq ty a (renameV sh b) (renameV sh c) m
  | .vcne ty a b c m => .vcne ty a (renameV sh b) (renameV sh c) m
  | .vclt ty a b c m => .vclt ty a (renameV sh b) (renameV sh c) m
  | .vcle ty a b c m => .vcle ty a (renameV sh b) (renameV sh c) m
  | .vld ty a b imm m => .vld ty (renameV sh a) b imm m
  | .vst ty a b imm m => .vst ty (renameV sh a) b imm m
  | .vlds ty a b d imm m => .vlds ty (renameV sh a) b d imm m
  | .vsts ty a b d imm m => .vsts ty (renameV sh a) b d imm m
  | .vldx ty a b d imm m => .vldx ty (renameV sh a) b (renameV sh d) imm m
  | .vstx ty a b d imm m => .vstx ty (renameV sh a) b (renameV sh d) imm m
  | .vldsr ty a b imm m => .vldsr ty (renameV sh a) b imm m
  | .vstsr ty a b imm m => .vstsr ty (renameV sh a) b imm m
  | .vperm ty a b d m => .vperm ty (renameV sh a) (renameV sh b) (renameV sh d) m
  | .vcompress ty a b m => .vcompress ty (renameV sh a) (renameV sh b) m
  | .vexpand ty a b m => .vexpand ty (renameV sh a) (renameV sh b) m
  | .vslideup ty a b d m => .vslideup ty (renameV sh a) (renameV sh b) d m
  | .vslidedn ty a b d m => .vslidedn ty (renameV sh a) (renameV sh b) d m
  | .vsel ty a b d m => .vsel ty (renameV sh a) (renameV sh b) (renameV sh d) m
  | .vbcast ty a b m => .vbcast ty (renameV sh a) b m
  | .vxchg ty a b d m => .vxchg ty (renameV sh a) (renameV sh b) d m
  | .vmvxv ty a b lane m => .vmvxv ty a (renameV sh b) lane m
  | .vmvvx ty a b lane m => .vmvvx ty (renameV sh a) b lane m
  | .vredAdd ty a b m => .vredAdd ty a (renameV sh b) m
  | .vredMax ty a b m => .vredMax ty a (renameV sh b) m
  | .vredMin ty a b m => .vredMin ty a (renameV sh b) m
  | .vcvt st dt a b m => .vcvt st dt (renameV sh a) (renameV sh b) m
  | .vexp2 ty a b m => .vexp2 ty (renameV sh a) (renameV sh b) m
  | .vlog2 ty a b m => .vlog2 ty (renameV sh a) (renameV sh b) m
  | .vrcp ty a b m => .vrcp ty (renameV sh a) (renameV sh b) m
  | .vrsq ty a b m => .vrsq ty (renameV sh a) (renameV sh b) m
  | .vtanh ty a b m => .vtanh ty (renameV sh a) (renameV sh b) m
  | .vlgst ty a b m => .vlgst ty (renameV sh a) (renameV sh b) m
  | .vrng ty a b m => .vrng ty (renameV sh a) b m
  | .tmvVr t r p m => .tmvVr t r (renameP sh p) m
  | .tmvRv t r p m => .tmvRv t r (renameP sh p) m
  | .tmvVc t r p m => .tmvVc t r (renameP sh p) m
  | .tmvCv t r p m => .tmvCv t r (renameP sh p) m
  | .btPopr a bs => .btPopr (renameV sh a) bs
  | .btPopc a bs => .btPopc (renameV sh a) bs
  | .btMvbv a bs => .btMvbv (renameV sh a) bs
  | .btMvvb bd b => .btMvvb bd (renameV sh b)
  | .mcb k b => .mcb k (renameV sh b)
  | .mpush p => .mpush (renameP sh p)
  | .sendv a b => .sendv (renameV sh a) b
  | .recvv a b => .recvv (renameV sh a) b
  | i => i

end Sys2Proof.Machine
end

