-- ==== Sys2Proof/Machine/Waits.lean ====
section
/-! DEFINITION. The x registers that an instruction reads or writes, and its wait for the records that write them
(R150). -/

namespace Sys2Proof.Machine

/-- The register of a mask. -/
def maskReg : MaskMod → List XReg
  | .all => []
  | .lanes r _ => [r]

/-- The four registers of scales. -/
def quadOf (d : XReg) : List XReg := [d, d + 1, d + 2, d + 3]

/-- Every register, which a checkpoint reads (R232), and a rollback writes (R245). -/
def allX : List XReg := (List.range 32).map fun i => BitVec.ofNat 5 i

/-- The x registers that an instruction names, and those that it reads or writes beside them. -/
def xregsOf (i : Instr) : List XReg :=
  match i with
  | .add a b d => [a, b, d]
  | .sub a b d => [a, b, d]
  | .and a b d => [a, b, d]
  | .or a b d => [a, b, d]
  | .xor a b d => [a, b, d]
  | .sll a b d => [a, b, d]
  | .srl a b d => [a, b, d]
  | .sra a b d => [a, b, d]
  | .mul a b d => [a, b, d]
  | .mulh a b d => [a, b, d]
  | .mulhu a b d => [a, b, d]
  | .div a b d => [a, b, d]
  | .divu a b d => [a, b, d]
  | .rem a b d => [a, b, d]
  | .remu a b d => [a, b, d]
  | .slt a b d => [a, b, d]
  | .sltu a b d => [a, b, d]
  | .seq a b d => [a, b, d]
  | .sne a b d => [a, b, d]
  | .min a b d => [a, b, d]
  | .max a b d => [a, b, d]
  | .minu a b d => [a, b, d]
  | .maxu a b d => [a, b, d]
  | .cselZ a b d => [a, b, d]
  | .cselNz a b d => [a, b, d]
  | .clz a b => [a, b]
  | .ctz a b => [a, b]
  | .popc a b => [a, b]
  | .rev8 a b => [a, b]
  | .sextW a b => [a, b]
  | .zextW a b => [a, b]
  | .addi a d _ => [a, d]
  | .andi a d _ => [a, d]
  | .ori a d _ => [a, d]
  | .xori a d _ => [a, d]
  | .slli a d _ => [a, d]
  | .srli a d _ => [a, d]
  | .srai a d _ => [a, d]
  | .slti a d _ => [a, d]
  | .sltiu a d _ => [a, d]
  | .muli a d _ => [a, d]
  | .li a _ => [a]
  | .lsi a d _ => [a, d]
  | .seqi a d _ => [a, d]
  | .mini a d _ => [a, d]
  | .maxi a d _ => [a, d]
  | .mort3 a d _ => [a, d]
  | .lb a b _ _ => [a, b]
  | .lbu a b _ _ => [a, b]
  | .lh a b _ _ => [a, b]
  | .lhu a b _ _ => [a, b]
  | .lw a b _ _ => [a, b]
  | .lwu a b _ _ => [a, b]
  | .ld a b _ _ => [a, b]
  | .ldf a b _ _ => [a, b]
  | .ldfe a b _ _ => [a, b]
  | .sb a b _ _ => [a, b]
  | .sh a b _ _ => [a, b]
  | .sw a b _ _ => [a, b]
  | .sd a b _ _ => [a, b]
  | .sdf a b _ _ => [a, b]
  | .sfe b _ _ => [b]
  | .bz a _ => [a]
  | .bnz a _ => [a]
  | .beq a b _ => [a, b]
  | .bne a b _ => [a, b]
  | .blt a b _ => [a, b]
  | .bge a b _ => [a, b]
  | .bltu a b _ => [a, b]
  | .bgeu a b _ => [a, b]
  | .jal a _ => [a]
  | .jalr a b _ => [a, b]
  | .skipZ a _ => [a]
  | .skipNz a _ => [a]
  | .skipLt a _ => [a]
  | .skipGe a _ => [a]
  | .loop a _ => [a]
  | .rep a _ _ => [a]
  | .csrr a _ => [a]
  | .csrw a _ => [a]
  | .csrs a _ => [a]
  | .csrc a _ => [a]
  | .csrx a d _ => [a, d]
  | .la a _ => [a]
  | .faddS a b d => [a, b, d]
  | .fsubS a b d => [a, b, d]
  | .fmulS a b d => [a, b, d]
  | .fdivS a b d => [a, b, d]
  | .fminS a b d => [a, b, d]
  | .fmaxS a b d => [a, b, d]
  | .fsqrtS a b => [a, b]
  | .fmaS a b d => [a, b, d]
  | .faddD a b d => [a, b, d]
  | .fsubD a b d => [a, b, d]
  | .fmulD a b d => [a, b, d]
  | .fdivD a b d => [a, b, d]
  | .fminD a b d => [a, b, d]
  | .fmaxD a b d => [a, b, d]
  | .fsqrtD a b => [a, b]
  | .fmaD a b d => [a, b, d]
  | .feqS a b d => [a, b, d]
  | .fltS a b d => [a, b, d]
  | .fleS a b d => [a, b, d]
  | .feqD a b d => [a, b, d]
  | .fltD a b d => [a, b, d]
  | .fleD a b d => [a, b, d]
  | .fclassS a b => [a, b]
  | .fclassD a b => [a, b]
  | .fcvtSD a b => [a, b]
  | .fcvtDS a b => [a, b]
  | .fcvtSL a b => [a, b]
  | .fcvtLS a b => [a, b]
  | .fcvtDL a b => [a, b]
  | .fcvtLD a b => [a, b]
  | .fcvtSBf a b => [a, b]
  | .fcvtBfS a b => [a, b]
  | .fcvtSHf a b => [a, b]
  | .fcvtHfS a b => [a, b]
  | .fcvtSE4 a b => [a, b]
  | .fcvtE4S a b => [a, b]
  | .fcvtSE5 a b => [a, b]
  | .fcvtE5S a b => [a, b]
  | .fcvtSW a b => [a, b]
  | .fcvtWS a b => [a, b]
  | .fexp2 a b => [a, b]
  | .flog2 a b => [a, b]
  | .frcp a b => [a, b]
  | .frsq a b => [a, b]
  | .fsin a b => [a, b]
  | .fcos a b => [a, b]
  | .ftanh a b => [a, b]
  | .flgst a b => [a, b]
  | .vadd _ _ _ _ m => maskReg m
  | .vsub _ _ _ _ m => maskReg m
  | .vmul _ _ _ _ m => maskReg m
  | .vmin _ _ _ _ m => maskReg m
  | .vmax _ _ _ _ m => maskReg m
  | .vand _ _ _ _ m => maskReg m
  | .vor _ _ _ _ m => maskReg m
  | .vxor _ _ _ _ m => maskReg m
  | .vshl _ _ _ _ m => maskReg m
  | .vshr _ _ _ _ m => maskReg m
  | .vsra _ _ _ _ m => maskReg m
  | .vabs _ _ _ m => maskReg m
  | .vneg _ _ _ m => maskReg m
  | .vfma _ _ _ _ m => maskReg m
  | .vmulh _ _ _ _ m => maskReg m
  | .vdiv _ _ _ _ m => maskReg m
  | .vceq _ a _ _ m => [a] ++ maskReg m
  | .vcne _ a _ _ m => [a] ++ maskReg m
  | .vclt _ a _ _ m => [a] ++ maskReg m
  | .vcle _ a _ _ m => [a] ++ maskReg m
  | .vld _ _ b _ m => [b] ++ maskReg m
  | .vst _ _ b _ m => [b] ++ maskReg m
  | .vlds _ _ b d _ m => [b, d] ++ maskReg m
  | .vsts _ _ b d _ m => [b, d] ++ maskReg m
  | .vldx _ _ b _ _ m => [b] ++ maskReg m
  | .vstx _ _ b _ _ m => [b] ++ maskReg m
  | .vldsr _ _ b _ m => [b] ++ maskReg m
  | .vstsr _ _ b _ m => [b] ++ maskReg m
  | .vperm _ _ _ _ m => maskReg m
  | .vcompress _ _ _ m => maskReg m
  | .vexpand _ _ _ m => maskReg m
  | .vslideup _ _ _ d m => [d] ++ maskReg m
  | .vslidedn _ _ _ d m => [d] ++ maskReg m
  | .vsel _ _ _ _ m => maskReg m
  | .vbcast _ _ b m => [b] ++ maskReg m
  | .vxchg _ _ _ d m => [d] ++ maskReg m
  | .vmvxv _ a _ _ m => [a] ++ maskReg m
  | .vmvvx _ _ b _ m => [b] ++ maskReg m
  | .vredAdd _ a _ m => [a] ++ maskReg m
  | .vredMax _ a _ m => [a] ++ maskReg m
  | .vredMin _ a _ m => [a] ++ maskReg m
  | .vcvt _ _ _ _ m => maskReg m
  | .vexp2 _ _ _ m => maskReg m
  | .vlog2 _ _ _ m => maskReg m
  | .vrcp _ _ _ m => maskReg m
  | .vrsq _ _ _ m => maskReg m
  | .vtanh _ _ _ m => maskReg m
  | .vlgst _ _ _ m => maskReg m
  | .vrng _ _ b m => [b] ++ maskReg m
  | .tcfg a _ c => [a, c]
  | .tcfgr a _ c => [a, c]
  | .tld _ b c _ _ => [b, c]
  | .tst _ b c _ _ => [b, c]
  | .tldt _ b c _ _ => [b, c]
  | .tldm _ b c d _ _ => [b, c, d]
  | .tmvVr _ _ _ m => maskReg m
  | .tmvRv _ _ _ m => maskReg m
  | .tmvVc _ _ _ m => maskReg m
  | .tmvCv _ _ _ m => maskReg m
  | .btLd _ b _ _ => [b]
  | .btSt _ b _ _ => [b]
  | .tsv _ b _ => [b]
  | .trs _ b _ => [b]
  | .mmaE4e4 _ _ _ sc => quadOf sc
  | .mmaE4e5 _ _ _ sc => quadOf sc
  | .mmaE5e4 _ _ _ sc => quadOf sc
  | .mmaE5e5 _ _ _ sc => quadOf sc
  | .mmaI8i8 _ _ _ sc => quadOf sc
  | .mmaI8n8 _ _ _ sc => quadOf sc
  | .mmaMx8 _ _ _ sc => quadOf sc
  | .mmaMx6 _ _ _ sc => quadOf sc
  | .mmaMx4 _ _ _ sc => quadOf sc
  | .mmaMxi8 _ _ _ sc => quadOf sc
  | .smmaE4e4 _ _ _ sc => quadOf sc
  | .smmaI8i8 _ _ _ sc => quadOf sc
  | .mdraint _ _ _ _ d => quadOf d
  | .mqs a => [a]
  | .mdrainMx _ _ d => quadOf d
  | .amoadd _ a b d _ _ => [a, b, d]
  | .amoswap _ a b d _ _ => [a, b, d]
  | .amocas _ a b d _ _ => [a, b, d]
  | .amoand _ a b d _ _ => [a, b, d]
  | .amoor _ a b d _ _ => [a, b, d]
  | .amoxor _ a b d _ _ => [a, b, d]
  | .amomin _ a b d _ _ => [a, b, d]
  | .amomax _ a b d _ _ => [a, b, d]
  | .amominu _ a b d _ _ => [a, b, d]
  | .amomaxu _ a b d _ _ => [a, b, d]
  | .amofadd _ a b d _ _ => [a, b, d]
  | .wait a b _ _ _ => [a, b]
  | .barArr a => [a]
  | .barWait a => [a]
  | .barSync a => [a]
  | .barCfg a b => [a, b]
  | .send a b => [a, b]
  | .recv a b => [a, b]
  | .sendv _ b => [b]
  | .recvv _ b => [b]
  | .recvt a b d => [a, b, d]
  | .qw a _ => [a]
  | .qr a _ => [a]
  | .qtr a _ d => [a, d]
  | .sqenq a b _ _ => [a, b]
  | .sqdeq a b _ _ => [a, b]
  | .propBegin => allX
  | .propEnd _ _ => allX
  | .propSerial => allX
  | .propStat a => [a]
  | .rng a b => [a, b]
  | .troupeJoin a b => [a, b]
  | .ceW a b => [a, b]
  | .ceArm a b => [a, b]
  | .ceStat a => [a]
  | .launch a b => [a, b]
  | .shape a b => [a, b]
  | _ => []

/-- The instruction may set its next PC. -/
def transfers (i : Instr) : Bool :=
  match i with
  | .bz _ _ | .bnz _ _ | .beq _ _ _ | .bne _ _ _ | .blt _ _ _ | .bge _ _ _ | .bltu _ _ _ | .bgeu _ _ _ => true
  | .jal _ _ | .jalr _ _ _ | .skipZ _ _ | .skipNz _ _ | .skipLt _ _ | .skipGe _ _ | .rti => true
  | _ => false

namespace State

/-- A record of the slot has still to write an x register of the instruction, or the counter of a frame whose closing
test may follow it: its next PC is END, or it sets one (R150, R380). -/
def owedX (s : State) (i : Instr) : Bool :=
  let f := s.strand.frame s.strand.mode
  let closes := f.act && (s.after == f.stop || transfers i)
  let l := if closes then f.creg :: xregsOf i else xregsOf i
  l.any fun r => r != 0 && s.core.owesWrite (.xreg s.me.slot r)

end State

end Sys2Proof.Machine
end

