-- ==== Sys2Proof/Machine/Issue.lean ====
section
/-! DEFINITION. What a strand does next: what it takes, fetches or receives (R44, R66, R91, R403). -/

namespace Sys2Proof.Machine

namespace State

/-! ## What the strand issues -/

/-- In U, the first instruction issued clears the interrupted marks; at the address marked in U it goes on with what it left
(R202), and so does a `vxchg` in every mode (R473; entry 106). A count that a pre-emption kept in the mode goes on at its instruction
(R54). -/
def enterInsn (s : State) : State :=
  let m := s.strand.mode
  let pc := s.strand.pc
  s.modSync fun y =>
    { y with
      began := y.began || (y.marks.contains (m, pc) && (m == .U || y.xIn.isSome || y.xOut.isSome))
      marks := if m == .U then [] else y.marks.filter fun k => k.1 != m
      waited := match y.kept.find? fun k => k.1 == m with
        | some (_, p, n) => if p = pc then n else y.waited
        | none => y.waited
      kept := y.kept.filter fun k => k.1 != m }

/-- The executing instruction's parcels as the meanings see them, kept with the strand while it holds. -/
def latched (s : State) (ps : List Parcel) : State :=
  { s with latch := { len := ps.length, first := firstFour ps, target := none } }.modSync fun y => { y with insn := ps }

/-- The pc lies in the body of the mode's active `rep`. -/
def inRep (t : Strand) : Bool :=
  let f := t.frame t.mode
  f.act && f.rep && decide (f.start.toNat ≤ t.pc.toNat) && decide (t.pc.toNat < f.stop.toNat)

/-- The renaming distance of the strand's next instruction. -/
def renameBy (t : Strand) : Nat :=
  let f := t.frame t.mode
  if inRep t then f.stride.toNat * f.pass.toNat else 0

/-- Refill the repetition buffer from START (R404): at most 8 instructions, up to END. A fetch that fails ends it, and a line
with an uncorrectable error is dropped and logged (R66). -/
def refillFrom (s : State) (va stop : Word) (acc : List (Word × List Parcel)) : Nat → List (Word × List Parcel) × State
  | 0 => (acc, s)
  | n + 1 =>
    if stop.toNat ≤ va.toNat then (acc, s)
    else
      match runFrom s va 5 [] with
      | .ok (some ps, s') => refillFrom s' (va + BitVec.ofNat 64 (2 * ps.length)) stop (acc ++ [(va, ps)]) n
      | .error (.fault c v) => (acc, s.logFetch c v)
      | _ => (acc, s)

/-- What the core's repetition buffer holds of the executing strand. -/
def buffered (s : State) : List (Word × List Parcel) :=
  match s.core.rbuf with
  | some (k, l) => if k = s.me.slot then l else []
  | none => []

/-- A list of parcels as a fetch brings it. -/
def asFetched (ps : List Parcel) : Fetched :=
  match scanFrom Scan.start ps with
  | some (.done c _) => .chain c ps
  | _ => .bad ps

/-- The strand's next instruction: the one that it has issued and that holds, which is not fetched again (R7); one from the
repetition buffer, filled again when an `rti` has emptied it or another strand has taken it (R12, R404; entry 76); or one from
memory. An illegal chain in the buffer shows as SVAL all its parcels, those behind the first that makes it illegal too: they
have been fetched with it (R63, R91; DESIGN CHOICE, entry 111). -/
def fetchNext (s : State) : Fetched × State :=
  let t := s.strand
  if t.sync.held && !t.sync.insn.isEmpty then (asFetched t.sync.insn, s)
  else if !inRep t then fetchAt s t.pc
  else
    let f := t.frame t.mode
    let s :=
      if s.buffered.isEmpty then
        let (l, s) := refillFrom s f.start f.stop [] 8
        s.fillBuffer l
      else s
    match s.buffered.find? fun e => e.1 == t.pc with
    | some (_, ps) => (asFetched ps, s)
    | none => fetchAt s t.pc

end State

/-- What a strand does next. -/
inductive Prep where
  | idle (s : State)
  | move (s : State)
  | run  (i : Instr) (s : State)

namespace State

/-- The instruction waits for a record of its slot that writes one of its x registers (R150). -/
noncomputable def waitsX (s : State) (c : Chain) (ps : List Parcel) : Bool :=
  (decodeChain c).any fun i => (s.latched ps).owedX i

/-- Issue the instruction whose parcels are at hand, or trap with cause 1 (R91). -/
noncomputable def issueChain (s : State) (c : Chain) (ps : List Parcel) : Prep :=
  let s := s.latched ps
  match decodeChain c with
  | some i => .run (rename (renameBy s.strand) i) s
  | none => .move (s.takeSync 1 (firstFour ps) 0)

/-- Fetch and issue. -/
noncomputable def issueOwn (s : State) : Prep :=
  match s.fetchNext with
  | (.chain c ps, s) => if s.waitsX c ps then .idle s else s.issueChain c ps
  | (.bad ps, s) => .move ((s.latched ps).takeSync 1 (firstFour ps) 0)
  | (.fault c v, s) => .move (s.takeSync c v 0)
  | (.wait, s) => .idle s

/-- Every follower of the leader has a free entry (R44). -/
def hasCredit (s : State) (lead : Nat) : Bool :=
  (s.troupeOf lead).all fun k => k == lead || 0 < (s.strandAt (Sid.ofKey k)).troupe.credit

/-- The leader sends an instruction that it issues for the first time over the strings. -/
def forwardAll (s : State) (lead : Nat) (ps : List Parcel) : State :=
  let pc := (s.strandAt (Sid.ofKey lead)).pc
  (s.troupeOf lead).foldl (fun s k =>
    if k == lead then s
    else
      let s := s.modStrand (Sid.ofKey k) fun t => { t with troupe := { t.troupe with credit := t.troupe.credit - 1 } }
      s.forwardTo k (.insn pc ps none)) s

/-- A leader fetches and forwards. -/
noncomputable def issueLead (s : State) (first : Bool) : Prep :=
  if first && !s.hasCredit s.me.key then .idle s
  else
    match s.fetchNext with
    | (.chain c ps, s) =>
      match decodeChain c with
      | some _ =>
        if s.waitsX c ps then .idle s else (if first then s.forwardAll s.me.key ps else s).issueChain c ps
      | none => s.issueChain c ps
    | (.bad ps, s) => .move ((s.latched ps).takeSync 1 (firstFour ps) 0)
    | (.fault c v, s) => .move (s.takeSync c v 0)
    | (.wait, s) => .idle s

/-- A follower issues what stands first in its buffer; it waits while its leader has still to retire what it has retired
itself, and at the dissolving marker it goes on alone from the marker's address (R45, R46). -/
noncomputable def issueFollow (s : State) (first : Bool) : Prep :=
  let t := s.strand
  match t.troupe.buf with
  | .dissolve pc :: _ => (s.withStrand fun t => { t.alone with pc := pc }).issueOwn
  | [] => .idle s
  | .insn pc ps _ :: _ =>
    if t.troupe.past.isSome then .idle s
    else if pc ≠ t.pc then (s.withStrand Strand.alone).issueOwn
    else
      let waits := match asFetched ps with
        | .chain c _ => s.waitsX c ps
        | _ => false
      -- the entry is freed when its instruction first issues; it stays until that instruction retires (entry 14)
      let t :=
        if first then s.withStrand fun t =>
          { t with troupe := if s.turn.post then { t.troupe with owed := t.troupe.owed + 1 } else { t.troupe with credit := t.troupe.credit + 1 } }
        else s
      if waits then .idle s
      else match asFetched ps with
      | .chain c _ => t.issueChain c ps
      | _ => .move ((t.latched ps).takeSync 1 (firstFour ps) 0)

/-- The strand's piece is surplus: it retires nothing more (R287). -/
def doomed (s : State) (w : Sid) : Bool :=
  let i := (s.strandAt w).ident
  i.stage == 0 && (s.launchOf w).any fun l => surplus l i.piece

/-- The executing strand issues as a member of a troupe: not while it is still at its join. -/
def inTroupe (s : State) : Bool := s.strand.troupe.size != 0 && s.strand.sync.joinN.isNone

/-- What the strand in slot `k` of core `n` does next. -/
noncomputable def prepare (s : State) (n k : Nat) : Prep :=
  let s := { s with me := ⟨n, k⟩ }
  let t := s.strand
  if !t.live || s.gated n || s.turn.stall.contains k then .idle s
  else
    match (if s.doomed s.me then none else s.asyncDue) with
    | some (code, val, toM) => .move (s.takeDue code val toM)
    | none =>
      if t.sync.halted || !(s.launchOf s.me).any (·.open_) || s.doomed s.me then .idle s
      else
        let s := (s.issued n k).enterInsn
        if !s.inTroupe then s.issueOwn
        else if t.troupe.lead = s.me.key then s.issueLead (!t.sync.held)
        else s.issueFollow (!t.sync.held)

/-- A strand that holds has not issued: the issue order is as it was. -/
def unissued (s : State) (n : Nat) (c : Core) : State :=
  s.modCore n fun k => { k with order := c.order, run := c.run, recent := c.recent }

end State

end Sys2Proof.Machine
end

