-- ==== Sys2Proof/Machine/Auto.lean ====
section
/-! DEFINITION. What happens by itself when no strand of the core moves and the schedule is empty (entry 2): an event that
is ready; and which events a frozen module still has. -/

namespace Sys2Proof.Machine

namespace State

/-- A wait that is over its bound, on a core. -/
noncomputable def autoTimeout (s : State) (n : Nat) : Option Instr :=
  ((List.range 4).map fun k => (⟨n, k⟩ : Sid)).findSome? fun w =>
    let t := { s with me := w }
    if t.waitedOut then some (.btoTimeout w)
    else if t.stalledOut then some (.provisionalStallTimeout w)
    else if s.preemptDue w then some (.preemptionDeadline w)
    else none

/-- An engine of the core that can go on. -/
noncomputable def autoEngine (s : State) (n : Nat) : Option Instr :=
  let c := s.coreAt n
  match (List.range c.miss.length).find? fun i => (c.miss[i]?).any s.missDue with
  | some i => some (.missEntryTimeout n i)
  | none =>
  if !c.sfu.isEmpty then some (.sfuRequestComplete n)
  else if c.matrix.run.isSome then some (.matrixRecordComplete n)
  else if !c.matrix.queue.isEmpty then some (.matrixRecordStart n)
  else if c.ce.stat = 2 then some (if c.ce.due then .ceCompletionWrite n else .ceChunkPerformed n)
  else none

/-- A write in flight that cannot be performed yet: something comes before it, or its scope miss is under way (R195). -/
noncomputable def waitsThere (s : State) (i : Nat) (f : Flight) : Bool :=
  s.writeBehind i f || ((tagOf f.msg).bind (s.narrowAt (placesOf f.msg))).any fun q => s.missSent (widenFirst f.src q.1 q.2)

/-- What brings message `i` on, if anything does. -/
noncomputable def autoMessage (s : State) (i : Nat) (f : Flight) : Option Instr :=
  match f.msg with
  | .write .. => if f.done then some (.storeAcknowledgement i) else if s.waitsThere i f then none else some (.sliceWrite i)
  | .lmWrite .. => if f.done then some (.storeAcknowledgement i) else if s.waitsThere i f then none else some (.lmPortAccess i)
  | .read l none _ _ => if s.heldWhole (.line (l * 32)) then none else some (.sliceRead f.src.core (l * 32))
  | .read _ (some _) _ _ => some (.memoryReply i)
  | .scopeMiss m => some (if m.tag.module = s.mp.module then .scopeMissMessage i else .wideningNotice i)
  | .widen .. => if s.noticeReady f then some (.wideningNotice i) else none
  | .barArr .. => if f.done then some (.barrierAcknowledgement i) else if s.meshWaits i then none else some (.barrierArrival i)
  | .barCfg .. => if f.done then some (.barrierAcknowledgement i) else if s.meshWaits i then none else some (.barrierConfig i)
  | .barRel .. => if s.meshWaits i then none else some (.barrierRelease i)
  | .chan .. => if f.done then some (.sendAcknowledgement i) else if s.meshWaits i then none else some (.channelMessage i)
  | .chanWait .. => none
  | .refill q _ =>
    if (vgetN (s.coreAt f.src.core).q q).length < 4 then some (.refillArrival f.src.core (BitVec.ofNat 3 q)) else none
  | .requeue _ pa room _ =>
    if s.requeueReady pa room then some (.heldEntryReenqueue i) else none
  | .remote _ => none

/-- Something on a follower's strings. -/
noncomputable def autoTroupe (s : State) : Option Instr :=
  s.residents.findSome? fun q =>
    match q.2.troupe.onWire with
    | .insn .. :: _ => some (.instructionForward (Sid.ofKey q.1))
    | .dissolve _ :: _ => some (.dissolvingMarker (Sid.ofKey q.1))
    | [] => if 0 < q.2.troupe.owed then some (.forwardCredit (Sid.ofKey q.1)) else none

/-- What the launch engine can do for a launch. -/
noncomputable def autoLaunch (s : State) (l : Launch) : Option Instr :=
  if hasEnded l then (if s.writesLeft l || s.stuckAt (s.doneLine l) then none else some (.launchCompletion l.num))
  else if l.seen.isSome && l.delivered.isNone then some (.shapeDelivery l.num)
  else
    match l.pieces.find? fun (p : Piece) => p.st == .placed && s.canStart l p with
    | some p => some (.pieceStart l.num p.stage p.idx)
    | none =>
      match l.pieces.find? fun (p : Piece) => p.stage == 0 && p.st != .squashed && surplus l p.idx with
      | some p => some (.pieceSquash l.num p.idx)
      | none =>
        if l.runAt.isNone then (if l.deps.all (·.sat) && !s.stuckAt (depLines l) then some (.dependenceSatisfied l.num 0) else none)
        else
          match s.vdevNo l.vdev with
          | none => none
          | some d =>
            let asks := ((wantedWidths l).flatMap fun w => (s.positions d w).map fun c => (c, w))
            ((s.autoPlaces d l).map fun q => .strandResume l.num q).or <|
            (asks.findSome? fun q =>
              match s.request q.2 q.1 with
              | some (false, _) => some (.carouselPull q.1 q.2)
              | _ => none).or
              (asks.findSome? fun q =>
                match s.request q.2 q.1 with
                | some (true, _) => some (.carouselSteal q.1 q.2)
                | _ => none) |>.or
              ((s.roomVictims d l).findSome? fun q =>
                if (s.strandAt q.1).preq.any fun p => p.urgent || !q.2 then none else some (.preemptionRequest q.1 q.2))

/-- The event that starts a waiting command. -/
noncomputable def heldCommand (c : Waiting) : Option Instr :=
  match c.words.map BitVec.toNat, c.words with
  | 1 :: _, [_, a] => some (.hostLaunch c.head a)
  | 2 :: _, [_, a, b, n, f, e] => some (.hostCopy c.head a b n f e)
  | 3 :: _, [_, l, r, p] => some (.hostEvent c.head l.toNat r.toNat p)
  | 4 :: _, [_, a, n] => some (.hostShape c.head a n)
  | 5 :: _, _ => some (.hostWake c.head)
  | 6 :: 1 :: _, _ :: _ :: ops => some (.create c.head ops)
  | 6 :: 2 :: _, [_, _, v] => some (.destroy c.head v)
  | 6 :: 3 :: _, _ :: _ :: ops => some (.memory c.head ops)
  | 6 :: 4 :: _, [_, _, v, m] => some (.ways c.head v m)
  | 6 :: 5 :: _, _ :: _ :: ops => some (.queue c.head ops)
  | 6 :: 6 :: _, [_, _, a] => some (.root c.head a)
  | 6 :: 7 :: _, [_, _, a] => some (.idlet c.head a)
  | 6 :: 8 :: _, [_, _, a] => some (.rtrec c.head a)
  | 6 :: 9 :: _, [_, _, a] => some (.quantum c.head a)
  | 6 :: 10 :: _, [_, _, a] => some (.persist c.head a)
  | 6 :: 11 :: _, _ => some (.box c.head)
  | 6 :: 12 :: _, _ => some (.words c.head)
  | 6 :: 13 :: _, [_, _, a, b] => some (.features c.head a b)
  | 6 :: 14 :: _, [_, _, a, b] => some (.domain c.head a b)
  | 6 :: 15 :: _, [_, _, a, b, d, e] => some (.group c.head a b d e)
  | 6 :: 16 :: _, [_, _, a, b] => some (.attest c.head a b)
  | 6 :: 17 :: _, _ => some (.freeze c.head)
  | 6 :: 18 :: _, [_, _, a] => some (.restore c.head a)
  | 6 :: 19 :: _, [_, _, a] => some (.tvec c.head a)
  | w :: k :: _, _ => if 2 ^ 63 ≤ w then some (.reservedOpCommand c.head ⟨w - 2 ^ 63, k⟩) else none
  | _, _ => none

/-- A waiting command can go on: it may start, and the place of a shape word is no longer held. -/
noncomputable def canGo (s : State) (c : Waiting) : Bool :=
  s.mayStart c && match c.words, s.vdevNo c.vdev with
    | [4, a, _], some d => !((s.enginePa d .store a.toNat).any fun pa => s.stuckAt (shapePlace pa))
    | _, _ => true

/-- A copy can go on: a port carries it, and nothing holds the lines that it writes. -/
noncomputable def copyReady (s : State) (c : HCopy) : Bool :=
  match s.vdevNo c.vdev with
  | none => false
  | some d =>
    let cells := match c.part with
      | some bs => s.copyCells d c bs
      | none => (match s.copySource d c with | .ok bs => s.copyCells d c bs | .error e => .error e)
    match cells with
    | .error _ => true
    | .ok cells =>
      (s.linked || !(copySrch c || copyDsth c || copyRed c))
        && !((linesOf (s.ownCells cells)).any fun l => s.blocked.any fun q => q.1 == .line (l * 32))
        && !(c.done != 0 && s.stuckAt (s.counterLine d c.done))

/-- What the E-die can do. -/
noncomputable def autoHost (s : State) : Option Instr :=
  if !s.submits.isEmpty then some (.launchRecordAdmission 0)
  else
    match s.vdevs.find? fun d => s.hasLeft d || s.canWake d with
    | some d => some (.deviceWake d.num)
    | none =>
      match s.vdevs.find? fun d => d.boxing && !s.host.waiting.any fun c => c.vdev == d.num with
      | some d => some (.idleTimeout d.num)
      | none =>
        match (List.range s.host.copies.length).find? fun i => (s.host.copies[i]?).any fun c => !copyRed c && s.copyReady c with
        | some i => some (.copyCompletion i)
        | none => (s.host.copies.find? fun c => s.contributed (copyGroup c) == some c && s.copyReady c).map fun c =>
          .collectiveCombine (copyGroup c)

/-- A host command that goes on: a layout change from its intent record, or a waiting command. -/
noncomputable def autoCommand (s : State) : Option (Nat × Instr) :=
  match s.mp.journal.find? fun j => !j.done with
  | some j => some (j.serial, .destroy j.head 0)
  | none => (s.host.waiting.find? s.canGo).bind fun c => (heldCommand c).map fun i => (c.serial, i)

end State

/-- The first event that is ready, the core's own first. -/
noncomputable def autoEvent (s : State) (n : Nat) : Option Instr :=
  if s.mp.frozen then none
  else
    (s.autoTimeout n).or ((s.autoEngine n).or (((List.range s.flights.length).findSome? fun i =>
      (s.flights[i]?).bind (s.autoMessage i)).or (s.autoTroupe.or ((s.launches.findSome? s.autoLaunch).or s.autoHost))))

/-- The events that a frozen module still has: those of the MP, its pins and its ports, and commands, which it drops
(R328). -/
def runsFrozen (i : Instr) : Bool :=
  match i with
  | .coldReset => true
  | .watchdogReset => true
  | .freezePin => true
  | .debugPortAccess _ => true
  | .supplyOrJunctionLimit _ => true
  | .portLinkDown _ => true
  | .portLinkUp _ => true
  | _ => false

end Sys2Proof.Machine
end

