-- ==== Sys2Proof/Machine/Leave.lean ====
section
/-! DEFINITION. What software does without an instruction of its own: a strand whose state it has saved gives up its slot
(R39, R55, R72), and the firmware delivers an error to S (R62). -/

namespace Sys2Proof.Machine

/-- A strand is in the handler of a pre-emption, which it took at a safe point, at the deadline, or at a superstep boundary (R49,
R50, R72). -/
def inPreempt (t : Strand) : Bool := t.mode != .U && (if t.mode = .M then t.mBank else t.sBank).cause == State.asyncCause 1

/-- A strand as it is saved: alone, and with no request to leave, which it has met. -/
def Strand.asSaved (t : Strand) : Strand := { t.alone with preq := none, causes := t.causes.filter fun c => c.1 != 1 }

namespace State

/-- The strand still waits for messages of its own. -/
def hasFlights (s : State) (w : Sid) : Bool :=
  s.flights.any fun f => f.src == w &&
    (match f.msg with
      | .write .. => true | .lmWrite .. => true | .barArr .. => true | .barCfg .. => true | .remote .. => true | .read .. => true
      | _ => false)

/-- The strand can be saved: it is in such a handler, and no engine works for it. -/
def maySave (s : State) (w : Sid) : Bool :=
  let t := s.strandAt w
  t.live && inPreempt t && !s.hasFlights w && !s.matrixBusy w
    && !((s.coreAt w.core).ce.stat == 2 && (s.coreAt w.core).ce.owner == w.slot)

/-- The strand, whose state the runtime or the firmware has saved in a handler, leaves its slot, whose frames stay (R381). Its bytes
are performed first, since it may return elsewhere (R188); its registers are parked, and out of M the firmware's save goes
with it, to no place in memory (R72, R78; DESIGN CHOICE, entry 109). Its piece is saved once every running member has left. A
co-resident launch issues nothing until all of it is back, and those of it that are not yet in such a handler are asked to
leave (R39; entry 33). -/
def leaveSlot (s : State) (w : Sid) : State :=
  let t := s.strandAt w
  let s := if s.maySave w then s.flushOf w else s
  if !s.maySave w || s.unacked w then s
  else
    let k := if t.mode = .M then some (s.keepOf w) else none
    let s : State := { s.parkOwn w with saved := s.saved ++ [⟨t.asSaved, w, k⟩] }
    let s := s.setStrand w { Strand.reset with frameU := t.frameU, frameS := t.frameS, frameM := t.frameM }
    let s := s.dropBuffer w
    let s := s.modCore w.core fun c =>
      { c with
        order := c.order.erase w.slot
        sfu := c.sfu.filter (· != w.slot)
        recent := if c.recent = some w.slot then none else c.recent
        matrix := if t.mode = .M then { c.matrix with held := vsetN c.matrix.held w.slot [] } else c.matrix }
    let s := s.modLaunch t.ident.lnum fun l =>
      let ps := l.pieces.map fun (p : Piece) =>
        if p.stage = t.ident.stage ∧ p.idx = t.ident.piece then
          { p with at_ := p.at_.erase w, st := if (p.at_.erase w).isEmpty then .saved else p.st }
        else p
      { l with
        pieces := ps
        open_ := l.open_ && !(l.lrec.cores && ps.all fun (p : Piece) => p.st != .running) }
    match s.launchNo t.ident.lnum with
    | some l =>
      if l.lrec.cores then
        ((s.residents.filter fun q => q.2.ident.lnum == l.num).map fun q => Sid.ofKey q.1).foldl (fun s u =>
          if (s.strandAt u).preq.isSome || inPreempt (s.strandAt u) then s else s.requestPreempt u false) s
      else s
    | none => s

/-- The firmware has logged an error that stands in M and delivers it to S (R62): through R61 with the original PCF; but an
asynchronous one that S does not take yet stays pending there, and a synchronous one that S raised with SIE = 0 ends the
launch with status 8. One that M raised itself is not delivered (entry 78). -/
def redeliver (s : State) (w : Sid) : State :=
  let t := s.strandAt w
  let bk := t.mBank
  let sync := bk.cause == 19
  if !t.live || t.mode != .M || !(sync || bk.cause == asyncCause 5) then s
  else
    let s := s.modCore w.core fun c => { c with log := c.log ++ [bk.tval] }
    match modeOfCode (field bk.status 2 2) with
    | some .U => s.modStrand w fun t => { t with mBank := bk.leave, mode := .U, pc := bk.epc }.enterTrap false bk.cause bk.tval
    | some .S =>
      let back (t : Strand) : Strand := { t with mBank := bk.leave, mode := .S, pc := bk.epc }
      if t.sBank.status.getLsbD 0 then s.modStrand w fun t => (back t).enterTrap false bk.cause bk.tval
      else if sync then s.abortLaunch t.ident.lnum 8
      else s.modStrand w fun t => { back t with sPend := t.sPend ++ [bk.tval] }
    | _ => s

end State

end Sys2Proof.Machine
end

