-- ==== Sys2Proof/Machine/Place.lean ====
section
/-! DEFINITION. A first strand put into the machine from outside, with its instruction, as a test of single instructions
needs it (entry 1): a device with identity-mapped code, a launch of one piece, and a strand in core 0's slot 0. -/

namespace Sys2Proof.Machine

/-- Where the code lies, as a virtual and as a physical address. -/
def codeBase : Word := 0x1_0000_0000

/-- The device: the whole of node (13, 0), local memory from 0 up, tables at 0x1000, no runtime. -/
def placedVdev : VDev where
  num := 1
  level := 13
  index := 0
  nohole := true
  hbase := 0
  hbound := 0x10_0000_0000
  lbase := 0
  lbound := 0
  root := 0x1000
  ways := 0
  wclass := 0
  wbound := 0
  wcap := 0
  idlet := 0
  rtrec := 0
  tvec := 0
  quantum := 0
  persist := []
  kept := []
  power := .running
  runtime := 0
  waking := false
  evPend := []
  boxing := false
  wakeSeq := 0
  stowed := []
  moving := false

def placedRecord : LRec where
  nst := 1
  step := false
  cores := false
  rscope := 0
  fuse := false
  prio := 0
  dclass := 0
  shp := false
  kdesc := 0
  keylo := 0
  keyhi := 0
  fpc := 0
  pred := 0
  margin := 0
  pol := 0
  g := 0
  shapew := 0
  done := 0
  srec := 0
  grids := [⟨1, 1, 1, 1⟩]

def placedKernel : KDesc where
  entries := [codeBase]
  lmsz := 0x1_0000
  srsz := 0
  priv := false
  lmimg := 0
  shimg := 0
  chans := []
  xfer := []
  raw := []
  xferRaw := []
  image := []

def placedLaunch : Launch where
  num := 1
  vdev := 1
  lrec := placedRecord
  kd := placedKernel
  deps := []
  allocs := []
  origin := none
  runAt := some 0
  age := 0
  carousels := []
  pieces := [⟨0, 0, .running, [⟨0, 0⟩], [0], []⟩]
  p := 1
  shapePa := 0
  seen := none
  delivered := none
  superstep := 0
  exch := none
  status := 0
  val := 0
  open_ := true
  aborted := false

def placedIdent : Ident where
  vdev := 1
  lnum := 1
  stage := 0
  piece := 0
  member := 0
  width := 1
  rank := 0
  lmBase := 0
  lmSize := 0x1_0000
  ssArr := 0
  born := 0

namespace State

/-- Put one strand into core 0, with code at `codeBase` that the device maps onto itself. -/
def placeCode (s : State) (ps : List Parcel) : State :=
  let code := cellsAt codeBase.toNat (ps.flatMap fun p => bytesOfNat 2 p.toNat)
  -- level 3: a pointer to the table at 0x2000; level 2: a 16 GiB leaf at 0 with V, LEAF, R, W, X and U
  let tables := cellsAt 0x1000 (bytesOfNat 8 0x2001) ++ cellsAt 0x2000 (bytesOfNat 8 0x3F)
  { s with
    sched := []
    turn := Turn.plain
    me := ⟨0, 0⟩
    strands := setK 0 { Strand.reset with live := true, pc := codeBase, ident := placedIdent } s.strands
    cores := setK 0 { Core.reset with order := [0] } s.cores
    clTlb := setK 0 [] s.clTlb
    mem := (s.mem.writeCells tables).writeCells code
    vdevs := [placedVdev]
    launches := [placedLaunch]
    mp := { s.mp with frozen := false } }

/-- The parcels at the strand's pc in memory, when each of them is mapped; the core's instruction cache drops its copies. -/
def patchCode (s : State) (va : Word) : List Parcel → Option State
  | [] => some s
  | p :: ps =>
    match s.vdevOf s.me with
    | none => none
    | some d =>
      if !isGlobal va then none
      else
        match translate s s.me.core d s.strand.mode .fetch false va with
        | .error _ => none
        | .ok (l, s) =>
          let s := { s with mem := s.mem.writeN l.pa (bytesOfNat 2 p.toNat) }
          (s.withCore fun c => { c with icache := c.icache.filter fun e => e.1 != l.pa / 32 }).patchCode (va + 2) ps

/-- The machine runs these parcels next: at the pc of the executing strand when it can fetch there, else as a first
strand put into the machine. -/
def nextParcels (s : State) (ps : List Parcel) : State :=
  if s.strand.live then
    ((({ s with sched := [] }.dropBuffer s.me).modSync fun y => { y with insn := [] }).patchCode s.strand.pc ps).getD (s.placeCode ps)
  else s.placeCode ps

end State

end Sys2Proof.Machine
end

