-- ==== Sys2Proof/Machine/Moves.lean ====
section
/-! DEFINITION. One move of the machine: the turn that a step takes, and what the core, the event or the software that it
names does (entry 2). -/

namespace Sys2Proof.Machine

namespace State

/-- The turn that this step takes: the next of the schedule, or, when it is empty, the core of the strand that moved
last. -/
def begin (s : State) : State :=
  match s.sched with
  | t :: rest => { s with sched := rest, turn := t }
  | [] => { s with turn := { Turn.plain with act := .core s.me.core } }

/-- Nothing of the core's strands moves: an event that is ready there, or a host command that waits and can go on, or time
alone. -/
noncomputable def autoStep (s : State) (n : Nat) : Out :=
  match autoEvent s n with
  | some i => exec i s
  | none =>
    match (if s.mp.frozen then none else s.autoCommand) with
    | some (k, i) => exec i { s with turn := { s.turn with look := some k } }
    | none => .next s

/-- What the members of a troupe learn once one of them, in slot `k` of core `n`, has retired in `t` what it issued in `g`
(R45). Outside a troupe nothing changes. -/
def told (g t : State) (n k : Nat) : State :=
  if g.inTroupe then t.passed ⟨n, k⟩ g.pcf ⟨t.latch.target, (t.strandAt ⟨n, k⟩).pc⟩ else t

/-- Try the slots of a core in order: the first strand that issues or traps moves; one that holds has looked again at
what it waits for. -/
noncomputable def tryFrom (s : State) (n : Nat) : List Nat → Out
  | [] => s.autoStep n
  | k :: ks =>
    match s.prepare n k with
    | .idle s' => { s'.unissued n (s.coreAt n) with me := s.me }.tryFrom n ks
    | .move s' => .next s'
    | .run i s1 =>
      match exec i s1 with
      | .next t =>
        if (t.strandAt ⟨n, k⟩).sync.held then { t.unissued n (s.coreAt n) with me := s.me }.tryFrom n ks else .next (s1.told t n k)
      | o => o

/-- A core moves, and time passes on it. -/
noncomputable def coreStep (s : State) (n : Nat) : Out :=
  match s.tryFrom n (s.candidates n) with
  | .next t => .next (t.tick n)
  | o => o

/-- What the turn names moves. -/
noncomputable def moves (s : State) : Out :=
  match s.turn.act with
  | .core n => s.coreStep n
  | .event i => if s.mp.frozen && !runsFrozen i then .next s else exec i s
  | .leave w => .next (if s.mp.frozen then s else s.leaveSlot w)
  | .abort l n => .next (if s.mp.frozen then s else s.abortLaunch l n)
  | .redeliver w => .next (if s.mp.frozen then s else s.redeliver w)
  | .reroot v a => .next (if s.mp.frozen then s else s.reroot v a)

end State

end Sys2Proof.Machine
end

