-- ==== Sys2Proof/Machine/Step.lean ====
section
/-! DEFINITION. One step of the machine, and an instruction placed where the step fetches. -/

namespace Sys2Proof.Machine

/-- One step: take the turn, and move (entry 2). -/
noncomputable def step (s : State) : Host.Outcome State Fault Refusal := s.begin.moves

/-- The words of a table row as parcels, at the place from which the step fetches: the machine runs the instruction next
(entry 1). -/
def State.withFetchWord (s : State) (nbits w : Nat) : State := s.nextParcels (tableParcels nbits w)

end Sys2Proof.Machine
end

