-- ==== Sys2Proof/Safety.lean ====
section
/-! DEFINITION. The words that claims are stated in: what a safe run is, that an instruction completes, what retiring
does to the strand (R60, R380) and what trap entry does (R61), each written as the spec's own list of effects and not as the
machine's functions. -/

namespace Sys2Proof

/-- The machine can step from `s`. -/
def Runs (s : Machine.State) : Prop := ∃ t, Machine.step s = .next t

/-- The machine can take `n` steps from `s`. -/
def RunsFor : Nat → Machine.State → Prop
  | 0, _ => True
  | n + 1, s => ∃ t, Machine.step s = .next t ∧ RunsFor n t

namespace Machine

/-- Instruction `i` answers a next state, and `P` holds of it. -/
def Completes (i : Instr) (s : State) (P : State → Prop) : Prop := ∃ t, exec i s = .next t ∧ P t

/-- `t` is `m` but for the executing strand. -/
structure OnlyStrand (m t : State) : Prop where
  rest   : { t with strands := m.strands } = m
  others : ∀ k, k ≠ m.me.key → getK Strand.reset k t.strands = getK Strand.reset k m.strands

/-- The closing test of the mode's frame counts a pass for an instruction whose next PC is `nxt` (R380). -/
def ClosesPass (p : Strand) (nxt : Word) : Prop :=
  (p.frame p.mode).act = true ∧ (p.frame p.mode).start.toNat ≤ p.pc.toNat ∧ p.pc.toNat < (p.frame p.mode).stop.toNat
    ∧ nxt = (p.frame p.mode).stop

/-- The next PC lies in the body of the mode's frame. -/
def StaysInBody (p : Strand) (nxt : Word) : Prop :=
  (p.frame p.mode).start.toNat ≤ nxt.toNat ∧ nxt.toNat < (p.frame p.mode).stop.toNat

/-- The count register after a pass is counted; X[0] stays 0. -/
def countAfter (p : Strand) : Word :=
  if (p.frame p.mode).creg = 0 then 0 else p.getX (p.frame p.mode).creg - 1

/-- `t` is `m` with the executing instruction retired and `nxt` its next PC: INSTRET counts it (R60), the closing test is
made (R380), what the strand waited for is over, and nothing else changes. -/
structure Retires (m t : State) (nxt : Word) : Prop where
  only   : OnlyStrand m t
  csr    : t.strand.csr = { m.strand.csr with instret := m.strand.csr.instret + 1 }
  again  : ClosesPass m.strand nxt → countAfter m.strand ≠ 0 →
    t.strand.pc = (m.strand.frame m.strand.mode).start ∧
    t.strand.frame m.strand.mode =
      { m.strand.frame m.strand.mode with
        pass := if (m.strand.frame m.strand.mode).rep then (m.strand.frame m.strand.mode).pass + 1
          else (m.strand.frame m.strand.mode).pass }
  past   : ClosesPass m.strand nxt → countAfter m.strand = 0 →
    t.strand.pc = nxt ∧ t.strand.frame m.strand.mode = { m.strand.frame m.strand.mode with act := false }
  count  : ClosesPass m.strand nxt → ∀ r,
    t.x r = if r = (m.strand.frame m.strand.mode).creg then countAfter m.strand else m.x r
  on     : ¬ ClosesPass m.strand nxt → t.strand.pc = nxt ∧ ∀ r, t.x r = m.x r
  stays  : ¬ ClosesPass m.strand nxt → StaysInBody m.strand nxt →
    t.strand.frame m.strand.mode = m.strand.frame m.strand.mode
  leaves : ¬ ClosesPass m.strand nxt → ¬ StaysInBody m.strand nxt →
    t.strand.frame m.strand.mode = { m.strand.frame m.strand.mode with act := false }
  frames : ∀ md, md ≠ m.strand.mode → t.strand.frame md = m.strand.frame md
  sync   : t.strand.sync =
    { m.strand.sync with
      held := false, bounded := false, what := .other, began := false, waited := 0, insn := [], reply := none, watch := none }
  same   : { t.strand with
      x := m.strand.x, pc := m.strand.pc, csr := m.strand.csr, sync := m.strand.sync
      frameU := m.strand.frameU, frameS := m.strand.frameS, frameM := m.strand.frameM } = m.strand

/-- The next PC of an instruction that sets none: when an instruction begins, `latch.target` is none. -/
def fallsTo (s : State) : Word := s.latch.target.getD s.after

/-- Instruction `i` completes, its effect is to turn `s` into `m`, and it falls through. -/
def Does (i : Instr) (s m : State) : Prop := Completes i s fun t => Retires m t (fallsTo s)

/-- Instruction `i` completes, its effect is to turn `s` into `m`, and it sets the next PC to `pc`, or
leaves it there. -/
def Jumps (i : Instr) (s m : State) (pc : Word) : Prop :=
  Completes i s fun t => Retires { m with latch := t.latch } t pc

/-- What a trap saves and where it goes (R61): `saved` and `after` are the target's trap bank before and after it. -/
structure Entered (saved after : Bank) (pc : Word) (mode : Mode) (wide : Bool) (cause val : Word) : Prop where
  epc     : after.epc = pc
  cause   : after.cause = cause
  tval    : after.tval = val
  ie      : after.status.getLsbD 0 = false
  pie     : after.status.getLsbD 1 = saved.status.getLsbD 0
  prev    : field after.status 2 (if wide then 2 else 1) = mode.code % (if wide then 4 else 2)
  others  : { after with epc := saved.epc, cause := saved.cause, tval := saved.tval, status := saved.status } = saved

/-- Whether a synchronous trap of the executing strand is taken in M (R62). -/
def GoesToM (s : State) (cause : Nat) : Prop :=
  cause = 19 ∨ s.strand.mode = .M ∨ (s.strand.mode = .S ∧ s.strand.sBank.status.getLsbD 0 = false)

/-- `t` is `s` with a trap of the executing strand taken, into M or into S: the target's registers, the mode and the PC are
as R61 says, the other bank is as it was, and nothing has retired. -/
structure Trapped (s t : State) (toM : Prop) (cause val : Word) : Prop where
  me      : t.me = s.me
  inM     : toM → Entered s.strand.mBank t.strand.mBank s.strand.pc s.strand.mode true cause val ∧
    t.strand.mode = .M ∧ t.strand.pc = s.strand.mBank.tvec &&& ~~~1 ∧ t.strand.sBank = s.strand.sBank
  inS     : ¬ toM → Entered s.strand.sBank t.strand.sBank s.strand.pc s.strand.mode false cause val ∧
    t.strand.mode = .S ∧ t.strand.pc = s.strand.sBank.tvec &&& ~~~1 ∧ t.strand.mBank = s.strand.mBank
  instret : t.strand.csr.instret = s.strand.csr.instret
  held    : t.strand.sync.held = false
  frames  : ∀ md, t.strand.frame md = s.strand.frame md
  regs    : s.strand.inRegion = false → (∀ r, t.x r = s.x r) ∧ (∀ r, t.v r = s.v r)
  tiles   : ∀ r, t.b r = s.b r
  mem     : t.mem = s.mem

/-- Instruction `i` takes the synchronous trap with a cause, a value for SVAL or MVAL and flags that it raises first. -/
def Traps (i : Instr) (s : State) (cause : Nat) (val flags : Word) : Prop :=
  Completes i s fun t => Trapped s t (GoesToM s cause) (BitVec.ofNat 64 cause) val ∧
    t.strand.csr.fflags = s.strand.csr.fflags ||| flags

/-- Instruction `i` raises the flags `fl` and writes `w` to X[d]; a flag that FPC.TE enables traps instead with cause 16, the
flags raised and X[d] not written (R125). -/
def WritesX (i : Instr) (s : State) (d : XReg) (w fl : Word) : Prop :=
  (fl &&& s.te = 0 → Does i s ((s.raise fl).setX d w)) ∧ (fl &&& s.te ≠ 0 → Traps i s 16 (fl &&& s.te) fl)

/-- The same for V[d], given by its lanes of `n` bits. -/
def WritesV (i : Instr) (s : State) (d : VReg) (n : Nat) (f : Nat → Nat) (fl : Word) : Prop :=
  (fl &&& s.te = 0 → ∃ v : V256, (∀ j, j < 256 / n → lane v n j = f j) ∧ Does i s ((s.raise fl).setV d v)) ∧
  (fl &&& s.te ≠ 0 → Traps i s 16 (fl &&& s.te) fl)

/-- The union of flags over the active lanes. -/
def flagsOver (act : Nat → Bool) (n : Nat) (g : Nat → Word) : Word :=
  (List.range n).foldl (fun fl i => if act i then fl ||| g i else fl) 0

/-- A masked result (R436): the new lane where active, else 0 under Z, else the old lane. -/
def masked (s : State) (m : MaskMod) (old : V256) (n : Nat) (f : Nat → Nat) (i : Nat) : Nat :=
  if s.active m i then f i else if zeroing m then 0 else lane old n i

/-- Instruction `i` holds the strand where it stands (R7): nothing retires and nothing but the wait changes. -/
def Holds (i : Instr) (s : State) : Prop :=
  Completes i s fun t => OnlyStrand s t ∧ t.strand.sync.held = true ∧
    { t.strand with sync := s.strand.sync } = s.strand

/-- The encoding of a unary form (R98, R85): one parcel of major `maj` with function code `c` names A and B below 16; an RGX
before it extends them, and its d must equal A. -/
def UnaryEncoding (maj c : BitVec 4) (form : XReg → XReg → Instr) : Prop :=
  ∀ a b : BitVec 4,
    decodeParcels [maj ++ a ++ b ++ c] = some (form (0#1 ++ a) (0#1 ++ b), 1) ∧
    ∀ (ah bh : BitVec 1) (d : BitVec 5),
      decodeParcels [0b111101#6 ++ ah ++ bh ++ 0#1 ++ d ++ 0#2, maj ++ a ++ b ++ c] =
        if d = ah ++ a then some (form (ah ++ a) (bh ++ b), 2) else none

/-- What a step on core `n` makes of the answer `o` of the instruction that the first candidate issued in `g`: `b` is the state
at the begin of the step, `k` the strand's slot and `ks` the further candidates. A retired instruction or a trap ends the step:
the other members of a troupe learn of it, and time passes; when the strand holds, the next candidate is tried; a stop is the
step's own. -/
def Follows (b : State) (n k : Nat) (ks : List Nat) (g : State) (o r : Out) : Prop :=
  (∀ t, o = .next t → (t.strandAt ⟨n, k⟩).sync.held = false → r = .next ((g.told t n k).tick n)) ∧
  (∀ t, o = .next t → (t.strandAt ⟨n, k⟩).sync.held = true →
    r = match State.tryFrom { t.unissued n (b.coreAt n) with me := b.me } n ks with
      | .next u => .next (u.tick n)
      | stop => stop) ∧
  (∀ f, o = .fault f → r = .fault f) ∧ (∀ f, o = .refused f → r = .refused f)

/-- The strand in slot `k` of core `n` may issue: it is live, neither gated, stalled, halted nor surplus, its launch is
open, no asynchronous cause is due, and it fetches for itself. -/
def MayIssue (m : State) : Prop :=
  m.strand.live = true ∧ m.gated m.me.core = false ∧ m.turn.stall.contains m.me.slot = false ∧ m.doomed m.me = false ∧
  m.asyncDue = none ∧ m.strand.sync.halted = false ∧ ((m.launchOf m.me).any fun l => l.open_) = true ∧
  (m.strand.troupe.size = 0 ∨ m.strand.sync.joinN.isSome = true)

/-- Memory and every core's LM, host memory as the model sees it: each in canonical form. -/
def Canonical (s : State) : Prop :=
  s.mem.wf = true ∧ s.host.mem.wf = true ∧ ∀ p ∈ s.cores, p.2.lm.wf = true

end Machine

end Sys2Proof
end

