-- ==== Sys2Proof/Certificates/Slice0/Obligations.lean ====
section
/-! DEFINITION. The statements that provers settle. Each says for every state, reached or not, what an instruction, an event
or the whole machine does. `Does i s m` says that `i` completes from `s`: `exec` answers a next state, which is `m` (the state `s`
with the named effect and nothing else) with the instruction retired (`Retires`); so each is a completion statement, a
result statement and a frame in one. -/

open Sys2Proof Sys2Proof.Machine

/-! ## Integer instructions -/

/-- R330, R331, R423, R390, R418, R336, R394, R479: the register forms write one function of X[A] and X[B] to X[D] and
change nothing else; a destination X[0] discards the write, as `setX` does (see `Obligations.RegisterWrites`). -/
def Obligations.IntegerRegisterForms : Prop :=
  ∀ (s : State) (a b d : XReg),
    Does (.add a b d) s (s.setX d (BitVec.ofInt 64 ((s.x a).toInt + (s.x b).toInt))) ∧
    Does (.sub a b d) s (s.setX d (BitVec.ofInt 64 ((s.x a).toInt - (s.x b).toInt))) ∧
    Does (.mul a b d) s (s.setX d (BitVec.ofInt 64 ((s.x a).toInt * (s.x b).toInt))) ∧
    Does (.mulh a b d) s (s.setX d (BitVec.ofInt 64 ((s.x a).toInt * (s.x b).toInt / 2 ^ 64))) ∧
    Does (.mulhu a b d) s (s.setX d (BitVec.ofNat 64 ((s.x a).toNat * (s.x b).toNat / 2 ^ 64))) ∧
    Does (.and a b d) s (s.setX d (s.x a &&& s.x b)) ∧
    Does (.or a b d) s (s.setX d (s.x a ||| s.x b)) ∧
    Does (.xor a b d) s (s.setX d (s.x a ^^^ s.x b)) ∧
    Does (.sll a b d) s (s.setX d (BitVec.ofNat 64 ((s.x a).toNat * 2 ^ ((s.x b).toNat % 64)))) ∧
    Does (.srl a b d) s (s.setX d (BitVec.ofNat 64 ((s.x a).toNat / 2 ^ ((s.x b).toNat % 64)))) ∧
    Does (.sra a b d) s (s.setX d (BitVec.ofInt 64 ((s.x a).toInt / 2 ^ ((s.x b).toNat % 64))))

/-- R359: quotient and remainder, with the two corners the spec names; n is X[A], q is X[B]. -/
def Obligations.DivisionForms : Prop :=
  ∀ (s : State) (a b d : XReg),
    (s.x b = 0 →
      Does (.div a b d) s (s.setX d (BitVec.allOnes 64)) ∧ Does (.divu a b d) s (s.setX d (BitVec.allOnes 64)) ∧
      Does (.rem a b d) s (s.setX d (s.x a)) ∧ Does (.remu a b d) s (s.setX d (s.x a))) ∧
    (s.x a = BitVec.intMin 64 → s.x b = BitVec.allOnes 64 →
      Does (.div a b d) s (s.setX d (BitVec.intMin 64)) ∧ Does (.rem a b d) s (s.setX d 0)) ∧
    (s.x b ≠ 0 → ¬ (s.x a = BitVec.intMin 64 ∧ s.x b = BitVec.allOnes 64) →
      ∃ quo rem : Word,
        (s.x a).toInt = quo.toInt * (s.x b).toInt + rem.toInt ∧ rem.toInt.natAbs < (s.x b).toInt.natAbs ∧
        0 ≤ rem.toInt * (s.x a).toInt ∧
        Does (.div a b d) s (s.setX d quo) ∧ Does (.rem a b d) s (s.setX d rem)) ∧
    (s.x b ≠ 0 →
      ∃ quo rem : Word,
        (s.x a).toNat = quo.toNat * (s.x b).toNat + rem.toNat ∧ rem.toNat < (s.x b).toNat ∧
        Does (.divu a b d) s (s.setX d quo) ∧ Does (.remu a b d) s (s.setX d rem))

/-- R413, R384, R355: comparisons, smaller and larger, and the conditional selects. -/
def Obligations.CompareAndSelectForms : Prop :=
  ∀ (s : State) (a b d : XReg),
    Does (.slt a b d) s (s.setX d (if (s.x a).toInt < (s.x b).toInt then 1 else 0)) ∧
    Does (.sltu a b d) s (s.setX d (if (s.x a).toNat < (s.x b).toNat then 1 else 0)) ∧
    Does (.seq a b d) s (s.setX d (if s.x a = s.x b then 1 else 0)) ∧
    Does (.sne a b d) s (s.setX d (if s.x a = s.x b then 0 else 1)) ∧
    Does (.min a b d) s (s.setX d (if (s.x a).toInt ≤ (s.x b).toInt then s.x a else s.x b)) ∧
    Does (.max a b d) s (s.setX d (if (s.x a).toInt ≤ (s.x b).toInt then s.x b else s.x a)) ∧
    Does (.minu a b d) s (s.setX d (if (s.x a).toNat ≤ (s.x b).toNat then s.x a else s.x b)) ∧
    Does (.maxu a b d) s (s.setX d (if (s.x a).toNat ≤ (s.x b).toNat then s.x b else s.x a)) ∧
    Does (.cselZ a b d) s (s.setX d (if s.x b = 0 then s.x a else s.x d)) ∧
    Does (.cselNz a b d) s (s.setX d (if s.x b = 0 then s.x d else s.x a))

/-- R354: `op xa, xb` is 0x1abc with c = 10 to 13, an RGX's d equal to A; each count is given by what it counts, and the rule's
examples follow.

R386: bit 3i + j of the result of `mort3` is bit i of the j-th coordinate shifted right by the shift, for each coordinate of
21 bits and i up to 20 less the shift; every other bit is 0. -/
def Obligations.BitCountingForms : Prop :=
  UnaryEncoding 1 10 .clz ∧ UnaryEncoding 1 11 .ctz ∧ UnaryEncoding 1 12 .popc ∧ UnaryEncoding 1 13 .rev8 ∧
  decodeParcels [0x156A] = some (.clz 5 6, 1) ∧ decodeParcels [0x156C] = some (.popc 5 6, 1) ∧
  (∀ s : State, s.x 6 = 0x0000_0000_00F0_0100 →
    Does (.clz 5 6) s (s.setX 5 40) ∧ Does (.ctz 5 6) s (s.setX 5 8) ∧ Does (.popc 5 6) s (s.setX 5 5) ∧
    Does (.rev8 5 6) s (s.setX 5 0x0001_F000_0000_0000)) ∧
  (∀ (s : State) (a d : XReg) (k : BitVec 5), k.toNat ≤ 20 →
    ∃ w : Word,
      (∀ i j, i < 21 → j < 3 →
        w.getLsbD (3 * i + j) = (decide (i + k.toNat < 21) && (s.x a).getLsbD (21 * j + i + k.toNat))) ∧
      w.getLsbD 63 = false ∧
      Does (.mort3 a d k) s (s.setX d w)) ∧
  ∀ (s : State) (a b : XReg),
    (∃ n, n ≤ 64 ∧ (∀ i, i < n → (s.x b).getLsbD (63 - i) = false) ∧ (n < 64 → (s.x b).getLsbD (63 - n) = true) ∧
      Does (.clz a b) s (s.setX a (BitVec.ofNat 64 n))) ∧
    (∃ n, n ≤ 64 ∧ (∀ i, i < n → (s.x b).getLsbD i = false) ∧ (n < 64 → (s.x b).getLsbD n = true) ∧
      Does (.ctz a b) s (s.setX a (BitVec.ofNat 64 n))) ∧
    Does (.popc a b) s (s.setX a (BitVec.ofNat 64 ((List.range 64).filter fun i => (s.x b).getLsbD i).length)) ∧
    (∃ w : Word, (∀ i, i < 8 → w.extractLsb' (8 * i) 8 = (s.x b).extractLsb' (8 * (7 - i)) 8) ∧
      Does (.rev8 a b) s (s.setX a w))

/-- R414: `sext.w xa, xb` is 0x1abE and `zext.w xa, xb` is 0x1abF, unary forms whose RGX d must equal A; `sext.w` computes
X[A] ← SignExtend(X[B][31:0], 32) and `zext.w` the zero extension; the two example parcels of the rule decode to
`sext.w x5, x6` and `zext.w x5, x6`, and the values of its example follow. -/
def Obligations.SextAndZext : Prop :=
  (∀ (s : State) (a b : XReg),
    Does (.sextW a b) s (s.setX a (BitVec.ofInt 64 ((s.x b).extractLsb' 0 32).toInt)) ∧
    Does (.zextW a b) s (s.setX a (BitVec.ofNat 64 ((s.x b).toNat % 2 ^ 32)))) ∧
  decodeTableWord 16 0x156E = some (.sextW 5 6) ∧ decodeTableWord 16 0x156F = some (.zextW 5 6) ∧
  UnaryEncoding 1 14 .sextW ∧ UnaryEncoding 1 15 .zextW ∧
  ∀ s : State, s.x 6 = 0x0000_0000_8000_0001 →
    Does (.sextW 5 6) s (s.setX 5 0xFFFF_FFFF_8000_0001) ∧ Does (.zextW 5 6) s (s.setX 5 0x0000_0000_8000_0001)

/-- R336: `and xa, xb` is 0x0ab2 and `andi xa, imm` is 0x2a1c; an RGX before either adds the destination d, and IMX extend the
signed immediate; the three example parcels of the rule; and what each computes. -/
def Obligations.AndForms : Prop :=
  (∀ (s : State) (a b d : XReg) (imm : BitVec 24),
    Does (.and a b d) s (s.setX d (s.x a &&& s.x b)) ∧
    Does (.andi a d imm) s (s.setX d (s.x a &&& BitVec.ofInt 64 imm.toInt))) ∧
  (∀ (a b c : BitVec 4) (ah bh : BitVec 1) (d : BitVec 5) (i j : BitVec 10),
    let rgx : Parcel := 0b111101#6 ++ ah ++ bh ++ 0#1 ++ d ++ 0#2
    decodeParcels [0x0#4 ++ a ++ b ++ 0x2#4] = some (.and (0#1 ++ a) (0#1 ++ b) (0#1 ++ a), 1) ∧
    decodeParcels [rgx, 0x0#4 ++ a ++ b ++ 0x2#4] = some (.and (ah ++ a) (bh ++ b) d, 2) ∧
    decodeParcels [0x2#4 ++ a ++ 0x1#4 ++ c] = some (.andi (0#1 ++ a) (0#1 ++ a) (BitVec.ofInt 24 c.toInt), 1) ∧
    decodeParcels [0xF#4 ++ 0#2 ++ i, 0x2#4 ++ a ++ 0x1#4 ++ c] =
      some (.andi (0#1 ++ a) (0#1 ++ a) (BitVec.ofInt 24 (i ++ c).toInt), 2) ∧
    decodeParcels [0xF#4 ++ 0#2 ++ i, 0xF#4 ++ 0#2 ++ j, 0x2#4 ++ a ++ 0x1#4 ++ c] =
      some (.andi (0#1 ++ a) (0#1 ++ a) (i ++ j ++ c), 3) ∧
    decodeParcels [0b111101#6 ++ ah ++ 0#2 ++ d ++ 0#2, 0x2#4 ++ a ++ 0x1#4 ++ c] =
      some (.andi (ah ++ a) d (BitVec.ofInt 24 c.toInt), 2)) ∧
  decodeParcels [0x0562] = some (.and 5 6 5, 1) ∧ decodeParcels [0xF00F, 0x251F] = some (.andi 5 5 255, 2) ∧
  decodeParcels [0xF3FF, 0x2510] = some (.andi 5 5 (-16), 2)

/-- R331, R336, R394, R479, R390, R418, R413, R384, R378, R373: the immediate forms. The immediate stands for its signed value,
but for `lsi`, whose immediate is unsigned. -/
def Obligations.ImmediateForms : Prop :=
  ∀ (s : State) (a d : XReg) (imm : BitVec 24) (k : BitVec 6) (off : BitVec 28),
    Does (.addi a d imm) s (s.setX d (BitVec.ofInt 64 ((s.x a).toInt + imm.toInt))) ∧
    Does (.muli a d imm) s (s.setX d (BitVec.ofInt 64 ((s.x a).toInt * imm.toInt))) ∧
    Does (.andi a d imm) s (s.setX d (s.x a &&& BitVec.ofInt 64 imm.toInt)) ∧
    Does (.ori a d imm) s (s.setX d (s.x a ||| BitVec.ofInt 64 imm.toInt)) ∧
    Does (.xori a d imm) s (s.setX d (s.x a ^^^ BitVec.ofInt 64 imm.toInt)) ∧
    Does (.slli a d k) s (s.setX d (BitVec.ofNat 64 ((s.x a).toNat * 2 ^ k.toNat))) ∧
    Does (.srli a d k) s (s.setX d (BitVec.ofNat 64 ((s.x a).toNat / 2 ^ k.toNat))) ∧
    Does (.srai a d k) s (s.setX d (BitVec.ofInt 64 ((s.x a).toInt / 2 ^ k.toNat))) ∧
    Does (.slti a d imm) s (s.setX d (if (s.x a).toInt < imm.toInt then 1 else 0)) ∧
    Does (.sltiu a d imm) s (s.setX d (if (s.x a).toNat < (BitVec.ofInt 64 imm.toInt).toNat then 1 else 0)) ∧
    Does (.seqi a d imm) s (s.setX d (if (s.x a).toInt = imm.toInt then 1 else 0)) ∧
    Does (.mini a d imm) s (s.setX d (BitVec.ofInt 64 (min (s.x a).toInt imm.toInt))) ∧
    Does (.maxi a d imm) s (s.setX d (BitVec.ofInt 64 (max (s.x a).toInt imm.toInt))) ∧
    Does (.li a imm) s (s.setX a (BitVec.ofInt 64 imm.toInt)) ∧
    Does (.lsi a d imm) s (s.setX d (BitVec.ofNat 64 ((s.x a).toNat * 2 ^ 24 + imm.toNat))) ∧
    Does (.la a off) s (s.setX a (BitVec.ofInt 64 ((s.strand.pc).toInt + off.toInt))) ∧
    Does .nop s s

/-- R7, R12: a write of a register reads back, a write of X[0] is discarded and X[0] reads 0, and no other register, vector
register, bit tile, core, memory byte or strand changes. -/
def Obligations.RegisterWrites : Prop :=
  ∀ (s : State) (w : Word) (v : V256),
    (∀ d r : XReg, (s.setX d w).x r = if r = 0 then 0 else if r = d then w else s.x r) ∧
    (∀ d r : VReg, (s.setV d v).v r = if r = d then v else s.v r) ∧
    (∀ d r : BReg, (s.setB d v).b r = if r = d then v else s.b r) ∧
    (∀ (d : XReg) (r : VReg) (q : BReg), (s.setX d w).v r = s.v r ∧ (s.setX d w).b q = s.b q) ∧
    (∀ (d : VReg) (r : XReg) (q : BReg), (s.setV d v).x r = s.x r ∧ (s.setV d v).b q = s.b q) ∧
    (∀ (d : BReg) (r : XReg) (q : VReg), (s.setB d v).x r = s.x r ∧ (s.setB d v).v q = s.v q) ∧
    (∀ d, OnlyStrand s (s.setX d w)) ∧ (∀ d, OnlyStrand s (s.setV d v)) ∧ ∀ d, OnlyStrand s (s.setB d v)

/-! ## Control -/

/-- R340, R344, R371, R372: a taken branch goes to PCF + 2 × imm, one not taken falls through, and a jump writes the address
after it to X[A], `jalr` having read X[B] before; none changes anything else. -/
def Obligations.BranchesAndJumps : Prop :=
  ∀ (s : State) (a b : XReg) (o28 : BitVec 28) (o24 : BitVec 24) (o20 : BitVec 20),
    let dest (c : Bool) (off : Int) : Word := if c then BitVec.ofInt 64 (s.strand.pc.toInt + 2 * off) else fallsTo s
    Jumps (.bz a o28) s s (dest (s.x a == 0) o28.toInt) ∧
    Jumps (.bnz a o28) s s (dest (s.x a != 0) o28.toInt) ∧
    Jumps (.beq a b o20) s s (dest (s.x a == s.x b) o20.toInt) ∧
    Jumps (.bne a b o20) s s (dest (s.x a != s.x b) o20.toInt) ∧
    Jumps (.blt a b o20) s s (dest (decide ((s.x a).toInt < (s.x b).toInt)) o20.toInt) ∧
    Jumps (.bge a b o20) s s (dest (decide ((s.x b).toInt ≤ (s.x a).toInt)) o20.toInt) ∧
    Jumps (.bltu a b o20) s s (dest (decide ((s.x a).toNat < (s.x b).toNat)) o20.toInt) ∧
    Jumps (.bgeu a b o20) s s (dest (decide ((s.x b).toNat ≤ (s.x a).toNat)) o20.toInt) ∧
    Jumps (.jal a o28) s (s.setX a s.after) (dest true o28.toInt) ∧
    Jumps (.jalr a b o24) s (s.setX a s.after) (BitVec.ofInt 64 ((s.x b).toInt + 2 * o24.toInt) &&& ~~~1)

/-- R416, R417, R93: a skip whose condition fails falls through; one that holds goes to the address after the `n` whole
instructions behind it, which it reads there (`t` is the state with the fetches made).

R380, R403: with the mode's frame free and the body readable, `loop` goes past the body when the count is 0 and else
sets the frame; `rep` does the same with its stride and the body in the core's repetition buffer; with the frame active both trap
with cause 1. -/
def Obligations.SkipAndLoopForms : Prop :=
  (∀ (s : State) (a : XReg) (n : BitVec 4),
    let skips (i : Instr) (c : Prop) : Prop :=
      (¬ c → Does i s s) ∧
        (c → ∀ p t, spanFrom s s.after [] n.toNat = .ok p t → Jumps i s t p.1) ∧
        (c → ∀ cause val f, spanFrom s s.after [] n.toNat = .trap cause val f → Traps i s cause val f)
    skips (.skipZ a n) (s.x a = 0) ∧ skips (.skipNz a n) (s.x a ≠ 0) ∧
      skips (.skipLt a n) ((s.x a).toInt < 0) ∧ skips (.skipGe a n) (0 ≤ (s.x a).toInt)) ∧
  (∀ (s : State) (a : XReg) (n str : BitVec 4) (e : Word) (l : List (Word × List Parcel)) (t : State),
    ((s.strand.frame s.strand.mode).act = true →
      Traps (.loop a n) s 1 s.latch.first 0 ∧ Traps (.rep a n str) s 1 s.latch.first 0) ∧
    ((s.strand.frame s.strand.mode).act = false → spanFrom s s.after [] n.toNat = .ok (e, l) t →
      (s.x a = 0 → Jumps (.loop a n) s t e) ∧
      (s.x a ≠ 0 → Does (.loop a n) s (t.withStrand fun p =>
        p.setFrame p.mode ⟨true, false, a, 0, 0, s.after &&& 0xFFFF_FFFF_FFFE, e &&& 0xFFFF_FFFF_FFFE⟩))) ∧
    ((s.strand.frame s.strand.mode).act = false → s.repBody s.after [] n.toNat = .ok (e, l) t →
      (s.x a = 0 → Jumps (.rep a n str) s t e) ∧
      (s.x a ≠ 0 → Does (.rep a n str) s ((t.withStrand fun p =>
        p.setFrame p.mode ⟨true, true, a, str, 0, s.after &&& 0xFFFF_FFFF_FFFE, e &&& 0xFFFF_FFFF_FFFE⟩).withCore fun c =>
          { c with rbuf := some (t.me.slot, l) }))))

/-- R356 to R358: a listed CSR that the mode may read is read, and one that it may write takes what the form writes, with
the reserved and the read-only bits as `csrWrite` has them; the destination gets the value before the write.

R57, R58: a CSR number above the mode, and a number of none, traps with cause 1 and SVAL the first four parcels, outside
a step-mode compute phase, whatever the form. That a `csrw` of INSTRET in S or M counts its own retirement on top of the
value written is the model's (entry 20). -/
def Obligations.CsrForms : Prop :=
  (∀ (s : State) (a d : XReg) (csr : BitVec 14) (old : Word),
    csrRead s csr.toNat = some old → csr.toNat / 4096 ≤ s.strand.mode.code → s.computePhase = false →
      Does (.csrr a csr) s (s.setX a old) ∧
      (csrRo s.strand.mode csr.toNat = false →
        Does (.csrw a csr) s (csrWrite s csr.toNat (s.x a)) ∧
        Does (.csrs a csr) s (csrWrite s csr.toNat (old ||| s.x a)) ∧
        Does (.csrc a csr) s (csrWrite s csr.toNat (old &&& ~~~(s.x a))) ∧
        Does (.csrx a d csr) s ((csrWrite s csr.toNat (s.x a)).setX d old)) ∧
      (csrRo s.strand.mode csr.toNat = true →
        Traps (.csrw a csr) s 1 s.latch.first 0 ∧ Traps (.csrs a csr) s 1 s.latch.first 0 ∧
        Traps (.csrc a csr) s 1 s.latch.first 0 ∧ Traps (.csrx a d csr) s 1 s.latch.first 0)) ∧
  (∀ (s : State) (a d : XReg) (csr : BitVec 14),
    s.computePhase = false → (s.strand.mode.code < csr.toNat / 4096 ∨ csrRead s csr.toNat = none) →
      Traps (.csrr a csr) s 1 s.latch.first 0 ∧ Traps (.csrw a csr) s 1 s.latch.first 0 ∧
      Traps (.csrs a csr) s 1 s.latch.first 0 ∧ Traps (.csrc a csr) s 1 s.latch.first 0 ∧
      Traps (.csrx a d csr) s 1 s.latch.first 0)

/-- R59, R60, R61, R62, R79, R124, R125, R219, R228, R256: what a CSR read gives, for every number that R59 lists, and what a
write keeps of the value written: reserved bits are 0, and a reserved STATE or MPP leaves the field as it was. A write changes
the strand alone, but for TOWN and QBIND. -/
def Obligations.CsrValues : Prop :=
  ∀ (s : State) (w : Word),
    let r := s.strand.csr
    let id := BitVec.ofNat 64 (s.me.slot + 2 ^ 2 * inField s.me.core + 2 ^ 10 * (fieldOf s.me.core % 8) + 2 ^ 13 * dieOf s.me.core
      + 2 ^ 15 * s.mp.module)
    let bank (n : Nat) (b : State → Bank) (status : Word) (kept : Word) : Prop :=
      csrRead s n = some (b s).tvec ∧ csrRead s (n + 1) = some (b s).epc ∧ csrRead s (n + 2) = some (b s).cause ∧
      csrRead s (n + 3) = some (b s).tval ∧ csrRead s (n + 4) = some status ∧ csrRead s (n + 5) = some (b s).scratch ∧
      b (csrWrite s n w) = { b s with tvec := w } ∧ b (csrWrite s (n + 1) w) = { b s with epc := w } ∧
      b (csrWrite s (n + 2) w) = { b s with cause := w } ∧ b (csrWrite s (n + 3) w) = { b s with tval := w } ∧
      b (csrWrite s (n + 4) w) = { b s with status := kept } ∧ b (csrWrite s (n + 5) w) = { b s with scratch := w }
    (csrRead s 0x00 = some r.fpc ∧ csrRead s 0x01 = some r.fflags ∧ csrRead s 0x02 = some s.core.cycle ∧
      csrRead s 0x03 = some r.instret ∧ csrRead s 0x10 = some id ∧ csrRead s 0x11 = some r.pcoord ∧
      csrRead s 0x12 = some r.member ∧ csrRead s 0x13 = some r.stage ∧ csrRead s 0x14 = some r.launch ∧
      csrRead s 0x15 = some r.shapep ∧ csrRead s 0x20 = some r.issuepol ∧ csrRead s 0x21 = some r.bto ∧
      (∀ q, q < 8 → csrRead s (0x22 + q) = some (vgetN r.qbind q)) ∧
      csrRead s 0x30 = some r.rgs ∧ csrRead s 0x31 = some r.rgspc ∧ csrRead s 0x32 = some r.rngkeylo ∧
      csrRead s 0x33 = some r.rngkeyhi ∧ csrRead s 0x34 = some r.rngmode ∧ csrRead s 0x35 = some r.rngtab ∧
      csrRead s 0x40 = some s.core.town ∧
      ∀ t, t < 8 → csrRead s (0x41 + t) = some (BitVec.ofNat 64 (vgetN s.core.tcfg t).toNat)) ∧
    ((csrWrite s 0x01 w).strand.csr.fflags = w &&& 0x1F ∧
      (w.toNat % 8 ≤ 4 → (csrWrite s 0x00 w).strand.csr.fpc = w &&& 0x7FF) ∧
      (csrWrite s 0x03 w).strand.csr.instret = w ∧ (csrWrite s 0x20 w).strand.csr.issuepol = w &&& 1 ∧
      (csrWrite s 0x21 w).strand.csr.bto = w ∧ (csrWrite s 0x31 w).strand.csr.rgspc = w &&& 0xFFFF_FFFF_FFFF ∧
      (csrWrite s 0x32 w).strand.csr.rngkeylo = w &&& 0xFFFF_FFFF ∧ (csrWrite s 0x33 w).strand.csr.rngkeyhi = w &&& 0xFFFF_FFFF ∧
      (csrWrite s 0x34 w).strand.csr.rngmode = w &&& 7 ∧ (csrWrite s 0x35 w).strand.csr.rngtab = w &&& 0xFFF0 ∧
      (csrWrite s 0x40 w).core.town = w &&& 0x0FFF_FFFF_FFFF_FFFF ∧
      (rgsState w ≤ 4 → (csrWrite s 0x30 w).strand.csr.rgs = w) ∧
      (4 < rgsState w → ∃ g : Word, (csrWrite s 0x30 w).strand.csr.rgs = g ∧ rgsState g = rgsState r.rgs ∧ field g 3 61 = field w 3 61) ∧
      ∀ n, n < 0x1000 → OnlyStrand s (csrWrite s n w) ∨ ((csrWrite s n w).strands = s.strands ∧ (csrWrite s n w).mem = s.mem)
        ∨ (0x22 ≤ n ∧ n ≤ 0x29)) ∧
    bank 0x1000 (fun t => t.strand.sBank)
      (BitVec.ofNat 64 ((s.strand.sBank.status &&& ~~~8).toNat + if s.strand.preq.isSome then 8 else 0)) (w &&& 7) ∧
    (∀ kept : Word, kept = (if field w 2 2 = 3 then (w &&& 3) ||| (s.strand.mBank.status &&& 0xC) else w &&& 0xF) →
      bank 0x2000 (fun t => t.strand.mBank) s.strand.mBank.status kept) ∧
    (∀ n, 0x1000 ≤ n → n < 0x3000 → OnlyStrand s (csrWrite s n w))

/-- R429, R341: `trap` takes cause 18 and `brk` cause 17, in every mode, SVAL the zero-extended immediate; the entry is the
instruction's effect. -/
def Obligations.TrapAndBrk : Prop :=
  ∀ (s : State) (imm : BitVec 28),
    Traps (.trap imm) s 18 (BitVec.ofNat 64 imm.toNat) 0 ∧ Traps (.brk imm) s 17 (BitVec.ofNat 64 imm.toNat) 0

/-- R61, R62: trap entry, for every cause, value and set of flags raised: the saved PC, cause and value, the previous mode and
the interrupt-enable pair, the new mode and the target address, into S or into M. -/
def Obligations.TrapEntry : Prop :=
  ∀ (s : State) (cause : Nat) (val flags : Word),
    Trapped s (s.takeSync cause val flags) (GoesToM s cause) (BitVec.ofNat 64 cause) val ∧
    ∀ toM : Bool, Trapped s (s.takeAsync cause val toM) (toM = true) (BitVec.ofNat 64 (2 ^ 63 + cause)) val

/-- R61, R247, R406: `rti` in S and in M: the PC is the saved PC, but RGSPC when it returns to U in a suspended region; the mode
is the previous mode; IE takes PIE and PIE is set; and in U with a region open a pending pre-emption request is taken at
once. In U it traps with cause 1. In M the reserved previous mode has no meaning:
it stops under the name of its own, in states that no write reaches. The stop is the model's (entry 64), and so is that
the core's repetition buffer gives up what it holds of the strand (entry 42). -/
def Obligations.ReturnFromTrap : Prop :=
  ∀ (s : State),
    let dropped (v : State) : State := v.withCore fun c => { c with rbuf := c.rbuf.filter fun e => e.1 != s.me.slot }
    let ends (m : Mode) (v t : State) : Prop :=
      let asked := m = .U ∧ s.strand.region.opened = true ∧ s.strand.preq.isSome = true
      (¬ asked → t = dropped v) ∧ (asked → t = (dropped v).preemptNow s.me (BitVec.allOnes 64))
    (s.strand.mode = .U → Traps .rti s 1 s.latch.first 0) ∧
    (∀ m, s.strand.mode = .S → field s.strand.sBank.status 2 1 = m.code →
      Completes .rti s fun t => ∃ r v bk,
        Retires { s with latch := r.latch } r
          (if m = .U ∧ (rgsState s.strand.csr.rgs = 2 ∨ rgsState s.strand.csr.rgs = 3) then s.strand.csr.rgspc
            else s.strand.sBank.epc) ∧
        OnlyStrand r v ∧ v.strand = { r.strand with sBank := bk, mode := m } ∧ ends m v t ∧
        bk.status.getLsbD 0 = s.strand.sBank.status.getLsbD 1 ∧ bk.status.getLsbD 1 = true ∧
        { bk with status := s.strand.sBank.status } = s.strand.sBank) ∧
    (∀ m, s.strand.mode = .M → field s.strand.mBank.status 2 2 = m.code →
      Completes .rti s fun t => ∃ r v bk,
        Retires { s with latch := r.latch } r
          (if m = .U ∧ (rgsState s.strand.csr.rgs = 2 ∨ rgsState s.strand.csr.rgs = 3) then s.strand.csr.rgspc
            else s.strand.mBank.epc) ∧
        OnlyStrand r v ∧ v.strand = { r.strand with mBank := bk, mode := m } ∧ ends m v t ∧
        bk.status.getLsbD 0 = s.strand.mBank.status.getLsbD 1 ∧ bk.status.getLsbD 1 = true ∧
        { bk with status := s.strand.mBank.status } = s.strand.mBank) ∧
    (s.strand.mode = .M → field s.strand.mBank.status 2 2 = 3 → exec .rti s = .fault .reservedMode)

/-- R366, R367, R292, R369, R370, R70, R407: the fences, `yield`, `halt`, `idle` and `safe` outside an open region. A fence
completes when the actions of its scope do (`t` is the state they leave); with a pre-emption request pending in U outside step
mode, `safe n` retires and makes asynchronous cause 1 with value n due at the next boundary, and `halt` with value all
ones. That a pending request ends `idle` outside U too is the model's (entry 35).

R367: `fence.i` drains what the strand holds in the combining buffer, writes its L1 back, waits for its earlier accesses, and
leaves neither the core's instruction cache nor what it holds of the strand's `rep` body.

R292: `yield` retires and moves the strand's slot to the back of its core's issue order, in every mode and region state;
every register of every strand, memory and the other cores stay. -/
def Obligations.SystemForms : Prop :=
  (∀ (s : State), s.strand.inRegion = false →
    (∀ (sc : BitVec 3) t, s.fenceAt sc.toNat = .ok () t → Completes (.fence sc) s fun u => Retires t u (fallsTo t)) ∧
    (∀ t, ((s.drainW s.me.core fun l => l.by_ == s.rankAt s.me).writeBackAll s.me.core).releaseAction 3 = .ok () t →
      Completes .fenceI s fun u => Retires (t.withCore fun c =>
        { c with icache := [], rbuf := c.rbuf.filter fun e => e.1 != t.me.slot }) u (fallsTo t)) ∧
    (s.strand.causes ≠ [] ∨ s.strand.sPend ≠ [] ∨ s.strand.preq.isSome = true → Does .idle s s) ∧
    (s.strand.causes = [] → s.strand.sPend = [] → s.strand.preq = none → Holds .idle s) ∧
    (s.strand.preq = none ∨ s.strand.mode ≠ .U ∨ s.stepMode = true →
      Completes .halt s fun t => ∃ r, Retires s r (fallsTo s) ∧ OnlyStrand r t ∧
        t.strand = { r.strand with sync := { r.strand.sync with halted := true } }) ∧
    (s.strand.preq.isSome = true → s.strand.mode = .U → s.stepMode = false → s.strand.troupe.size = 0 →
      s.strand.causes = [] → Completes .halt s fun t =>
        ((1, BitVec.allOnes 64) : Nat × Word) ∈ t.strand.causes ∧ t.strand.csr.instret = s.strand.csr.instret + 1) ∧
    (∀ n : BitVec 16, s.strand.preq = none → (s.leads && s.troupeAsked) = false → Does (.safe n) s s) ∧
    (∀ n : BitVec 16, s.strand.mode ≠ .U ∨ s.stepMode = true → Does (.safe n) s s) ∧
    (∀ n : BitVec 16, s.strand.preq.isSome = true → s.strand.mode = .U → s.stepMode = false → s.strand.troupe.size = 0 →
      s.strand.causes = [] →
      Completes (.safe n) s fun t =>
        (1, BitVec.ofNat 64 n.toNat) ∈ t.strand.causes ∧ t.strand.csr.instret = s.strand.csr.instret + 1)) ∧
  (∀ (s : State),
    Completes .yield s fun t => ∃ m : State, Retires m t (fallsTo s) ∧ m.me = s.me ∧ m.strands = s.strands ∧ m.mem = s.mem ∧
      m.core = { s.core with order := s.core.order.erase s.me.slot ++ [s.me.slot], recent := none, run := 0 } ∧
      ∀ n, n ≠ s.me.core → m.coreAt n = s.coreAt n)

/-! ## Scalar memory accesses -/

/-- R376, R409: outside the engine window a load that may be made writes X[A] with the bytes it brings, extended as its form
says, and a store that may be made writes the low bytes of X[A]; `t` is the state that the access itself leaves.

R176, R63: a scalar access whose address is no multiple of its size traps with cause 2, SVAL the address, whether the address
is of an LM, of the engine window or global; with a region open, one to a page that the region may not touch traps with
cause 11 before (R65).

R57, R75, R187, R301, R345, R376, R381, R409: in the engine window a load brings the bytes of the image that stands there for the
mode, then makes the acquire of its order (`t`), and `sd` writes an image after the release of its order; a narrower store,
and an access where no image stands, as everywhere in U, traps with cause 7. The images hold each slot's count of held
records, a held record's words, the copy engine's active and shadow sets and each slot's loop frames; a 0 written to a
count drops the records, and a register of a set and a frame keep no reserved bit. -/
def Obligations.LoadsAndStores : Prop :=
  (∀ (s t : State) (a b : XReg) (imm : BitVec 20) (mm : MemMod) (bs : List Byte),
    isWindow (s.x b + BitVec.ofInt 64 imm.toInt) = false →
    let va := s.x b + BitVec.ofInt 64 imm.toInt
    let signed (n : Nat) : Word := BitVec.ofInt 64 (BitVec.ofNat (8 * n) (natOfBytes bs)).toInt
    let plain : Word := BitVec.ofNat 64 (natOfBytes bs)
    let loads (i : Instr) (n : Nat) (w : Word) : Prop :=
      s.loadAt va n mm = .ok bs t → Completes i s fun u => Retires (t.setX a w) u (fallsTo t)
    let stores (i : Instr) (n : Nat) : Prop :=
      s.storeAt va (bytesOfNat n (s.x a).toNat) mm = .ok () t → Completes i s fun u => Retires t u (fallsTo t)
    loads (.lb a b imm mm) 1 (signed bs.length) ∧ loads (.lbu a b imm mm) 1 plain ∧
    loads (.lh a b imm mm) 2 (signed bs.length) ∧ loads (.lhu a b imm mm) 2 plain ∧
    loads (.lw a b imm mm) 4 (signed bs.length) ∧ loads (.lwu a b imm mm) 4 plain ∧
    loads (.ld a b imm mm) 8 plain ∧
    stores (.sb a b imm mm) 1 ∧ stores (.sh a b imm mm) 2 ∧ stores (.sw a b imm mm) 4 ∧ stores (.sd a b imm mm) 8) ∧
  (∀ (s : State) (a b : XReg) (imm : BitVec 20) (mm : MemMod),
    let va := s.x b + BitVec.ofInt 64 imm.toInt
    s.regionPage va = false →
    (va.toNat % 2 ≠ 0 → Traps (.lh a b imm mm) s 2 va 0 ∧ Traps (.lhu a b imm mm) s 2 va 0 ∧ Traps (.sh a b imm mm) s 2 va 0) ∧
    (va.toNat % 4 ≠ 0 → Traps (.lw a b imm mm) s 2 va 0 ∧ Traps (.lwu a b imm mm) s 2 va 0 ∧ Traps (.sw a b imm mm) s 2 va 0) ∧
    (va.toNat % 8 ≠ 0 → Traps (.ld a b imm mm) s 2 va 0 ∧ Traps (.sd a b imm mm) s 2 va 0 ∧
      Traps (.ldf a b imm mm) s 2 va 0 ∧ Traps (.ldfe a b imm mm) s 2 va 0 ∧ Traps (.sdf a b imm mm) s 2 va 0 ∧
      Traps (.sfe b imm mm) s 2 va 0)) ∧
  (∀ (s : State) (a b : XReg) (imm : BitVec 20) (mm : MemMod) (off : Nat),
    let va := s.x b + BitVec.ofInt 64 imm.toInt
    va.toNat = 0x200_0000 + off → off < 0x1_0000 →
    (∀ im t, State.imageAt s.strand.mode off = some im → s.acquireAfter mm = .ok () t →
      let part (n : Nat) : BitVec (8 * n) := (s.imageWord im).extractLsb' (8 * (off % 8)) (8 * n)
      let loads (i : Instr) (n : Nat) (w : Word) : Prop :=
        off % n = 0 → Completes i s fun u => Retires (t.setX a w) u (fallsTo t)
      loads (.lb a b imm mm) 1 (BitVec.ofInt 64 (part 1).toInt) ∧ loads (.lbu a b imm mm) 1 (BitVec.ofNat 64 (part 1).toNat) ∧
      loads (.lh a b imm mm) 2 (BitVec.ofInt 64 (part 2).toInt) ∧ loads (.lhu a b imm mm) 2 (BitVec.ofNat 64 (part 2).toNat) ∧
      loads (.lw a b imm mm) 4 (BitVec.ofInt 64 (part 4).toInt) ∧ loads (.lwu a b imm mm) 4 (BitVec.ofNat 64 (part 4).toNat) ∧
      loads (.ld a b imm mm) 8 (s.imageWord im)) ∧
    (∀ im t u, State.imageAt s.strand.mode off = some im → off % 8 = 0 → s.releaseFirst mm = .ok () t →
      t.setImage im (s.x a) = .ok () u → Completes (.sd a b imm mm) s fun v => Retires u v (fallsTo u)) ∧
    (Traps (.sb a b imm mm) s 7 va 0 ∧ (off % 2 = 0 → Traps (.sh a b imm mm) s 7 va 0) ∧
      (off % 4 = 0 → Traps (.sw a b imm mm) s 7 va 0)) ∧
    (State.imageAt s.strand.mode off = none →
      Traps (.lb a b imm mm) s 7 va 0 ∧ Traps (.lbu a b imm mm) s 7 va 0 ∧
      (off % 2 = 0 → Traps (.lh a b imm mm) s 7 va 0 ∧ Traps (.lhu a b imm mm) s 7 va 0) ∧
      (off % 4 = 0 → Traps (.lw a b imm mm) s 7 va 0 ∧ Traps (.lwu a b imm mm) s 7 va 0) ∧
      (off % 8 = 0 → Traps (.ld a b imm mm) s 7 va 0 ∧ Traps (.sd a b imm mm) s 7 va 0)) ∧
    (s.strand.mode = .U → State.imageAt s.strand.mode off = none)) ∧
  (∀ (s : State) (a b : XReg) (imm : BitVec 20) (k i : Nat),
    let va := s.x b + BitVec.ofInt 64 imm.toInt
    let at_ (off : Nat) : Prop := va.toNat = 0x200_0000 + off
    let reads (w : Word) : Prop := Does (.ld a b imm MemMod.none) s (s.setX a w)
    let writes (m : State) : Prop := Does (.sd a b imm MemMod.none) s m
    let held := vgetN s.core.matrix.held k
    let mask : Word := [-1, -1, 0x1_FFFF_FFFF, 0xFFFF, -1, -1, 0xFFFF, -1, 1, 0xFFFF_FFFF_FFFF].getD i 0
    let keeps (l : List Rec512) : State := s.withCore fun c => { c with matrix := { c.matrix with held := vsetN c.matrix.held k l } }
    let framed (m : Mode) (f : Frame) : State := s.modStrand ⟨s.me.core, k⟩ fun t => t.setFrame m f
    let frames (m : Mode) (off : Nat) : Prop :=
      let f := (s.strandAt ⟨s.me.core, k⟩).frame m
      (at_ off → reads (BitVec.ofNat 64 ((if f.act then 1 else 0) + (if f.rep then 2 else 0) + 4 * f.creg.toNat +
          128 * f.stride.toNat + 2048 * f.pass.toNat)) ∧
        writes (framed m { f with act := (s.x a).getLsbD 0, rep := (s.x a).getLsbD 1, creg := (s.x a).extractLsb' 2 5
                                  stride := (s.x a).extractLsb' 7 4, pass := (s.x a).extractLsb' 11 5 })) ∧
      (at_ (off + 8) → reads f.start ∧ writes (framed m { f with start := s.x a &&& 0xFFFF_FFFF_FFFE })) ∧
      (at_ (off + 16) → reads f.stop ∧ writes (framed m { f with stop := s.x a &&& 0xFFFF_FFFF_FFFE }))
    s.strand.mode ≠ .U → k < 4 →
    (at_ (0x100 + 8 * k) → reads (BitVec.ofNat 64 held.length) ∧ (s.x a = 0 → writes (keeps [])) ∧ (s.x a ≠ 0 → writes s)) ∧
    (i < 128 → at_ (0x1000 + 0x400 * k + 8 * i) →
      (held.length ≤ i / 8 → reads 0 ∧ writes (keeps held)) ∧
      (∀ r, held[i / 8]? = some r → reads (r.extractLsb' (64 * (i % 8)) 64) ∧
        ∃ r' : Rec512, writes (keeps (held.set (i / 8) r')) ∧
          ∀ j, j < 512 → r'.getLsbD j = if j / 64 = i % 8 then (s.x a).getLsbD (j % 64) else r.getLsbD j)) ∧
    (∀ h : i < 10,
      (at_ (0x2000 + 8 * i) → reads s.core.ce.active[i] ∧
        writes (s.withCore fun c => { c with ce := { c.ce with active := c.ce.active.set i (s.x a &&& mask) h } })) ∧
      (at_ (0x2080 + 8 * i) → reads s.core.ce.shadow[i] ∧
        writes (s.withCore fun c => { c with ce := { c.ce with shadow := c.ce.shadow.set i (s.x a &&& mask) h } }))) ∧
    frames .U (0x3100 + 0x40 * k) ∧ frames .S (0x3120 + 0x40 * k) ∧ (s.strand.mode = .M → frames .M (0x3200 + 0x20 * k)))

/-- R176, R177, R376: a plain scalar load at an aligned address of the strand's own LM, outside a step-mode compute phase or
inside its reservation, writes the bytes that stand there and changes nothing else, unless a held release blocks the word.

R176, R177, R409: a plain scalar store at an aligned address of the strand's own LM writes its bytes there; every other byte
of every LM, all of memory, every register and every other strand's registers stay. -/
def Obligations.OwnLmAccesses : Prop :=
  (∀ (s : State) (a b : XReg) (imm : BitVec 20) (mm : MemMod) (off : Nat),
    (s.x b + BitVec.ofInt 64 imm.toInt).toNat = off → off < 65536 → mm.order = .plain →
    s.blockedBy (.lm s.me.core (off / 8 * 8)) false = false →
    let free (n : Nat) : Prop := off % n = 0 ∧
      (s.computePhase = false ∨ (s.strand.ident.lmBase ≤ off ∧ off + n ≤ s.strand.ident.lmBase + s.strand.ident.lmSize))
    let byte (i : Nat) : Nat := (Memory.read s.core.lm (off + i)).toNat
    let two : Nat := byte 0 + 256 * byte 1
    let four : Nat := two + 65536 * (byte 2 + 256 * byte 3)
    let eight : Nat := four + 2 ^ 32 * (byte 4 + 256 * (byte 5 + 256 * (byte 6 + 256 * byte 7)))
    (free 1 → Does (.lb a b imm mm) s (s.setX a (BitVec.ofInt 64 (BitVec.ofNat 8 (byte 0)).toInt)) ∧
      Does (.lbu a b imm mm) s (s.setX a (BitVec.ofNat 64 (byte 0)))) ∧
    (free 2 → Does (.lh a b imm mm) s (s.setX a (BitVec.ofInt 64 (BitVec.ofNat 16 two).toInt)) ∧
      Does (.lhu a b imm mm) s (s.setX a (BitVec.ofNat 64 two))) ∧
    (free 4 → Does (.lw a b imm mm) s (s.setX a (BitVec.ofInt 64 (BitVec.ofNat 32 four).toInt)) ∧
      Does (.lwu a b imm mm) s (s.setX a (BitVec.ofNat 64 four))) ∧
    (free 8 → Does (.ld a b imm mm) s (s.setX a (BitVec.ofNat 64 eight)))) ∧
  (∀ (s : State) (a b : XReg) (imm : BitVec 20) (mm : MemMod) (off : Nat), Canonical s →
    (s.x b + BitVec.ofInt 64 imm.toInt).toNat = off → off < 65536 → mm.order = .plain →
    s.blockedBy (.lm s.me.core (off / 8 * 8)) true = false →
    let stores (i : Instr) (n : Nat) : Prop :=
      off % n = 0 →
      (s.computePhase = false ∨ (s.strand.ident.lmBase ≤ off ∧ off + n ≤ s.strand.ident.lmBase + s.strand.ident.lmSize)) →
      Completes i s fun t => ∃ m, Retires m t (fallsTo s) ∧
        (∀ k, k < n → Memory.read m.core.lm (off + k) = (s.x a).extractLsb' (8 * k) 8) ∧
        (∀ p, p < off ∨ off + n ≤ p → Memory.read m.core.lm p = Memory.read s.core.lm p) ∧
        (∀ c, c ≠ s.me.core → (m.coreAt c).lm = (s.coreAt c).lm) ∧ m.mem = s.mem ∧
        (∀ w, (m.strandAt w).x = (s.strandAt w).x ∧ (m.strandAt w).v = (s.strandAt w).v ∧
          (m.strandAt w).pc = (s.strandAt w).pc)
    stores (.sb a b imm mm) 1 ∧ stores (.sh a b imm mm) 2 ∧ stores (.sw a b imm mm) 4 ∧ stores (.sd a b imm mm) 8)

/-- R177, R180, R186, R376, R409: a plain 8-byte store to an aligned address of a mapped page of this module (the place `l` that
the checks and the translation give it), and a plain 8-byte load there, outside a region and a provisional piece. `s1` is the
state with the translation done, no line is held up, every message sent before has been performed, and none is posted (entry
10).

Type D, and S with nothing in the strand's buffers: the store puts X[A]'s bytes into memory and leaves every other byte of
memory and of every LM; the load brings what stands in memory.

Type N, on a line `k` that the L1 holds, or takes from memory into an empty L1: the store changes the line, whose bytes
become dirty, and not memory; the load brings the line's bytes, and the line stays as it is.

Type W: the store goes into a new entry of the combining buffer and leaves memory; the load brings the strand's own bytes of
the buffer, and memory's for the rest.

In the field window the store writes its bytes into the LM of the core that the address names, and no other byte of any LM or of
memory; the load brings them. Every other register stays. -/
def Obligations.StoreAndLoadByPage : Prop :=
  (∀ (s s1 : State) (a b : XReg) (imm : BitVec 20) (l : Loc), Canonical s →
    let va := s.x b + BitVec.ofInt 64 imm.toInt
    let line := l.pa / 32
    let i0 := l.pa % 32
    isWindow va = false → l.pa % 8 = 0 → s1.isOwn l = true → s1.lineBad line = false → s1.strand = s.strand →
    s1.strand.inRegion = false → s1.me = s.me → s1.mem = s.mem → s1.turn = s.turn → s.turn.post = false → s1.latch = s.latch →
    (∀ f ∈ s1.flights, f.done = true) →
    let stored := s.element .store false va 8 = .ok (.glob l) s1 ∧ s1.provisional s1.me = false ∧
      s1.blockedBy (.line (line * 32)) true = false
    let loaded := s.element .load false va 8 = .ok (.glob l) s1 ∧ s1.blockedBy (.line (line * 32)) false = false
    let calm := s1.flights = [] ∧ s1.core.wbuf = [] ∧ s1.core.l1 = [] ∧ s1.fused = []
    let stores (P : State → Prop) : Prop := stored → Completes (.sd a b imm MemMod.none) s fun t => ∃ m : State,
      Retires m t (fallsTo s) ∧ (∀ r, m.x r = s.x r) ∧ (∀ r, m.v r = s.v r) ∧ (∀ n, (m.coreAt n).lm = (s1.coreAt n).lm) ∧ P m
    let brings (w : Word) (P : State → Prop) : Prop := loaded → Completes (.ld a b imm MemMod.none) s fun t => ∃ m : State,
      Retires (m.setX a w) t (fallsTo s) ∧ (∀ r, m.x r = s.x r) ∧ m.mem = s.mem ∧ P m
    (l.ty = 2 ∨ (l.ty = 3 ∧ calm) →
      stores (fun m => (∀ k, k < 8 → m.mem.read (l.pa + k) = (s.x a).extractLsb' (8 * k) 8) ∧
        ∀ p, p < l.pa ∨ l.pa + 8 ≤ p → m.mem.read p = s.mem.read p) ∧
      (s1.l1Find s1.me.core line = none → brings (BitVec.ofNat 64 (s.mem.nat l.pa 8)) fun _ => True)) ∧
    (∀ k, l.ty = 0 → s1.l1Find s1.me.core line = some k ∨ (calm ∧ k = ⟨line, lineAt s.mem line, 0, 0, []⟩) →
      stores (fun m => m.mem = s.mem ∧ ∃ k', m.l1Find m.me.core line = some k' ∧ ∀ i, i < 32 →
        if i0 ≤ i ∧ i < i0 + 8 then byteAt k'.data i = (s.x a).extractLsb' (8 * (i - i0)) 8 ∧ k'.dirty.getLsbD i = true
        else byteAt k'.data i = byteAt k.data i ∧ k'.dirty.getLsbD i = k.dirty.getLsbD i) ∧
      brings (k.data.extractLsb' (8 * i0) 64) fun m => m.l1Find m.me.core line = some k) ∧
    (l.ty = 1 →
      (s1.core.wbuf.length < 4 → (∀ e ∈ s1.core.wbuf, e.line ≠ line ∨ e.by_ ≠ s.rankAt s.me) →
        stores fun m => m.mem = s.mem ∧ ∃ e : WLine, m.core.wbuf = s1.core.wbuf ++ [e] ∧ e.line = line ∧ e.who = s.me.slot ∧
          e.by_ = s.rankAt s.me ∧
          ∀ i, i < 32 → (e.mask.getLsbD i = true ↔ i0 ≤ i ∧ i < i0 + 8) ∧
            (i0 ≤ i → i < i0 + 8 → byteAt e.data i = (s.x a).extractLsb' (8 * (i - i0)) 8)) ∧
      (∀ e w, s1.core.wbuf.filter (fun e => e.line == line && e.by_ == s.rankAt s.me) = [e] →
        (∀ i, i < 8 → byteAt (w : Word) i = if e.mask.getLsbD (i0 + i) then byteAt e.data (i0 + i) else s.mem.read (l.pa + i)) →
        brings w fun _ => True) ∧
      ((∀ e ∈ s1.core.wbuf, e.line ≠ line ∨ e.by_ ≠ s.rankAt s.me) → brings (BitVec.ofNat 64 (s.mem.nat l.pa 8)) fun _ => True))) ∧
  (∀ (s : State) (a b : XReg) (imm : BitVec 20) (c off : Nat), Canonical s → s.flights = [] → s.turn.post = false →
    let va := s.x b + BitVec.ofInt 64 imm.toInt
    isFieldLm va = true →
    (s.element .store false va 8 = .ok (.lm c off) s → s.provisional s.me = false → s.blockedBy (.lm c (off / 8 * 8)) true = false →
      Completes (.sd a b imm MemMod.none) s fun t => ∃ m : State, Retires m t (fallsTo s) ∧ m.mem = s.mem ∧
        (∀ n p, Memory.read (m.coreAt n).lm p =
          if n = c ∧ off ≤ p ∧ p < off + 8 then (s.x a).extractLsb' (8 * (p - off)) 8 else Memory.read (s.coreAt n).lm p) ∧
        (∀ r, m.x r = s.x r) ∧ ∀ r, m.v r = s.v r) ∧
    (s.element .load false va 8 = .ok (.lm c off) s → s.blockedBy (.lm c (off / 8 * 8)) false = false →
      Does (.ld a b imm MemMod.none) s (s.setX a (BitVec.ofNat 64 (Memory.nat (s.coreAt c).lm off 8)))))

/-- R178, R179: the full/empty forms on an aligned word of the strand's own LM, plain, outside step mode, where no release tag
stands and no store of the strand is unacknowledged: `ldf` and `ldfe` bring a full word, and `ldfe` leaves it empty, each with
the acquire at core scope that `barShared` makes (entry 67); on an empty word both wait; `sdf` writes the word and sets it full, `sfe` sets it empty and writes no byte. -/
def Obligations.FullEmptyForms : Prop :=
  ∀ (s : State) (a b : XReg) (imm : BitVec 20) (mm : MemMod) (off : Nat), Canonical s →
    (s.x b + BitVec.ofInt 64 imm.toInt).toNat = off → off < 65536 → off % 8 = 0 → mm.order = .plain →
    s.computePhase = false → s.strand.sync.reply = none → s.tagAt (.lm s.me.core off) = none → s.unacked s.me = false →
    (∀ w, s.blockedBy (.lm s.me.core off) w = false) →
    (¬ off / 8 ∈ s.core.empty →
      Does (.ldf a b imm mm) s ((s.barShared s.me).setX a (BitVec.ofNat 64 (Memory.nat s.core.lm off 8))) ∧
      Does (.ldfe a b imm mm) s (((s.withCore fun c => { c with empty := off / 8 :: c.empty }).barShared s.me).setX a
        (BitVec.ofNat 64 (Memory.nat s.core.lm off 8)))) ∧
    (off / 8 ∈ s.core.empty →
      Completes (.ldf a b imm mm) s (fun t => t.strand.sync.held = true ∧ t.strand.pc = s.strand.pc ∧ ∀ r, t.x r = s.x r) ∧
      Completes (.ldfe a b imm mm) s (fun t => t.strand.sync.held = true ∧ t.strand.pc = s.strand.pc ∧ ∀ r, t.x r = s.x r)) ∧
    Completes (.sdf a b imm mm) s (fun t => ∃ m, Retires m t (fallsTo s) ∧ m.mem = s.mem ∧
      (∀ p, Memory.read m.core.lm p =
        if off ≤ p ∧ p < off + 8 then (s.x a).extractLsb' (8 * (p - off)) 8 else Memory.read s.core.lm p) ∧
      (s.core.port = [] → off / 8 ∉ m.core.empty)) ∧
    Completes (.sfe b imm mm) s (fun t => ∃ m, Retires m t (fallsTo s) ∧ m.mem = s.mem ∧ m.core.lm = s.core.lm ∧
      off / 8 ∈ m.core.empty ∧ ∀ w, w ≠ off / 8 → (w ∈ m.core.empty ↔ w ∈ s.core.empty))

/-! ## Scalar floating point -/

/-- R361, R362, R125, R128: the arithmetic forms in FP32 and FP64 write the result of the one rounding, or of the special case,
zero-extended, and raise its flags; an enabled flag traps with cause 16. `fma` writes X[A] and adds X[D]. -/
def Obligations.FpArithmeticForms : Prop :=
  ∀ (s : State) (a b d : XReg),
    let v (f : Fmt) (r : XReg) : Fv := f.read s.env (s.x r).toNat
    let w (i : Instr) (r : XReg) (p : Nat × Word) : Prop := WritesX i s r (BitVec.ofNat 64 p.1) p.2
    w (.faddS a b d) d (Fmt.f32.add s.env (v .f32 a) (v .f32 b)) ∧
    w (.fsubS a b d) d (Fmt.f32.sub s.env (v .f32 a) (v .f32 b)) ∧
    w (.fmulS a b d) d (Fmt.f32.mul s.env (v .f32 a) (v .f32 b)) ∧
    w (.fdivS a b d) d (Fmt.f32.div s.env (v .f32 a) (v .f32 b)) ∧
    w (.fsqrtS a b) a (Fmt.f32.sqrt s.env (v .f32 b)) ∧
    w (.fmaS a b d) a (Fmt.f32.fma s.env (v .f32 a) (v .f32 b) (v .f32 d)) ∧
    w (.faddD a b d) d (Fmt.f64.add s.env (v .f64 a) (v .f64 b)) ∧
    w (.fsubD a b d) d (Fmt.f64.sub s.env (v .f64 a) (v .f64 b)) ∧
    w (.fmulD a b d) d (Fmt.f64.mul s.env (v .f64 a) (v .f64 b)) ∧
    w (.fdivD a b d) d (Fmt.f64.div s.env (v .f64 a) (v .f64 b)) ∧
    w (.fsqrtD a b) a (Fmt.f64.sqrt s.env (v .f64 b)) ∧
    w (.fmaD a b d) a (Fmt.f64.fma s.env (v .f64 a) (v .f64 b) (v .f64 d)) ∧
    w (.fminS a b d) d (Fmt.f32.minmax s.env false (s.x a).toNat (s.x b).toNat) ∧
    w (.fmaxS a b d) d (Fmt.f32.minmax s.env true (s.x a).toNat (s.x b).toNat) ∧
    w (.fminD a b d) d (Fmt.f64.minmax s.env false (s.x a).toNat (s.x b).toNat) ∧
    w (.fmaxD a b d) d (Fmt.f64.minmax s.env true (s.x a).toNat (s.x b).toNat)

/-- R363: the comparisons write 1 or 0 for the relation of the two values, with 0 for any NaN operand; `feq` raises NV for a
signalling NaN only, the others for any NaN, and a flag that FPC.TE enables traps instead (R125); with no flag enabled they
complete on every operand. `fclass` completes on every operand, whatever FPC holds, and writes the bit of the class of its raw
pattern: by its exponent field, its fraction and its sign, −infinity, negative normal, negative subnormal, −0, +0, positive
subnormal, positive normal, +infinity, signalling NaN and quiet NaN from bit 0 up. -/
def Obligations.FpCompareAndClassify : Prop :=
  ∀ (s : State) (a b d : XReg),
    let v (f : Fmt) (r : XReg) : Fv := f.read s.env (s.x r).toNat
    let nan (f : Fmt) : Bool := (v f a).isNaN || (v f b).isNaN
    let snan (f : Fmt) : Bool := (v f a).isSNaN || (v f b).isSNaN
    let eqFl (f : Fmt) : Word := if snan f then fNV else 0
    let ltFl (f : Fmt) : Word := if nan f then fNV else 0
    let eqVal (f : Fmt) : Word := if nan f then 0 else if (cmpVal (v f a) (v f b)).2 then 1 else 0
    let ltVal (f : Fmt) (orEq : Bool) : Word :=
      if nan f then 0 else if (cmpVal (v f a) (v f b)).1 || (orEq && (cmpVal (v f a) (v f b)).2) then 1 else 0
    let compares (i : Instr) (w fl : Word) : Prop :=
      WritesX i s d w fl ∧ (s.te = 0 → Does i s ((s.raise fl).setX d w))
    let classOf (e f : Nat) (sign quiet : Bool) (top : Nat) : Nat :=
      if e = top then (if f = 0 then (if sign then 0 else 7) else if quiet then 9 else 8)
      else if e = 0 then (if f = 0 then (if sign then 3 else 4) else if sign then 2 else 5)
      else if sign then 1 else 6
    let w := s.x b
    compares (.feqS a b d) (eqVal .f32) (eqFl .f32) ∧ compares (.fltS a b d) (ltVal .f32 false) (ltFl .f32) ∧
    compares (.fleS a b d) (ltVal .f32 true) (ltFl .f32) ∧ compares (.feqD a b d) (eqVal .f64) (eqFl .f64) ∧
    compares (.fltD a b d) (ltVal .f64 false) (ltFl .f64) ∧ compares (.fleD a b d) (ltVal .f64 true) (ltFl .f64) ∧
    Does (.fclassS a b) s (s.setX a (BitVec.ofNat 64
      (2 ^ classOf (field w 23 8) (field w 0 23) (w.getLsbD 31) (w.getLsbD 22) 255))) ∧
    Does (.fclassD a b) s (s.setX a (BitVec.ofNat 64
      (2 ^ classOf (field w 52 11) (field w 0 52) (w.getLsbD 63) (w.getLsbD 51) 2047))) ∧
    (s.x b = 0x8000_0000 → Does (.fclassS a b) s (s.setX a 8))

/-- R364, R130, R131: the conversions between formats, from an integer and to an integer. -/
def Obligations.FpConversions : Prop :=
  ∀ (s : State) (a b : XReg),
    let ff (i : Instr) (src dst : Fmt) : Prop :=
      WritesX i s a (BitVec.ofNat 64 (cvtFF src dst s.env (s.x b).toNat).1) (cvtFF src dst s.env (s.x b).toNat).2
    let int64 : Int := (s.x b).toInt
    let int32 : Int := ((s.x b).extractLsb' 0 32).toInt
    let fi (i : Instr) (dst : Fmt) (n : Int) : Prop :=
      WritesX i s a (BitVec.ofNat 64 (cvtIF dst s.env n).1) (cvtIF dst s.env n).2
    let dest (i : Instr) (src : Fmt) (w : Nat) : Prop :=
      let p := cvtFI s.env (src.read s.env (s.x b).toNat) (-(2 ^ (w - 1) : Int)) (2 ^ (w - 1) - 1)
      WritesX i s a (BitVec.ofInt 64 p.1) p.2
    ff (.fcvtSD a b) .f64 .f32 ∧ ff (.fcvtDS a b) .f32 .f64 ∧ ff (.fcvtSBf a b) .bf .f32 ∧ ff (.fcvtBfS a b) .f32 .bf ∧
    ff (.fcvtSHf a b) .hf .f32 ∧ ff (.fcvtHfS a b) .f32 .hf ∧ ff (.fcvtSE4 a b) .e4 .f32 ∧ ff (.fcvtE4S a b) .f32 .e4 ∧
    ff (.fcvtSE5 a b) .e5 .f32 ∧ ff (.fcvtE5S a b) .f32 .e5 ∧
    fi (.fcvtSL a b) .f32 int64 ∧ fi (.fcvtDL a b) .f64 int64 ∧ fi (.fcvtSW a b) .f32 int32 ∧
    dest (.fcvtLS a b) .f32 64 ∧ dest (.fcvtLD a b) .f64 64 ∧ dest (.fcvtWS a b) .f32 32

/-- R120: the canonical NaNs are the spec's table. With FPC.NAN clear, a sum, a product, a quotient and a fused multiply-add
whose first or second operand is a NaN gives the canonical one of its format (R129). -/
def Obligations.CanonicalNaNs : Prop :=
  Fmt.f64.nanBits = 0x7FF8_0000_0000_0000 ∧ Fmt.f32.nanBits = 0x7FC0_0000 ∧ Fmt.hf.nanBits = 0x7E00 ∧
  Fmt.bf.nanBits = 0x7FC0 ∧ Fmt.e4.nanBits = 0x7F ∧ Fmt.e5.nanBits = 0x7E ∧
  ∀ (f : Fmt) (env : FpEnv) (x y z : Fv), env.nan = false → (x.isNaN = true ∨ y.isNaN = true) →
    (f.add env x y).1 = f.nanBits ∧ (f.mul env x y).1 = f.nanBits ∧ (f.div env x y).1 = f.nanBits ∧
    (f.fma env x y z).1 = f.nanBits

/-- R68, R368: a special function that is served at once (the core's queue empty, the turn posting nothing) writes its result,
zero-extended, with its flags; where the queue holds other requests and has room, the strand waits with its request
queued. The value is that of `Fmt.sfu`, whose series are not proved (entry 9). -/
def Obligations.SpecialFunctions : Prop :=
  ∀ (s : State) (a b : XReg),
    s.strand.sync.reply = none →
    let now (i : Instr) (fn : Sfu) : Prop :=
      WritesX i s a (BitVec.ofNat 64 (Fmt.f32.sfu s.env fn (s.x b).toNat).1) (Fmt.f32.sfu s.env fn (s.x b).toNat).2
    let waits (i : Instr) : Prop :=
      Completes i s fun t => t.strand.sync.held = true ∧ t.strand.pc = s.strand.pc ∧
        t.core.sfu = s.core.sfu ++ [s.me.slot] ∧ ∀ r, t.x r = s.x r
    (s.core.sfu = [] → s.turn.post = false →
      now (.fexp2 a b) .exp2 ∧ now (.flog2 a b) .log2 ∧ now (.frcp a b) .rcp ∧ now (.frsq a b) .rsq ∧
      now (.fsin a b) .sin ∧ now (.fcos a b) .cos ∧ now (.ftanh a b) .tanh ∧ now (.flgst a b) .lgst) ∧
    (s.core.sfu ≠ [] → s.me.slot ∉ s.core.sfu → s.core.sfu.length < 8 →
      waits (.fexp2 a b) ∧ waits (.flog2 a b) ∧ waits (.frcp a b) ∧ waits (.frsq a b) ∧
      waits (.fsin a b) ∧ waits (.fcos a b) ∧ waits (.ftanh a b) ∧ waits (.flgst a b))

/-! ## Vector instructions -/

/-- R436, R439 to R442, R456 to R459, R461, R462, R467, R468, R471, R472, R475: the integer and bitwise lanes. Each active lane computes on the
numbers that its source lanes mean under the type, exactly, and keeps the low bits; inactive lanes follow the mask; no flag
is raised. -/
def Obligations.VectorIntegerLanes : Prop :=
  ∀ (s : State) (ty : ETy) (a b d : VReg) (m : MaskMod),
    let w := ty.bits
    let x (i : Nat) : Int := laneInt ty.isSigned w (lane (s.v a) w i)
    let y (i : Nat) : Int := laneInt ty.isSigned w (lane (s.v b) w i)
    let ux (i : Nat) : Nat := lane (s.v a) w i
    let uy (i : Nat) : Nat := lane (s.v b) w i
    let sx (i : Nat) : Int := laneInt true w (lane (s.v a) w i)
    let sy (i : Nat) : Int := laneInt true w (lane (s.v b) w i)
    let writes (i : Instr) (dst : VReg) (f : Nat → Int) : Prop :=
      ∃ v : V256, (∀ j, j < ty.lanes → lane v w j = masked s m (s.v dst) w (fun k => (f k % 2 ^ w).toNat) j) ∧
        Does i s (s.setV dst v)
    (ty.isInt = true →
      writes (.vadd ty a b d m) d (fun i => x i + y i) ∧ writes (.vsub ty a b d m) d (fun i => x i - y i) ∧
      writes (.vmul ty a b d m) d (fun i => x i * y i) ∧ writes (.vmin ty a b d m) d (fun i => min (x i) (y i)) ∧
      writes (.vmax ty a b d m) d (fun i => max (x i) (y i)) ∧
      writes (.vmulh ty a b d m) d (fun i => x i * y i / 2 ^ w) ∧
      writes (.vshl ty a b d m) d (fun i => (ux i : Int) * 2 ^ (uy i % w)) ∧
      writes (.vshr ty a b d m) d (fun i => (ux i : Int) / 2 ^ (uy i % w)) ∧
      writes (.vsra ty a b d m) d (fun i => sx i / 2 ^ (uy i % w))) ∧
    (ty.isInt = true → ty.isSigned = true →
      writes (.vabs ty a b m) a (fun i => (sy i).natAbs) ∧ writes (.vneg ty a b m) a (fun i => -sy i)) ∧
    writes (.vand ty a b d m) d (fun i => ((ux i &&& uy i : Nat) : Int)) ∧
    writes (.vor ty a b d m) d (fun i => ((ux i ||| uy i : Nat) : Int)) ∧
    writes (.vxor ty a b d m) d (fun i => ((ux i ^^^ uy i : Nat) : Int))

/-- R439, R441, R448, R451, R456 to R458, R472, R440, R461: the floating-point lanes. Each active lane is one scalar operation of
the type's format, the flags of the active lanes together; an enabled flag traps with cause 16. `vabs` and `vneg` touch the
sign bit alone and raise nothing. -/
def Obligations.VectorFpLanes : Prop :=
  ∀ (s : State) (ty : ETy) (a b d : VReg) (m : MaskMod), ty.isFp = true →
    let w := ty.bits
    let f := tyFmt ty
    let x (i : Nat) : Fv := f.read s.env (lane (s.v a) w i)
    let y (i : Nat) : Fv := f.read s.env (lane (s.v b) w i)
    let z (i : Nat) : Fv := f.read s.env (lane (s.v d) w i)
    let writes (i : Instr) (dst : VReg) (g : Nat → Nat × Word) : Prop :=
      WritesV i s dst w (masked s m (s.v dst) w fun k => (g k).1 % 2 ^ w) (flagsOver (s.active m) ty.lanes fun k => (g k).2)
    writes (.vadd ty a b d m) d (fun i => f.add s.env (x i) (y i)) ∧
    writes (.vsub ty a b d m) d (fun i => f.sub s.env (x i) (y i)) ∧
    writes (.vmul ty a b d m) d (fun i => f.mul s.env (x i) (y i)) ∧
    writes (.vdiv ty a b d m) d (fun i => f.div s.env (x i) (y i)) ∧
    writes (.vfma ty a b d m) a (fun i => f.fma s.env (x i) (y i) (z i)) ∧
    writes (.vmin ty a b d m) d (fun i => f.minmax s.env false (lane (s.v a) w i) (lane (s.v b) w i)) ∧
    writes (.vmax ty a b d m) d (fun i => f.minmax s.env true (lane (s.v a) w i) (lane (s.v b) w i)) ∧
    writes (.vabs ty a b m) a (fun i => (lane (s.v b) w i % 2 ^ (w - 1), 0)) ∧
    writes (.vneg ty a b m) a (fun i => ((lane (s.v b) w i + 2 ^ (w - 1)) % 2 ^ w, 0))

/-- R444: a vector comparison writes to X[A], one bit a lane, the relation of the lanes; inactive bits follow the mask, bits from
the lane count up are 0. -/
def Obligations.VectorCompares : Prop :=
  ∀ (s : State) (ty : ETy) (a : XReg) (b c : VReg) (m : MaskMod),
    let x (i : Nat) : Nat := lane (s.v b) ty.bits i
    let y (i : Nat) : Nat := lane (s.v c) ty.bits i
    let writes (i : Instr) (g : Nat → Bool × Word) : Prop :=
      let fl := flagsOver (s.active m) ty.lanes fun k => (g k).2
      (fl &&& s.te = 0 → ∃ w : Word,
        (∀ k, w.getLsbD k = (decide (k < ty.lanes) &&
          if s.active m k then (g k).1 else if zeroing m then false else (s.x a).getLsbD k)) ∧
        Does i s ((s.raise fl).setX a w)) ∧
      (fl &&& s.te ≠ 0 → Traps i s 16 (fl &&& s.te) fl)
    let ints (r : Int → Int → Bool) (k : Nat) : Bool × Word :=
      (r (laneInt ty.isSigned ty.bits (x k)) (laneInt ty.isSigned ty.bits (y k)), 0)
    let fps (r : Rel) (k : Nat) : Bool × Word :=
      fpRel r ((tyFmt ty).read s.env (x k)) ((tyFmt ty).read s.env (y k))
    (ty.isInt = true →
      writes (.vceq ty a b c m) (ints fun p q => p == q) ∧ writes (.vcne ty a b c m) (ints fun p q => p != q) ∧
      writes (.vclt ty a b c m) (ints fun p q => decide (p < q)) ∧ writes (.vcle ty a b c m) (ints fun p q => decide (p ≤ q))) ∧
    (ty.isInt = false → ty.notCb = true →
      writes (.vceq ty a b c m) (fps .eq) ∧ writes (.vcne ty a b c m) (fps .ne) ∧
      writes (.vclt ty a b c m) (fps .lt) ∧ writes (.vcle ty a b c m) (fps .le))

/-- R443, R445, R450, R460, R463, R466, R469, R470: the forms that move lanes; none raises a flag or traps. -/
def Obligations.VectorMoves : Prop :=
  ∀ (s : State) (ty : ETy) (a b d : VReg) (r : XReg) (m : MaskMod) (l : BitVec 10), l.toNat < ty.lanes →
    let w := ty.bits
    let src (i : Nat) : Nat := lane (s.v b) w i
    let below (i : Nat) : Nat := ((List.range i).filter (s.active m)).length
    let writes (i : Instr) (f : Nat → Nat) : Prop :=
      ∃ v : V256, (∀ j, j < ty.lanes → lane v w j = f j) ∧ Does i s (s.setV a v)
    writes (.vperm ty a b d m)
      (masked s m (s.v a) w fun i => if lane (s.v d) w i < ty.lanes then src (lane (s.v d) w i) else 0) ∧
    (∃ v : V256, Does (.vcompress ty a b m) s (s.setV a v) ∧
      (∀ i, i < ty.lanes → s.active m i = true → lane v w (below i) = src i) ∧
      (∀ j, below ty.lanes ≤ j → j < ty.lanes → lane v w j = if zeroing m then 0 else lane (s.v a) w j)) ∧
    writes (.vexpand ty a b m) (masked s m (s.v a) w fun i => src (below i)) ∧
    writes (.vslideup ty a b r m)
      (masked s m (s.v a) w fun i => if (s.x r).toNat ≤ i then src (i - (s.x r).toNat) else lane (s.v a) w i) ∧
    writes (.vslidedn ty a b r m)
      (masked s m (s.v a) w fun i => if i + (s.x r).toNat < ty.lanes then src (i + (s.x r).toNat) else 0) ∧
    writes (.vsel ty a b d m) (fun i => if s.active m i then src i else lane (s.v d) w i) ∧
    writes (.vbcast ty a r m) (masked s m (s.v a) w fun _ => (s.x r).toNat % 2 ^ w) ∧
    (s.active m l.toNat = true → Does (.vmvxv ty r b l m) s
      (s.setX r (if ty.isSigned then BitVec.ofInt 64 (BitVec.ofNat w (src l.toNat)).toInt else BitVec.ofNat 64 (src l.toNat)))) ∧
    (s.active m l.toNat = false → Does (.vmvxv ty r b l m) s (if zeroing m then s.setX r 0 else s)) ∧
    (s.active m l.toNat = true ∨ zeroing m = true → ∃ v : V256,
      (∀ j, j < ty.lanes → lane v w j = if j = l.toNat then (if s.active m j then (s.x r).toNat % 2 ^ w else 0) else lane (s.v a) w j) ∧
      Does (.vmvvx ty a r l m) s (s.setV a v)) ∧
    (s.active m l.toNat = false → zeroing m = false → Does (.vmvvx ty a r l m) s s)

/-- R446, R447, R464, R449: conversions, reductions and the vector special functions. An inactive lane contributes the identity of
the reduction; integer reductions are exact and wrap to 64 bits; a special function is served at once under the conditions
of `SpecialFunctions`. -/
def Obligations.VectorConvertReduceSfu : Prop :=
  ∀ (s : State) (ty dt : ETy) (a b : VReg) (r : XReg) (m : MaskMod),
    let w := ty.bits
    let src (i : Nat) : Nat := lane (s.v b) w i
    let e := min ty.lanes dt.lanes
    let c (i : Nat) : Nat × Word := cvtLane ty dt s.env (src i)
    WritesV (.vcvt ty dt a b m) s a dt.bits
      (fun i => if e ≤ i then 0 else masked s m (s.v a) dt.bits (fun k => (c k).1 % 2 ^ dt.bits) i)
      (flagsOver (s.active m) e fun k => (c k).2) ∧
    (ty.isInt = true →
      let n (i : Nat) : Int := laneInt ty.isSigned w (src i)
      let act : List Nat := (List.range ty.lanes).filter (s.active m)
      let lo : Int := if ty.isSigned then -(2 ^ (w - 1) : Int) else 0
      let hi : Int := if ty.isSigned then 2 ^ (w - 1) - 1 else 2 ^ w - 1
      Does (.vredAdd ty r b m) s (s.setX r (BitVec.ofInt 64 ((act.map n).foldl (· + ·) 0))) ∧
      Does (.vredMax ty r b m) s (s.setX r (BitVec.ofInt 64 ((act.map n).foldl max lo))) ∧
      Does (.vredMin ty r b m) s (s.setX r (BitVec.ofInt 64 ((act.map n).foldl min hi)))) ∧
    (ty.isFp = true →
      let l (i : Red) : List Nat := (List.range ty.lanes).map fun k => if s.active m k then src k else redIdent ty i
      WritesX (.vredAdd ty r b m) s r (reduce ty s.env .add (l .add)).1 (reduce ty s.env .add (l .add)).2 ∧
      WritesX (.vredMax ty r b m) s r (reduce ty s.env .max (l .max)).1 (reduce ty s.env .max (l .max)).2 ∧
      WritesX (.vredMin ty r b m) s r (reduce ty s.env .min (l .min)).1 (reduce ty s.env .min (l .min)).2) ∧
    (s.core.sfu = [] → s.turn.post = false → s.strand.sync.reply = none →
      let now (i : Instr) (fn : Sfu) : Prop :=
        WritesV i s a w (masked s m (s.v a) w fun k => ((tyFmt ty).sfu s.env fn (src k)).1 % 2 ^ w)
          (flagsOver (s.active m) ty.lanes fun k => ((tyFmt ty).sfu s.env fn (src k)).2)
      now (.vexp2 ty a b m) .exp2 ∧ now (.vlog2 ty a b m) .log2 ∧ now (.vrcp ty a b m) .rcp ∧
      now (.vrsq ty a b m) .rsq ∧ now (.vtanh ty a b m) .tanh ∧ now (.vlgst ty a b m) .lgst)

/-- R452, R453, R176: the vector memory forms. With the addresses of the active lanes, in lane order, readable, a load writes each
active lane with its element and the others by the mask; with them writable a store writes each active lane's element. `t` is
the state the accesses leave. -/
def Obligations.VectorMemoryForms : Prop :=
  ∀ (s t : State) (ty : ETy) (a d : VReg) (b r : XReg) (imm : BitVec 20) (m : MaskMod) (bs : List (List Byte)),
    let w := ty.bits
    let n := w / 8
    let base := s.x b + BitVec.ofInt 64 imm.toInt
    let act : List Nat := (List.range ty.lanes).filter (s.active m)
    let unit (i : Nat) : Word := base + BitVec.ofNat 64 (i * n)
    let strided (i : Nat) : Word := base + BitVec.ofNat 64 i * s.x r
    let indexed (i : Nat) : Word := base + BitVec.ofInt 64 ((BitVec.ofNat w (lane (s.v d) w i)).toInt * n)
    let loads (i : Instr) (addr : Nat → Word) : Prop :=
      s.loadElems n MemMod.none (act.map addr) = .ok bs t → bs.length = act.length →
      Completes i s fun u => ∃ v : V256, Retires (t.setV a v) u (fallsTo t) ∧
        (∀ k, (h : k < act.length) → lane v w act[k] = natOfBytes (bs.getD k []) % 2 ^ w) ∧
        (∀ j, j < ty.lanes → s.active m j = false → lane v w j = if zeroing m then 0 else lane (t.v a) w j)
    let stores (i : Instr) (addr : Nat → Word) : Prop :=
      s.storeElems n MemMod.none (act.map fun k => (addr k, bytesOfNat n (lane (s.v a) w k))) = .ok () t →
      Completes i s fun u => Retires t u (fallsTo t)
    loads (.vld ty a b imm m) unit ∧ stores (.vst ty a b imm m) unit ∧
    loads (.vlds ty a b r imm m) strided ∧ stores (.vsts ty a b r imm m) strided ∧
    loads (.vldx ty a b d imm m) indexed ∧ stores (.vstx ty a b d imm m) indexed

/-- R454: the walk forms. From a walk entry of the strand's own LM, BASE, CNT and STR, the first k = min(CNT, lanes) elements are
accessed at BASE + i × STR under the mask, and then the entry is written whole, advanced by k: BASE + k × STR, CNT − k and STR as
it was read. A load writes each active lane below k with its element, an inactive one by the mask, and 0 to the lanes from k up. `t`
is the state that the accesses of the elements leave; with no active element, as when CNT is 0, no element is accessed. -/
def Obligations.VectorWalkForms : Prop :=
  ∀ (s t : State) (ty : ETy) (a : VReg) (b : XReg) (imm : BitVec 20) (m : MaskMod),
    let ea := s.x b + BitVec.ofInt 64 imm.toInt
    let n := ty.bits / 8
    let base := BitVec.ofNat 64 (Memory.nat s.core.lm ea.toNat 8)
    let cnt := Memory.nat s.core.lm (ea.toNat + 8) 4
    let str := BitVec.ofInt 64 (BitVec.ofNat 32 (Memory.nat s.core.lm (ea.toNat + 12) 4)).toInt
    let k := min cnt ty.lanes
    let act : List Nat := (List.range ty.lanes).filter fun i => decide (i < k) && s.active m i
    let entry : List Byte := bytesOfNat 8 (base + BitVec.ofNat 64 k * str).toNat ++ bytesOfNat 4 (cnt - k) ++
      bytesOfNat 4 (Memory.nat s.core.lm (ea.toNat + 12) 4)
    let advanced (t : State) : State := t.lmPortWrite t.me.core (cellsAt ea.toNat entry) [] none
    let lanes (v : V256) (bs : List (List Byte)) : Prop :=
      (∀ q, (h : q < act.length) → lane v ty.bits act[q] = natOfBytes (bs.getD q []) % 2 ^ ty.bits) ∧
      (∀ j, j < k → s.active m j = false → lane v ty.bits j = if zeroing m then 0 else lane (s.v a) ty.bits j) ∧
      ∀ j, k ≤ j → j < ty.lanes → lane v ty.bits j = 0
    ea.toNat % 16 = 0 → ea.toNat < 65536 → s.computePhase = false → base.toNat % n = 0 → str.toNat % n = 0 →
    (∀ i ∈ act, s.regionPage (base + BitVec.ofNat 64 i * str) = false) →
    s.blockedBy (.lm s.me.core ea.toNat) true = false → s.blockedBy (.lm s.me.core (ea.toNat + 8)) true = false →
    (s.storeElems n MemMod.none
        (act.map fun i => (base + BitVec.ofNat 64 i * str, bytesOfNat n (lane (s.v a) ty.bits i))) = .ok () t →
      Completes (.vstsr ty a b imm m) s fun u => Retires (advanced t) u (fallsTo (advanced t))) ∧
    (∀ bs, s.loadElems n MemMod.none (act.map fun i => base + BitVec.ofNat 64 i * str) = .ok bs t → bs.length = act.length →
      Completes (.vldsr ty a b imm m) s fun u =>
        ∃ v : V256, Retires (advanced (t.setV a v)) u (fallsTo (advanced (t.setV a v))) ∧ lanes v bs) ∧
    (act = [] →
      Completes (.vstsr ty a b imm m) s (fun u => Retires (advanced s) u (fallsTo s)) ∧
      Completes (.vldsr ty a b imm m) s fun u =>
        ∃ v : V256, Retires (advanced (s.setV a v)) u (fallsTo s) ∧ lanes v [])

/-! ## Bit tiles -/

/-- R161, R168, R169, R170: bit (i, j) of each result, from bits of the sources; the closure holds every pair joined by a path of
one step or more, `clos.r` those joined by a path of any length. None raises a flag.

R171, R343: `bt.ld` and `bt.st` move 32 bytes at an address that is a multiple of 32, as four words from the lowest up, where
the accesses may be made; a misaligned address of an LM traps with cause 2. -/
def Obligations.BitTileForms : Prop :=
  (∀ (s : State) (d p q : BReg) (a : VReg),
    let x (i j : Nat) : Bool := (s.b p).getLsbD (16 * i + j)
    let y (i j : Nat) : Bool := (s.b q).getLsbD (16 * i + j)
    let path (n : Nat) (i j : Nat) : Prop :=
      ∃ l : List Nat, l.length = n ∧ (∀ k ∈ l, k < 16) ∧ ∀ k, k ≤ n → x ((i :: l).getD k j) ((l ++ [j]).getD k j) = true
    let writes (ins : Instr) (f : Nat → Nat → Bool) : Prop :=
      ∃ v : V256, (∀ i j, i < 16 → j < 16 → v.getLsbD (16 * i + j) = f i j) ∧ Does ins s (s.setB d v)
    let counts (ins : Instr) (f : Nat → Nat) : Prop :=
      ∃ v : V256, (∀ i, i < 16 → lane v 16 i = f i) ∧ Does ins s (s.setV a v)
    writes (.btAnd d p q) (fun i j => x i j && y i j) ∧ writes (.btOr d p q) (fun i j => x i j || y i j) ∧
    writes (.btXor d p q) (fun i j => x i j != y i j) ∧ writes (.btAndn d p q) (fun i j => x i j && !y i j) ∧
    writes (.btComp d p q) (fun i j => (List.range 16).any fun k => x i k && y k j) ∧
    writes (.btNot d p) (fun i j => !x i j) ∧ writes (.btTr d p) (fun i j => x j i) ∧
    writes (.btId d) (fun i j => i == j) ∧ writes (.btZero d) (fun _ _ => false) ∧
    (∃ v : V256, (∀ i j, i < 16 → j < 16 → (v.getLsbD (16 * i + j) = true ↔ ∃ n, path n i j)) ∧
      Does (.btClos d p) s (s.setB d v)) ∧
    (∃ v : V256, (∀ i j, i < 16 → j < 16 → (v.getLsbD (16 * i + j) = true ↔ i = j ∨ ∃ n, path n i j)) ∧
      Does (.btClosr d p) s (s.setB d v)) ∧
    counts (.btPopr a p) (fun i => ((List.range 16).filter fun j => x i j).length) ∧
    counts (.btPopc a p) (fun j => ((List.range 16).filter fun i => x i j).length) ∧
    Does (.btMvbv a p) s (s.setV a (s.b p)) ∧ Does (.btMvvb d a) s (s.setB d (s.v a))) ∧
  (∀ (s t : State) (d : BReg) (b : XReg) (imm : BitVec 20) (mm : MemMod) (bs : List (List Byte)),
    let va := s.x b + BitVec.ofInt 64 imm.toInt
    let words : List Word := [va, va + 8, va + 16, va + 24]
    (isGlobal va = false → va.toNat % 32 ≠ 0 → Traps (.btLd d b imm mm) s 2 va 0 ∧ Traps (.btSt d b imm mm) s 2 va 0) ∧
    (va.toNat % 32 = 0 → s.regionPage va = false →
      (s.loadElems 8 mm words = .ok bs t →
        Completes (.btLd d b imm mm) s fun u => Retires (t.setB d (BitVec.ofNat 256 (natOfBytes bs.flatten))) u (fallsTo t)) ∧
      (s.storeElems 8 mm (words.zip ((List.range 4).map fun i =>
          bytesOfNat 8 ((s.b d).extractLsb' (64 * i) 64).toNat)) = .ok () t →
        Completes (.btSt d b imm mm) s fun u => Retires t u (fallsTo t))))

/-! ## Tiles -/

/-- R139, R140, R77, R424: a tile that the strand may touch and no record owes is configured by the grant: rows and columns cut to
what the storage holds (`tcfg`), or refused beyond it (`tcfgr`); a refusal gives 0 and leaves the configuration. The storage
is kept when rows and bytes a row are as before, and cleared else. Other tiles stay, and the tile is claimed. -/
def Obligations.TileConfigure : Prop :=
  ∀ (s : State) (a c : XReg) (t : TReg),
    mayTouch s.core.town t.toNat s.me.slot = true → s.core.owesUse (.tile t) = false →
    let rows := (s.x c).toNat % 256
    let cols := (s.x c).toNat / 256 % 256
    let code := (s.x c).toNat / 65536 % 16
    let size := (tyOfCode code).bits / 8
    let bad : Bool := rows == 0 || cols == 0 || [3, 7, 13, 15].contains code
    let configures (i : Instr) (refused : Bool) : Prop :=
      let g : Nat := if refused then 0 else min rows 16 + 32 * min cols (64 / size) + 4096 * code + 65536
      Completes i s fun u => ∃ m : State, Retires m u (fallsTo s) ∧ m.mem = s.mem ∧
        (∀ r, m.x r = if r = 0 then 0 else if r = a then BitVec.ofNat 64 g else s.x r) ∧
        (m.core.cfg t).toNat = (if refused then (s.core.cfg t).toNat else g) ∧
        (m.core.tile t = if refused ∨ (cfgOn (s.core.cfg t) = true ∧ cfgRows (s.core.cfg t) = min rows 16 ∧
          cfgCols (s.core.cfg t) * cfgSize (s.core.cfg t) = min cols (64 / size) * size) then s.core.tile t else 0) ∧
        (∀ q, q ≠ t → m.core.cfg q = s.core.cfg q ∧ m.core.tile q = s.core.tile q) ∧
        townOwn m.core.town t.toNat = true ∧ (townOwn s.core.town t.toNat = false → townSlot m.core.town t.toNat = s.me.slot % 4) ∧
        (∀ r, m.v r = s.v r ∧ ∀ q, m.b q = s.b q)
    configures (.tcfg a t c) bad ∧ configures (.tcfgr a t c) (bad || decide (16 < rows) || decide (64 / size < cols))

/-- R77, R78, R63: a touch of a tile that is not configured traps with cause 8, SVAL its number, and one of a register that
another slot owns, or that is parked, with cause 9, SVAL the register and the owner.

R141, R146, R430, R435: `trel` of a register that the slot owns gives it up and clears its marks, of a free one does nothing,
of another's, or of its own while parked, traps with cause 9; `tzero` clears the storage of a configured tile, claims it and sets DIRTY. -/
def Obligations.TileOwnership : Prop :=
  (∀ (s : State) (a c : XReg) (t : TReg) (m : MaskMod) (r p : BitVec 4) (bd : BReg),
    (cfgOn (s.core.cfg t) = false →
      Traps (.tzero t) s 8 (BitVec.ofNat 64 t.toNat) 0 ∧ Traps (.tmvVr t r p m) s 8 (BitVec.ofNat 64 t.toNat) 0 ∧
      Traps (.tmvRv t r p m) s 8 (BitVec.ofNat 64 t.toNat) 0 ∧ Traps (.tmvVc t r p m) s 8 (BitVec.ofNat 64 t.toNat) 0 ∧
      Traps (.tmvCv t r p m) s 8 (BitVec.ofNat 64 t.toNat) 0 ∧ Traps (.ocmpEq bd t t) s 8 (BitVec.ofNat 64 t.toNat) 0) ∧
    (townOwn s.core.town t.toNat = true → townSlot s.core.town t.toNat ≠ s.me.slot ∨ townPark s.core.town t.toNat = true →
      let v := BitVec.ofNat 64 (t.toNat + 16 * townSlot s.core.town t.toNat)
      Traps (.tcfg a t c) s 9 v 0 ∧ Traps (.tcfgr a t c) s 9 v 0 ∧
      (cfgOn (s.core.cfg t) = true → Traps (.tzero t) s 9 v 0 ∧ Traps (.tmvVr t r p m) s 9 v 0 ∧ Traps (.tmvRv t r p m) s 9 v 0))) ∧
  (∀ (s : State) (r : BitVec 4) (t : TReg), r.toNat ≤ 11 →
    (townOwn s.core.town r.toNat = false → Does (.trel r) s s) ∧
    (townOwn s.core.town r.toNat = true → townSlot s.core.town r.toNat = s.me.slot → townPark s.core.town r.toNat = false →
      s.core.owesUse (State.namedReg r) = false →
      Completes (.trel r) s fun u => ∃ m : State, Retires m u (fallsTo s) ∧ m.mem = s.mem ∧
        townOwn m.core.town r.toNat = false ∧ townPark m.core.town r.toNat = false ∧ townDirty m.core.town r.toNat = false ∧
        (∀ k, k < 12 → k ≠ r.toNat → townGroup m.core.town k = townGroup s.core.town k) ∧
        (∀ q, m.core.tile q = s.core.tile q ∧ m.core.cfg q = s.core.cfg q)) ∧
    (townOwn s.core.town r.toNat = true → townSlot s.core.town r.toNat ≠ s.me.slot ∨ townPark s.core.town r.toNat = true →
      Traps (.trel r) s 9 (BitVec.ofNat 64 (r.toNat + 16 * townSlot s.core.town r.toNat)) 0) ∧
    (cfgOn (s.core.cfg t) = true → mayTouch s.core.town t.toNat s.me.slot = true → s.core.owesUse (.tile t) = false →
      Completes (.tzero t) s fun u => ∃ m : State, Retires m u (fallsTo s) ∧ m.core.tile t = 0 ∧
        m.core.cfg t = s.core.cfg t ∧ townOwn m.core.town t.toNat = true ∧ townDirty m.core.town t.toNat = true ∧
        (∀ q, q ≠ t → m.core.tile q = s.core.tile q) ∧ m.mem = s.mem ∧ ∀ x, m.x x = s.x x))

/-- R143, R144, R427: a tile load whose checks pass and whose elements are readable writes element (i, j), inside the grant, with
the element at base + i × stride + j × size (`tldt`: with i and j exchanged), claims the tile and sets DIRTY; other tiles, memory
and registers stay. `tldm` with an empty mask is `tld`; with a mask whose members are resident in the issuer's cluster, their
tiles configured as the issuer's, touchable and owed to no record, and sources in the LMs of the cluster, it writes the tile
of the issuer and of every member that the mask names, and no other core changes. A tile store writes its elements, or
pushes a command record when it is of one row of 64 bytes at the window's first address. -/
def Obligations.TileLoadsAndStores : Prop :=
  ∀ (s t1 : State) (t : TReg) (b c d : XReg) (imm : BitVec 20) (mm : MemMod) (bs : List (List Byte)),
    let g := s.core.cfg t
    let rows := cfgRows g
    let cols := cfgCols g
    let size := cfgSize g
    let base := s.x b + BitVec.ofInt 64 imm.toInt
    let stride (tr : Bool) : Word :=
      if c = 0 then BitVec.ofNat 64 ((if tr then rows else cols) * size) else s.x c
    let addrs (tr : Bool) : List Word := (List.range rows).flatMap fun i => (List.range cols).map fun j =>
      if tr then base + BitVec.ofNat 64 j * stride tr + BitVec.ofNat 64 (i * size)
      else base + BitVec.ofNat 64 i * stride tr + BitVec.ofNat 64 (j * size)
    let filled (k : Core) : Prop :=
      (∀ i j, i < rows → j < cols → imgElem (k.tile t) size i j = natOfBytes (bs.getD (i * cols + j) []) % 2 ^ (8 * size)) ∧
      townOwn k.town t.toNat = true ∧ townDirty k.town t.toNat = true ∧ k.cfg t = g
    rows ≤ 16 → cols * size ≤ 64 → s.core.owesUse (.tile t) = false →
    let loads (i : Instr) (tr : Bool) : Prop :=
      s.tileChecks t base (stride tr) tr = .ok () s → s.loadElems size mm (addrs tr) = .ok bs t1 → bs.length = rows * cols →
      t1.me = s.me → t1.core.cfg t = g →
      Completes i s fun u => ∃ m : State, Retires m u (fallsTo t1) ∧ filled m.core ∧
        (∀ q, q ≠ t → m.core.tile q = t1.core.tile q) ∧ m.mem = t1.mem ∧ (∀ r, m.x r = t1.x r) ∧ ∀ r, m.v r = t1.v r
    let named (w : Sid) : Prop := ∃ k, k < 64 ∧ (s.x d).getLsbD k = true ∧ s.memberAt k = some w
    let elems : List (Word × List Byte) := (List.range rows).flatMap fun i => (List.range cols).map fun j =>
      (base + BitVec.ofNat 64 i * stride false + BitVec.ofNat 64 (j * size), bytesOfNat size (s.core.elem t i j))
    loads (.tld t b c imm mm) false ∧ loads (.tldt t b c imm mm) true ∧
    (s.x d = 0 → s.strand.inRegion = false → s.computePhase = false → loads (.tldm t b c d imm mm) false) ∧
    (s.x d ≠ 0 → s.strand.inRegion = false → s.computePhase = false → s.tileChecks t base (stride false) false = .ok () s →
      (∀ k, k < 64 → (s.x d).getLsbD k = true → ∃ w, s.memberAt k = some w ∧ clusterOf w.core = clusterOf s.me.core ∧
        (s.coreAt w.core).cfg t = g ∧ mayTouch (s.coreAt w.core).town t.toNat w.slot = true ∧
        (s.coreAt w.core).owesUse (.tile t) = false) →
      (∀ va ∈ addrs false, s.castSource va = true) →
      s.loadElems size mm (addrs false) = .ok bs t1 → bs.length = rows * cols → t1.me = s.me →
      (∀ w, w = s.me ∨ named w → (t1.coreAt w.core).cfg t = g) →
      Completes (.tldm t b c d imm mm) s fun u => ∃ m : State, Retires m u (fallsTo t1) ∧
        (∀ w, w = s.me ∨ named w → filled (m.coreAt w.core) ∧ ∀ q, q ≠ t → (m.coreAt w.core).tile q = (t1.coreAt w.core).tile q) ∧
        (∀ n, (∀ w, w = s.me ∨ named w → w.core ≠ n) → m.coreAt n = t1.coreAt n) ∧
        m.mem = t1.mem ∧ m.strands = t1.strands) ∧
    (s.tileChecks t base (stride false) false = .ok () s → s.core.owesWrite (.tile t) = false →
      ¬ (base = 0x0200_0000 ∧ rows = 1 ∧ cols * size = 64) → s.storeElems size mm elems = .ok () t1 →
      Completes (.tst t b c imm mm) s fun u => Retires (t1.claimReg t.toNat) u (fallsTo t1)) ∧
    (s.tileChecks t base (stride false) false = .ok () s → s.core.owesWrite (.tile t) = false →
      base = 0x0200_0000 → rows = 1 → cols * size = 64 → mm.order = .plain →
      s.core.matrix.queue.length + (if s.core.matrix.run.isSome then 1 else 0) < 16 →
      Completes (.tst t b c imm mm) s fun u => ∃ m : State, Retires m u (fallsTo s) ∧
        (∃ r : Rec512, m.core.matrix.queue = s.core.matrix.queue ++ [⟨r, true⟩] ∧
          (∀ k, k < 37 ∨ 39 ≤ k → k < 512 → r.getLsbD k = (s.core.tile t).getLsbD k) ∧ Rec.slot r = s.me.slot % 4) ∧
        m.mem = s.mem)

/-- R145: the moves between a row or a column of a configured, touchable tile and a pair of vector registers. Into the tile,
element q of the row (column) inside the grant takes lane q under the mask; out of it, lane q takes element q as read, and
the lanes beyond the columns (beyond 16) are 0. That `tcomp` leaves the storage beyond the grant is the model's (entry
19).

R155, R425: `tcomp` of a tile of an admitted type gives the destination the source's configuration and, in each granted row,
the kept values and their positions as `compRow` has them; the source stays. -/
def Obligations.TileMovesAndCompress : Prop :=
  (∀ (s : State) (t : TReg) (r p : BitVec 4) (m : MaskMod),
    let g := s.core.cfg t
    let size := cfgSize g
    let pair (k : State) (q : Nat) : Nat := field (k.v (oddOf p) ++ k.v (evenOf p)) (8 * size * q) (8 * size)
    cfgOn g = true → mayTouch s.core.town t.toNat s.me.slot = true → cfgRows g ≤ 16 → cfgCols g * size ≤ 64 →
    let into (i : Instr) (n : Nat) (at_ : Nat → Nat × Nat) : Prop := s.core.owesUse (.tile t) = false →
      Completes i s fun u => ∃ k : State, Retires k u (fallsTo s) ∧ k.mem = s.mem ∧ k.core.cfg t = g ∧
        (∀ q, q < n → (at_ q).1 < cfgRows g → (at_ q).2 < cfgCols g →
          imgElem (k.core.tile t) size (at_ q).1 (at_ q).2 =
            if s.active m q then pair s q else if zeroing m then 0 else imgElem (s.core.tile t) size (at_ q).1 (at_ q).2) ∧
        (∀ i j, i < 16 → (j + 1) * size ≤ 64 → (∀ q, q < n → at_ q ≠ (i, j)) →
          imgElem (k.core.tile t) size i j = imgElem (s.core.tile t) size i j) ∧
        (∀ q, q ≠ t → k.core.tile q = s.core.tile q)
    let out (i : Instr) (n : Nat) (at_ : Nat → Nat × Nat) : Prop := s.core.owesWrite (.tile t) = false →
      Completes i s fun u => ∃ k : State, Retires k u (fallsTo s) ∧ k.mem = s.mem ∧ k.core.tile t = s.core.tile t ∧
        (∀ q, q < 64 / size → pair k q =
          if n ≤ q then 0 else if s.active m q then s.core.elem t (at_ q).1 (at_ q).2 % 2 ^ (8 * size)
          else if zeroing m then 0 else pair s q) ∧
        ∀ x : VReg, x ≠ oddOf p → x ≠ evenOf p → k.v x = s.v x
    into (.tmvVr t r p m) 64 (fun q => (r.toNat, q)) ∧ into (.tmvVc t r p m) 16 (fun q => (q, r.toNat)) ∧
    out (.tmvRv t r p m) (cfgCols g) (fun q => (r.toNat, q)) ∧ out (.tmvCv t r p m) 16 (fun q => (q, r.toNat))) ∧
  (∀ (s : State) (t u : TReg),
    let g := s.core.cfg u
    let n := cfgCols g * cfgSize g
    cfgOn g = true → State.compTypes.contains (cfgTy g) = true → mayTouch s.core.town t.toNat s.me.slot = true →
    mayTouch s.core.town u.toNat s.me.slot = true → s.core.owesUse (.tile t) = false → s.core.owesUse (.tile u) = false →
    s.core.owesWrite (.book 0) = false → cfgRows g ≤ 16 → n ≤ 64 →
    let compresses (i : Instr) (k : Nat) : Prop :=
      Completes i s fun w => ∃ m : State, Retires m w (fallsTo s) ∧ m.core.cfg t = g ∧ m.mem = s.mem ∧
        (∀ r, r < cfgRows g → field (m.core.tile t) (512 * r) (8 * n) = State.compRow s.core u k r % 2 ^ (8 * n)) ∧
        (∀ q, q ≠ t → m.core.tile q = s.core.tile q) ∧ townDirty m.core.town t.toNat = true
    compresses (.tcomp24 t u) 4 ∧ compresses (.tcomp48 t u) 8)

/-- R163 to R167, R393: an outer comparison of two configured, touchable tiles of one type writes bit (i, j) with the relation of
element i of the first tile's row 0 and element j of the second's; a signalling NaN raises NV for the quiet relations. -/
def Obligations.OuterComparisons : Prop :=
  ∀ (s : State) (bd : BReg) (t u : TReg),
    let ty := cfgTy (s.core.cfg t)
    let x (i : Nat) : Nat := s.core.elem t 0 i
    let y (j : Nat) : Nat := s.core.elem u 0 j
    cfgOn (s.core.cfg t) = true → cfgOn (s.core.cfg u) = true → cfgTy (s.core.cfg u) = ty → ty ≠ .cb4 →
    mayTouch s.core.town t.toNat s.me.slot = true → mayTouch s.core.town u.toNat s.me.slot = true →
    s.core.owesWrite (.tile t) = false → s.core.owesWrite (.tile u) = false →
    let snan : Bool := !ty.isInt && (List.range 16).any fun i =>
      ((tyFmt ty).decode (x i)).isSNaN || ((tyFmt ty).decode (y i)).isSNaN
    let compares (i : Instr) (r : State.ORel) (quiet : Bool) : Prop :=
      let fl : Word := if quiet && snan then fNV else 0
      (fl &&& s.te = 0 → ∃ v : V256,
        (∀ i j, i < 16 → j < 16 → v.getLsbD (16 * i + j) = State.orel r ty s.env (x i) (y j) i j) ∧
        Completes i s fun w => ∃ m : State, Retires m w (fallsTo s) ∧ (∀ q, m.b q = if q = bd then v else s.b q) ∧
          m.strand.csr.fflags = s.strand.csr.fflags ||| fl ∧ (∀ q, m.core.tile q = s.core.tile q) ∧ m.mem = s.mem ∧
          ∀ q, m.x q = s.x q) ∧
      (fl &&& s.te ≠ 0 → Traps i s 16 (fl &&& s.te) fl)
    compares (.ocmpEq bd t u) (.rel .eq) true ∧ compares (.ocmpNe bd t u) (.rel .ne) true ∧
    compares (.ocmpLt bd t u) (.rel .lt) true ∧ compares (.ocmpLe bd t u) (.rel .le) true ∧
    compares (.ocmpGt bd t u) (.rel .gt) true ∧ compares (.ocmpGe bd t u) (.rel .ge) true ∧
    compares (.ocmpUnord bd t u) .unord true ∧ compares (.ocmpOrd bd t u) .ord true ∧
    compares (.ocmpTeq bd t u) .teq false ∧ compares (.ocmpTlt bd t u) .tlt false ∧ compares (.ocmpTle bd t u) .tle false ∧
    compares (.ocmpTltx bd t u) .tltx false ∧ compares (.ocmpTgtx bd t u) .tgtx false

/-- R142, R433, R434: in S and M `tsv` writes a register's save image, a tile's 1,024 bytes and its TCFG word or an accumulator's two
chains, 8 bytes at a time, and clears DIRTY; `trs` reads one back. In U both trap with cause 1. -/
def Obligations.SaveAndRestoreRegister : Prop :=
  ∀ (s s1 t : State) (r : BitVec 4) (b : XReg) (imm : BitVec 20) (ps : List (Word × Machine.Place)) (bs : List (List Byte)),
    let ea := s.x b + BitVec.ofInt 64 imm.toInt
    let n := if r.toNat < 8 then 129 else 256
    let at_ : List Word := (List.range n).map fun i => ea + BitVec.ofNat 64 (8 * i)
    let words : List (List Byte) := (List.range n).map fun i => ((State.imageBytes s1.core r).drop (8 * i)).take 8
    (s.strand.mode = .U → Traps (.tsv r b imm) s 1 s.latch.first 0 ∧ Traps (.trs r b imm) s 1 s.latch.first 0) ∧
    (s.strand.mode ≠ .U → ea.toNat % 8 ≠ 0 → Traps (.tsv r b imm) s 2 ea 0 ∧ Traps (.trs r b imm) s 2 ea 0) ∧
    (s.strand.mode ≠ .U → ea.toNat % 8 = 0 → s.checkEach .store 8 at_ = .ok ps s1 →
      s1.core.owesWrite (State.namedReg r) = false → s1.storeEach MemMod.none (ps.zip words) = .ok () t →
      Completes (.tsv r b imm) s fun u => Retires (t.dirty r.toNat false) u (fallsTo t)) ∧
    (s.strand.mode ≠ .U → ea.toNat % 8 = 0 → s.checkEach .load 8 at_ = .ok ps s1 →
      s1.core.owesUse (State.namedReg r) = false → s1.loadEach 8 MemMod.none ps = .ok bs t →
      Completes (.trs r b imm) s fun u =>
        Retires ((t.withCore fun c => State.restoreImage c r bs.flatten).dirty r.toNat false) u (fallsTo t))

/-! ## Random numbers -/

/-- R252 to R256, R259, R405: `rng` takes two words of the counter table from an even element on and adds 2 to the counter, `vrng`
eight words from a multiple of 8 on and adds 8, an inactive lane consuming its word. A word is that of the Philox block with the
keys, or of the table in the strand's LM. A counter that wraps becomes 0 and sets RNGMODE[1], or traps with cause 15. -/
def Obligations.RandomForms : Prop :=
  ∀ (s : State) (ty : ETy) (a : XReg) (d : VReg) (b : XReg) (m : MaskMod),
    let r := s.strand.csr
    let t := (s.x (b + 1)).toNat % 2 ^ 32
    let word (e : Nat) : Nat :=
      if r.rngmode.getLsbD 0 then
        Memory.nat s.core.lm ((field r.rngtab 4 12 * 16 + 16 * (e / 4 % 2 ^ 32 % 64) + 4 * (e % 4)) % 65536) 4
      else (philox r.rngkeylo.toNat r.rngkeyhi.toNat [e / 4 % 2 ^ 32, e / 4 / 2 ^ 32 % 2 ^ 32, t, 0]).getD (e % 4) 0
    let e := (s.x b).toNat / 2 * 2
    let f := (s.x b).toNat / 8 * 8
    let wrapped : State := s.modCsr fun c => { c with rngmode := c.rngmode ||| 2 }
    (r.rngmode.getLsbD 0 = false ∨ s.computePhase = false) →
      (e + 2 ≠ 2 ^ 64 → Does (.rng a b) s ((s.setX a (BitVec.ofNat 64 (word e + 2 ^ 32 * word (e + 1)))).setX b (BitVec.ofNat 64 (e + 2)))) ∧
      (e + 2 = 2 ^ 64 → r.rngmode.getLsbD 2 = false →
        Does (.rng a b) s ((wrapped.setX a (BitVec.ofNat 64 (word e + 2 ^ 32 * word (e + 1)))).setX b 0)) ∧
      (e + 2 = 2 ^ 64 → r.rngmode.getLsbD 2 = true → Traps (.rng a b) s 15 0 0) ∧
      (∃ v : V256, (∀ j, j < 8 → lane v 32 j = masked s m (s.v d) 32 (fun i => word (f + i) % 2 ^ 32) j) ∧
        (f + 8 ≠ 2 ^ 64 → Does (.vrng ty d b m) s ((s.setV d v).setX b (BitVec.ofNat 64 (f + 8)))) ∧
        (f + 8 = 2 ^ 64 → r.rngmode.getLsbD 2 = false → Does (.vrng ty d b m) s ((wrapped.setV d v).setX b 0))) ∧
      (f + 8 = 2 ^ 64 → r.rngmode.getLsbD 2 = true → Traps (.vrng ty d b m) s 15 0 0)

/-! ## The matrix engine's queue -/

/-- R149, R152, R154, R157 to R159, R382, R383, R385, R387 to R389, R391, R420: with its tiles configured with their types and touchable, its
accumulator touchable and room in the queue, an instruction of the matrix engine appends its command record and claims its
registers, and nothing else changes. `mcb` and `mpush` claim nothing; `msync` completes when the slot has no record left and
waits else; `mqs` writes the state of the queue. -/
def Obligations.MatrixRecords : Prop :=
  ∀ (s : State) (n : AReg) (t u : TReg) (c d : XReg) (ka kb : KReg) (b : VReg) (p : BitVec 4) (ty : ETy) (k2 : BitVec 2),
    let q := s.core.matrix
    let len := q.queue.length + (if q.run.isSome then 1 else 0)
    let pair (r : TReg) (y : ETy) : List (TReg × ETy) := [(r, y), (r + 1, y)]
    let queues (i : Instr) (kind form : Nat) (tiles : List (TReg × ETy)) (accs : List AReg) (ta tb : TReg) (ka kb : KReg)
        (xd : XReg) (scl : Bool) (data : V256) : Prop :=
      len < 16 → (∀ r ∈ tiles, cfgOn (s.core.cfg r.1) = true ∧ cfgTy (s.core.cfg r.1) = r.2) →
      (∀ r ∈ tiles, mayTouch s.core.town r.1.toNat s.me.slot = true) →
      (∀ r ∈ accs, mayTouch s.core.town (8 + r.toNat) s.me.slot = true) →
      Completes i s fun w => ∃ m : State, Retires m w (fallsTo s) ∧
        m.core.matrix = { q with queue := q.queue ++
          [⟨Rec.make kind form n ka kb ta tb xd.toNat s.me.slot scl s.strand.csr.fpc data, false⟩] } ∧
        (∀ r ∈ tiles, townOwn m.core.town r.1.toNat = true) ∧ (∀ r ∈ accs, townOwn m.core.town (8 + r.toNat) = true) ∧
        { m.core with matrix := q, town := s.core.town } = s.core ∧ m.strand = s.strand ∧ m.mem = s.mem
    let scales (r : XReg) : V256 := if r = 0 then 0 else s.x (r + 3) ++ s.x (r + 2) ++ s.x (r + 1) ++ s.x r
    let mma (i : Instr) (kind form : Nat) (ts : List (TReg × ETy)) (ka kb : KReg) (xd : XReg) : Prop :=
      queues i kind form ts [n] t u ka kb xd (xd != 0) (scales xd)
    mma (.mmaE4e4 n t u c) 2 0 [(t, .e4), (u, .e4)] 0 0 c ∧ mma (.mmaE4e5 n t u c) 2 1 [(t, .e4), (u, .e5)] 0 0 c ∧
    mma (.mmaE5e4 n t u c) 2 2 [(t, .e5), (u, .e4)] 0 0 c ∧ mma (.mmaE5e5 n t u c) 2 3 [(t, .e5), (u, .e5)] 0 0 c ∧
    mma (.mmaBfbf n t u) 2 4 [(t, .bf), (u, .bf)] 0 0 0 ∧ mma (.mmaHfhf n t u) 2 5 [(t, .hf), (u, .hf)] 0 0 0 ∧
    mma (.mmaF32 n t u) 2 6 [(t, .f32), (u, .f32)] 0 0 0 ∧ mma (.mmaI8i8 n t u c) 2 7 [(t, .i8), (u, .i8)] 0 0 c ∧
    mma (.mmaI8n8 n t u c) 2 8 [(t, .i8), (u, .n8)] 0 0 c ∧ mma (.mmaCbcb n t u ka kb) 2 9 [(t, .cb4), (u, .cb4)] ka kb 0 ∧
    mma (.mmaCbe4 n t u ka) 2 10 ((t, .cb4) :: pair u .e4) ka 0 0 ∧
    mma (.mmaCbbf n t u ka) 2 11 ((t, .cb4) :: (pair u .bf ++ pair (u + 2) .bf)) ka 0 0 ∧
    mma (.mmaMx8 n t u c) 2 12 [(t, .e4), (u, .e4)] 0 0 c ∧ mma (.mmaMx6 n t u c) 2 13 [(t, .n8), (u, .n8)] 0 0 c ∧
    mma (.mmaMx4 n t u c) 2 14 [(t, .n8), (u, .n8)] 0 0 c ∧ mma (.mmaMxi8 n t u c) 2 15 [(t, .i8), (u, .i8)] 0 0 c ∧
    mma (.smmaE4e4 n t u c) 3 0 (pair t .e4 ++ pair u .e4) 0 0 c ∧ mma (.smmaBfbf n t u) 3 1 (pair t .bf ++ pair u .bf) 0 0 0 ∧
    mma (.smmaI8i8 n t u c) 3 2 (pair t .i8 ++ pair u .i8) 0 0 c ∧
    mma (.smmaCbcb n t u ka kb) 3 3 (pair t .cb4 ++ pair u .cb4) ka kb 0 ∧
    queues (.mzero n) 1 0 [] [n] 0 0 0 0 0 false 0 ∧
    queues (.mdrain ty t n) 4 ty.code.toNat [(t, ty)] [n] t 0 0 0 0 false 0 ∧
    queues (.mdraint k2 t n u d) 5 k2.toNat [(t, draintTy k2.toNat), (u, draintTy k2.toNat)] [n] t u 0 0 d false 0 ∧
    (s.strand.mode = .M → queues (.mdrainMx t n d) 7 0 [(t, .e4)] [n] t 0 0 0 d false 0) ∧
    (s.strand.mode ≠ .M → Traps (.mdrainMx t n d) s 1 s.latch.first 0) ∧
    (len < 16 → Does (.mcb ka b) s (s.withCore fun e => { e with matrix := { q with queue := q.queue ++
      [⟨Rec.make 6 0 0 ka 0 0 0 0 s.me.slot false s.strand.csr.fpc (s.v b), false⟩] } })) ∧
    (len < 16 → ∃ r : Rec512,
      (∀ j, j < 37 ∨ 39 ≤ j → j < 512 → r.getLsbD j = (s.v (oddOf p) ++ s.v (evenOf p)).getLsbD j) ∧ Rec.slot r = s.me.slot % 4 ∧
      Does (.mpush p) s (s.withCore fun e => { e with matrix := { q with queue := q.queue ++ [⟨r, true⟩] } })) ∧
    (16 ≤ len → Holds (.mcb ka b) s ∧ Holds (.mpush p) s) ∧
    let mine := ((q.run.toList.map fun r => r.cmd.bits) ++ q.queue.map MRec.bits).filter fun r => Rec.slot r == s.me.slot
    (mine = [] → Does .msync s s) ∧ (mine ≠ [] → Holds .msync s) ∧
    (s.computePhase = true → Traps (.mqs c) s 13 s.strand.pc 0) ∧
    (s.computePhase = false → ∃ w : Word, Does (.mqs c) s (s.setX c w) ∧
      (len ≤ 31 → field w 0 5 = len) ∧ (mine.length ≤ 31 → len ≤ 31 → field w 5 5 = mine.length) ∧
      (len ≤ 31 → w.getLsbD 10 = q.run.isSome ∧ w.getLsbD 11 = (List.range 4).any fun k => !(vgetN q.held k).isEmpty) ∧
      (len ≤ 31 → field w 12 52 = 0))

/-! ## Atomics -/

/-- R194, R332 to R335: on an aligned word, outside a region, a compute phase and a provisional piece, with no order, an atomic
writes the word as it was, sign-extended, to X[A] and stores its function of it and X[D] (`amocas` only where the word equals
X[A]); every other byte of memory and of every LM, and every other register, stays. Its word is one of the strand's own LM, or one of memory (the place that the
checks give), no copy of whose line stands in the core.

R204, R223, R476: a plain `wait` on an aligned word of the strand's own LM, or on one of memory of which the core holds no copy,
completes when the word satisfies the condition and changes nothing; else it stays in the watch table. -/
def Obligations.AtomicAndWaitForms : Prop :=
  (∀ (s : State) (w32 : Bool) (a b d : XReg) (imm : BitVec 20) (mm : MemMod), Canonical s →
    let va := s.x b + BitVec.ofInt 64 imm.toInt
    let n := if w32 then 4 else 8
    let w := 8 * n
    let x := (s.x d).toNat % 2 ^ w
    let int (v : Nat) : Int := (BitVec.ofNat w v).toInt
    mm.order = .plain → va.toNat % n = 0 → s.strand.inRegion = false → s.computePhase = false → s.provisional s.me = false →
    let atomic (i : Instr) (new : Nat → Nat × Word) (stores : Nat → Bool) : Prop :=
      (∀ off, va.toNat = off → off < 65536 → s.blockedBy (.lm s.me.core (off / 8 * 8)) true = false →
        let old := Memory.nat s.core.lm off n
        Completes i s fun t => ∃ m : State, Retires m t (fallsTo s) ∧ m.mem = s.mem ∧
          (∀ r, m.x r = if r = 0 then 0 else if r = a then BitVec.ofInt 64 (int old) else s.x r) ∧
          (∀ q, Memory.read m.core.lm q =
            if stores old ∧ off ≤ q ∧ q < off + n then BitVec.ofNat 8 ((new old).1 / 2 ^ (8 * (q - off))) else Memory.read s.core.lm q) ∧
          m.strand.csr.fflags = s.strand.csr.fflags ||| (new old).2 ∧ (∀ r, m.v r = s.v r) ∧ (∀ r, m.b r = s.b r) ∧
          ∀ c, c ≠ s.me.core → (m.coreAt c).lm = (s.coreAt c).lm) ∧
      (∀ l s1, isGlobal va = true → s.element .store true va n = .ok (.glob l) s1 → l.ty ≠ 3 → s1.isOwn l = true →
        s1.me = s.me → s1.mem = s.mem → s1.strand = s.strand → s1.latch = s.latch → s1.provisional s1.me = false →
        s1.lineBad (l.pa / 32) = false → (∀ f ∈ s1.flights, f.done = true) → s1.blockedBy (.line (l.pa / 32 * 32)) true = false →
        s1.l1Find s1.me.core (l.pa / 32) = none → (s1.core.wbuf.all fun e => e.line != l.pa / 32) = true →
        let old := s.mem.nat l.pa n
        Completes i s fun t => ∃ m : State, Retires m t (fallsTo s) ∧
          (∀ r, m.x r = if r = 0 then 0 else if r = a then BitVec.ofInt 64 (int old) else s.x r) ∧
          (∀ q, m.mem.read q =
            if stores old ∧ l.pa ≤ q ∧ q < l.pa + n then BitVec.ofNat 8 ((new old).1 / 2 ^ (8 * (q - l.pa))) else s.mem.read q) ∧
          m.strand.csr.fflags = s.strand.csr.fflags ||| (new old).2 ∧ (∀ r, m.v r = s.v r) ∧ (∀ r, m.b r = s.b r) ∧
          ∀ c, (m.coreAt c).lm = (s.coreAt c).lm)
    let fp (f : Fmt) (old : Nat) : Nat × Word := f.add ⟨.rne, false, false, false⟩ (f.read ⟨.rne, false, false, false⟩ old)
      (f.read ⟨.rne, false, false, false⟩ x)
    atomic (.amoadd w32 a b d imm mm) (fun old => ((old + x) % 2 ^ w, 0)) (fun _ => true) ∧
    atomic (.amoswap w32 a b d imm mm) (fun _ => (x, 0)) (fun _ => true) ∧
    atomic (.amocas w32 a b d imm mm) (fun _ => (x, 0)) (fun old => old == (s.x a).toNat % 2 ^ w) ∧
    atomic (.amoand w32 a b d imm mm) (fun old => (old &&& x, 0)) (fun _ => true) ∧
    atomic (.amoor w32 a b d imm mm) (fun old => (old ||| x, 0)) (fun _ => true) ∧
    atomic (.amoxor w32 a b d imm mm) (fun old => (old ^^^ x, 0)) (fun _ => true) ∧
    atomic (.amomin w32 a b d imm mm) (fun old => (if int old ≤ int x then old else x, 0)) (fun _ => true) ∧
    atomic (.amomax w32 a b d imm mm) (fun old => (if int old ≤ int x then x else old, 0)) (fun _ => true) ∧
    atomic (.amominu w32 a b d imm mm) (fun old => (min old x, 0)) (fun _ => true) ∧
    atomic (.amomaxu w32 a b d imm mm) (fun old => (max old x, 0)) (fun _ => true) ∧
    atomic (.amofadd w32 a b d imm mm) (fp (if w32 then .f32 else .f64)) (fun _ => true)) ∧
  (∀ (s : State) (a b : XReg) (cond : BitVec 3) (imm : BitVec 20) (mm : MemMod),
    let va := s.x b + BitVec.ofInt 64 imm.toInt
    let holds (v : Nat) : Prop :=
      let m : Word := BitVec.ofNat 64 v
      match cond.toNat with
      | 0 => m = s.x a
      | 1 => m ≠ s.x a
      | 2 => m.toInt < (s.x a).toInt
      | 3 => (s.x a).toInt ≤ m.toInt
      | 4 => m.toNat < (s.x a).toNat
      | _ => (s.x a).toNat ≤ m.toNat
    let waits (t : State) : Prop := t.strand.sync.held = true ∧ t.strand.sync.watch.isSome = true ∧ t.strand.pc = s.strand.pc ∧
      (∀ r, t.x r = s.x r) ∧ t.mem = s.mem
    mm.order = .plain → va.toNat % 8 = 0 → s.strand.inRegion = false → s.computePhase = false → s.unacked s.me = false →
    s.strand.sync.watch = none →
    (∀ off, va.toNat = off → off < 65536 → s.blockedBy (.lm s.me.core off) false = false → s.tagAt (.lm s.me.core off) = none →
      (holds (Memory.nat s.core.lm off 8) → Does (.wait a b cond imm mm) s (s.barShared s.me)) ∧
      (¬ holds (Memory.nat s.core.lm off 8) → Completes (.wait a b cond imm mm) s waits)) ∧
    (∀ l s1, place s .load false va 8 = .ok (.glob l) s1 → isGlobal va = true → l.ty ≠ 3 → s1.isOwn l = true → s1.me = s.me →
      s1.mem = s.mem → s1.strand = s.strand → s1.latch = s.latch → s1.lineBad (l.pa / 32) = false → s1.unacked s1.me = false →
      s1.blockedBy (.line (l.pa / 32 * 32)) false = false → s1.tagAt (.line (l.pa / 32 * 32)) = none →
      s1.l1Find s1.me.core (l.pa / 32) = none → (s1.core.wbuf.all fun e => e.line != l.pa / 32) = true →
      (holds (s.mem.nat l.pa 8) → Completes (.wait a b cond imm mm) s fun t => ∃ m : State, Retires m t (fallsTo s) ∧
        m.mem = s.mem ∧ ∀ r, m.x r = s.x r) ∧
      (¬ holds (s.mem.nat l.pa 8) → Completes (.wait a b cond imm mm) s waits)))

/-! ## Waiting, barriers and wires -/

/-- R206 to R209, R337, R338: the named barriers, with the home core reachable, outside a region, no message of the mesh on its way
(R177), and messages performed at once.
`bar.cfg` sets the counts; an arrival joins the phase and takes its token; the last one flips the phase, starts the next and
releases the tokens of the old one; `bar.wait` drops a released token and waits for another; `bar.sync` does both. That
nothing is posted is the turn's choice (entry 10), and that a count of 257 to 511 is the bad count that SVAL holds, with
reason 5, is the model's reading (entry 38). -/
def Obligations.BarrierForms : Prop :=
  ∀ (s : State) (a b : XReg),
    let id := s.x a
    let home := fieldOf s.me.core * 256 + id.toNat / 256 % 256
    let slot := id.toNat % 256
    let k := s.barAt home slot
    let last := k.arr + 1 = k.n
    let cnt := (s.x b).toNat
    let y := s.strand.sync
    id.toNat < 65536 → s.reachable home = true → s.strand.live = true → s.strand.inRegion = false → s.turn.post = false →
    s.barInFlight = false → (∀ f ∈ s.flights, s.meshTo f = none) → y.reply = none →
    (cnt ≤ 256 → Does (.barCfg a b) s (s.setBar home slot
      (if k.arr = 0 then { k with n := cnt, nx := cnt, lnum := s.strand.ident.lnum } else { k with nx := cnt }))) ∧
    (256 < cnt → cnt < 512 → Traps (.barCfg a b) s 14 (BitVec.ofNat 64 (5 + 256 * cnt)) 0) ∧
    (let free := k.n ≠ 0 ∧ k.lnum = s.strand.ident.lnum ∧ ∀ t ∈ y.token, t.released = true
      let arrived (m : State) : Prop :=
        m.barAt home slot =
          (if last then { k with ph := !k.ph, arr := 0, n := k.nx, cores := [] }
            else { k with arr := k.arr + 1, cores := if k.cores.contains s.me.core then k.cores else k.cores ++ [s.me.core] }) ∧
        (last → ∀ w : Sid, w.slot < 4 → w.key ≠ s.me.key → ∀ t, (s.strandAt w).sync.token = some t →
          t.id = id → t.phase = k.ph → t.core ∈ k.cores → fieldOf t.core = fieldOf home →
          (m.strandAt w).sync.token = some { t with released := true, sent := true }) ∧
        m.mem = s.mem ∧ ∀ r, m.x r = s.x r
      (free → s.me.slot < 4 → Completes (.barArr a) s fun t => ∃ m : State, Retires m t (fallsTo s) ∧ arrived m ∧
        m.strand.sync.token = some ⟨id, k.ph, decide last, s.me.core, decide last⟩) ∧
      (k.n = 0 ∨ k.lnum ≠ s.strand.ident.lnum → (∀ t ∈ y.token, t.released = true) →
        Traps (.barArr a) s 14 (BitVec.ofNat 64 (4 + 256 * id.toNat)) 0) ∧
      (free → last → s.me.slot < 4 → y.began = false → Completes (.barSync a) s fun t => ∃ m : State, Retires m t (fallsTo s) ∧ arrived m ∧
        m.strand.sync.token = none) ∧
      (free → ¬ last → y.began = false → Completes (.barSync a) s fun t =>
        t.strand.sync.held = true ∧ t.strand.sync.token = some ⟨id, k.ph, false, s.me.core, false⟩ ∧ t.strand.pc = s.strand.pc)) ∧
    (∀ t, y.token = some t → t.id = id →
      (t.released = true → Does (.barWait a) s (s.withStrand fun p => { p with sync := { p.sync with token := none } })) ∧
      (t.released = false → Holds (.barWait a) s)) ∧
    ((∀ t, y.token = some t → t.id ≠ id) → Does (.barWait a) s s)

/-- R30, R210, R211, R473, R474: a wire barrier that the piece's width admits completes, when nothing is posted, once every other
member of its extent has arrived, and releases them; until then the strand waits with its arrival made. `vxchg` of a run of eight
cores completes once the other members of the run have arrived, and gives lane j of the result the member's chunk of operand j.
That nothing is posted is the turn's choice (entry 10), and that SVAL of a barrier that the width does not admit has operand 0 is
the model's reading (entry 39). -/
def Obligations.WireForms : Prop :=
  ∀ (s : State) (ty : ETy) (a b : VReg) (d : XReg) (m : MaskMod),
    let i := s.strand.ident
    let y := s.strand.sync
    (let barrier (ins : Instr) (kind : Nat) : Prop :=
      let extent := State.extentCores i.width s.me.core kind
      s.strand.inRegion = false →
      (State.wireAdmits kind i.width = false → Traps ins s 14 9 0) ∧
      (State.wireAdmits kind i.width = true → y.began = false → y.wireRel = false → y.wire = 0 → s.turn.post = false →
        s.claimWires.isSome = true → s.wireBusy kind = false → s.memberOn i s.me.core = some (s.me.key, s.strand) →
        ((∀ c ∈ extent, c ≠ s.me.core → s.arrivedOn i kind c = true) →
          Completes ins s fun t => ∃ k : State, Retires k t (fallsTo s) ∧ k.strand.sync.wire = 0 ∧ k.mem = s.mem ∧
            (∀ c ∈ extent, c ≠ s.me.core → ∃ q, k.wireMember i c = some q ∧ q.sync.wireRel = true) ∧
            (∀ r, k.x r = s.x r) ∧ ∀ r, k.v r = s.v r) ∧
        (s.me.core ∈ extent → (∃ c ∈ extent, c ≠ s.me.core ∧ s.arrivedOn i kind c = false) →
          Completes ins s fun t => t.strand.sync.held = true ∧ t.strand.sync.wire = kind ∧ t.strand.pc = s.strand.pc ∧
            t.mem = s.mem ∧ ∀ r, t.x r = s.x r))
     barrier .wbarRow 1 ∧ barrier .wbarCol 2 ∧ barrier .wbarRc 3) ∧
    (s.computePhase = false → 32 ≤ (s.x d).toNat → Traps (.vxchg ty a b d m) s 14 (BitVec.ofNat 64 (8 + 256 * ((s.x d).toNat % 2 ^ 56))) 0) ∧
    (let g := (s.x d).toNat
      let core (p : Nat) : Nat := fieldOf s.me.core * 256 + 16 * (g / 2) + 8 * (g % 2) + p
      let pos := s.me.core % 16 % 8
      s.computePhase = false → g < 32 → y.began = false → y.xIn = none → core pos = s.me.core →
      s.memberOn i s.me.core = some (s.me.key, s.strand) →
      ∀ ops : Nat → V256, ops pos = s.v b →
        ((∀ p, p < 8 → p ≠ pos → ∃ q, s.memberOn i (core p) = some q ∧ q.2.sync.xIn = some (g, ops p)) →
          Completes (.vxchg ty a b d m) s fun t => ∃ (k : State) (o v : V256), Retires k t (fallsTo s) ∧ k.mem = s.mem ∧
            (∀ j, j < 8 → lane o 32 j = lane (ops j) 32 pos) ∧
            (∀ j, j < ty.lanes → lane v ty.bits j = masked s m (s.v a) ty.bits (lane o ty.bits) j) ∧
            (∀ r, k.v r = if r = a then v else s.v r) ∧ ∀ r, k.x r = s.x r) ∧
        ((∀ p, p < 8 → (s.memberOn i (core p)).isSome = true) →
          (∃ p, p < 8 ∧ p ≠ pos ∧ ∃ q, s.memberOn i (core p) = some q ∧ q.2.sync.xIn = none) →
          Completes (.vxchg ty a b d m) s fun t => t.strand.sync.held = true ∧ t.strand.sync.xIn = some (g, s.v b) ∧
            t.strand.pc = s.strand.pc ∧ ∀ r, t.v r = s.v r))

/-! ## Channels and queues -/

/-- R213 to R217, R401, R411: in a launch that declares the channel with the form's payload, outside a region and a compute phase,
with messages performed at once and none of the mesh on its way (R177): a send to a strand with a free slot puts its message last in that strand's inbound queue and
completes; a receive takes the oldest message of the channel and its slot goes to a message that waits; without one `recv` waits and
`recvt` writes 0 to X[D]. That nothing is posted is the turn's choice (entry 10). -/
def Obligations.ChannelForms : Prop :=
  ∀ (s : State) (a b d : XReg) (va : VReg) (n : Nat),
    let spec := s.x b
    let ch := spec.toNat % 64
    let dest : Rank := ⟨s.strand.ident.lnum, spec.toNat / 64 % 8, spec.toNat / 1024 % 2 ^ 32⟩
    let sends (i : Instr) (wide : Bool) (v : V256) : Prop :=
      s.channel s.strand.ident.lnum ch = some (n, wide) → spec.getLsbD 9 = false → spec.toNat < 2 ^ 42 →
      s.strand.live = true → s.strand.sync.began = false → s.strand.sync.sendOut = false → s.turn.post = false →
      (∀ f ∈ s.flights, s.meshTo f = none) → ∀ r, s.ofRank dest = some r →
        (s.slotFree dest ch = true → (s.flights.all fun f => match f.msg with
            | .chanWait _ q c _ => !(q == dest && c == ch)
            | _ => true) = true →
          Completes i s fun t => ∃ m r', Retires m t (fallsTo s) ∧ m.ofRank dest = some r' ∧
            r'.inbound = r.inbound ++ [⟨ch, v, false⟩] ∧ m.mem = s.mem ∧ m.flights = s.flights ∧ ∀ q, m.x q = s.x q) ∧
        (s.slotFree dest ch = false → Completes i s fun t => t.strand.sync.held = true ∧ t.strand.pc = s.strand.pc ∧
          t.flights = s.flights ++ [⟨s.me, .chanWait s.strand.rankOf dest ch v, false⟩])
    let takes : State := (s.withStrand fun t => { t with inbound := State.removeFirst ch t.inbound }).grantSlot s.strand.rankOf ch
    s.strand.inRegion = false → s.computePhase = false →
    sends (.send a b) false ((s.x a).zeroExtend 256) ∧ sends (.sendv va b) true (s.v va) ∧
    (s.channel s.strand.ident.lnum ch = some (n, false) → ∀ e, (s.strand.inbound.find? fun e => e.chan == ch) = some e →
      e.slice = false → Does (.recv a b) s (takes.setX a (e.val.truncate 64)) ∧
        Does (.recvt a b d) s ((takes.setX d 1).setX a (e.val.truncate 64))) ∧
    (s.channel s.strand.ident.lnum ch = some (n, true) → ∀ e, (s.strand.inbound.find? fun e => e.chan == ch) = some e →
      e.slice = false → Does (.recvv va b) s (takes.setV va e.val)) ∧
    (s.channel s.strand.ident.lnum ch = some (n, false) → (s.strand.inbound.find? fun e => e.chan == ch) = none →
      Holds (.recv a b) s ∧ Does (.recvt a b d) s (s.setX d 0)) ∧
    (s.channel s.strand.ident.lnum ch = some (n, true) → (s.strand.inbound.find? fun e => e.chan == ch) = none →
      Holds (.recvv va b) s) ∧
    (s.channel s.strand.ident.lnum ch = none → spec.getLsbD 9 = false → spec.toNat < 2 ^ 42 →
      let v := BitVec.ofNat 64 (1 + 256 * spec.toNat)
      Traps (.send a b) s 14 v 0 ∧ Traps (.sendv va b) s 14 v 0 ∧ Traps (.recv a b) s 14 v 0 ∧ Traps (.recvv va b) s 14 v 0 ∧
      Traps (.recvt a b d) s 14 v 0)

/-- R218, R221, R222, R400, R421: the queue registers, outside a region and a compute phase, and the slice queues, plain, on a
well-formed descriptor `e` at the place that the checks give, of which the core holds no line and on which nobody is parked. A
register holds four entries; a full or empty one blocks. `sqenq` writes the entry and TAIL, `sqdeq` takes the entry at HEAD.
The slice queues are meant for a piece that is not provisional (R286), on a page other than type S (R186), where none of their
lines is in error or held; that nothing is posted is the turn's choice (entry 10). -/
def Obligations.QueueForms : Prop :=
  ∀ (s : State) (a b d : XReg) (q : QReg) (imm : BitVec 20) (mm : MemMod),
    let old := vgetN s.core.q q.toNat
    let turns (w : Bool) : Prop := ∀ p, ((vgetN s.core.qWait q.toNat).find? fun p => p.2 == w) = some p → p.1 = s.me.slot
    let leaves (l : List Word) (w : Bool) : State := s.withCore fun c => { c with
      q := vsetN c.q q.toNat l, qWait := vsetN c.qWait q.toNat ((vgetN c.qWait q.toNat).erase (s.me.slot, w)) }
    let blocks (i : Instr) : Prop := Completes i s fun t => t.strand.sync.held = true ∧ t.strand.pc = s.strand.pc ∧
      vgetN t.core.q q.toNat = old ∧ ∀ r, t.x r = s.x r
    (s.strand.inRegion = false → s.computePhase = false →
      (old.length < 4 → turns true → Does (.qw a q) s (leaves (old ++ [s.x a]) true)) ∧ (4 ≤ old.length → blocks (.qw a q)) ∧
      (∀ v l, old = v :: l → turns false → Does (.qr a q) s ((leaves l false).setX a v)) ∧ (old = [] → blocks (.qr a q)) ∧
      (∀ v l, old = v :: l → Completes (.qtr a q d) s fun t => ∃ m : State, Retires m t (fallsTo s) ∧ vgetN m.core.q q.toNat = l ∧
        m.mem = s.mem ∧ ∀ r, m.x r = if r = 0 then 0 else if r = a then v else if r = d then 1 else s.x r) ∧
      (old = [] → Does (.qtr a q d) s (s.setX d 0))) ∧
    (∀ l room s1 e, Canonical s →
      s.sqPlace (s.x b + BitVec.ofInt 64 imm.toInt) = .ok (l, room) s1 → mm.order = .plain → l.ty ≠ 3 → s1.me = s.me → s1.mem = s.mem →
      s1.strand = s.strand → s1.latch = s.latch → s1.turn = s.turn → s.turn.post = false → s1.provisional s1.me = false →
      s1.isOwn l = true → sqDesc s.mem l.pa room = some e →
      (∀ p ∈ s1.parked, p.desc ≠ l.pa ∧ p.who ≠ s.me) → s1.core.wbuf = [] → (∀ f ∈ s1.flights, f.done = true) →
      (∀ p ∈ [l.pa, ringAt l.pa e e.tail] ++ (List.range 4).map (fun i => ringAt l.pa e (e.head + i)),
        s1.l1Find s1.me.core (p / 32) = none ∧ s1.lineBad (p / 32) = false ∧ s1.blockedBy (.line (p / 32 * 32)) true = false) →
      (e.count < 2 ^ e.lcap → Completes (.sqenq a b imm mm) s fun t => ∃ m : State, Retires m t (fallsTo s) ∧
        m.mem.nat (ringAt l.pa e e.tail) 8 = (s.x a).toNat ∧ m.mem.nat (l.pa + 24) 8 = (e.tail + 1) % 2 ^ 64 ∧
        (∀ p, (p < ringAt l.pa e e.tail ∨ ringAt l.pa e e.tail + 8 ≤ p) → (p < l.pa + 24 ∨ l.pa + 32 ≤ p) → m.mem.read p = s.mem.read p) ∧
        ∀ r, m.x r = s.x r) ∧
      (e.count = 2 ^ e.lcap → ∃ v, Traps (.sqenq a b imm mm) s 14 v 0 ∧ v.toNat % 256 = 6) ∧
      (s.strand.sync.sqHeld = [] → e.count ≠ 0 → Completes (.sqdeq a b imm mm) s fun t => ∃ m : State, Retires m t (fallsTo s) ∧
        m.mem.nat (l.pa + 16) 8 = (e.head + 1) % 2 ^ 64 ∧
        (∀ p, p < l.pa + 16 ∨ l.pa + 24 ≤ p → m.mem.read p = s.mem.read p) ∧
        ∀ r, m.x r = if r = 0 then 0 else if r = a then BitVec.ofNat 64 (s.mem.nat (ringAt l.pa e e.head) 8) else s.x r) ∧
      (s.strand.sync.sqHeld = [] → e.count = 0 → Completes (.sqdeq a b imm mm) s fun t => t.strand.sync.held = true ∧
        t.strand.pc = s.strand.pc ∧ t.mem = s.mem ∧ ∀ r, t.x r = s.x r))

/-! ## Proposal regions -/

/-- R226 to R232, R236, R239 to R245, R396 to R399: the region forms in U, in a launch with regions and no step mode, of a strand
that is alone in its group, where nothing is posted and its L1 holds no line. `prop.begin` opens a region with its checkpoint or
opens a suspended one again, and waits in a provisional piece (R286); a pre-emption request that is pending then is taken at once (R247); `prop.serial` opens a serial one; `prop.pass` lets a round
go by; `prop.end` resolves: a stale region goes back to its checkpoint, another writes 1 or 0 to X[A] and, accepted, performs
its writes. `prop.stat` reads RGS.

R235, R236, R422: in an open region the instructions that act beyond the strand trap with cause 11, reason 4, whatever their
operands; `sstep` traps so in U, and with cause 1 outside it. -/
def Obligations.RegionForms : Prop :=
  (∀ (s : State) (a b : XReg),
    let rgs := s.strand.csr.rgs
    let st := rgsState rgs
    let round := rgsRound rgs
    let good := s.strand.mode = .U ∧ s.stepMode = false ∧ 0 < s.regionScope ∧ s.regionScope ≤ 5
    let calm := s.unacked s.me = false ∧ s.core.l1 = [] ∧ s.fused.contains (clusterOf s.me.core) = false ∧ s.turn.post = false ∧
      s.strand.live = true ∧ (s.groupOf s.strand).length = 1
    let opened (g : Word) : State := s.withStrand fun p => { p with
      csr := { p.csr with rgs := g, rgspc := p.pc }
      region := { p.region with opened := true, atEnd := false, ckX := p.x, ckV := p.v, reads := [], wlines := [], writes := [], event := none } }
    let k := if rgsDrawn rgs then rgsK rgs else s.regionDraw % 2 ^ 32
    let alpha : BitVec 32 := (s.x b).truncate 32
    let here := s.strand.region.writes.filter fun c => moduleOfPa c.1 == s.mp.module && mappedPa c.1
    Does (.propStat a) s (s.setX a rgs) ∧
    (s.strand.mode ≠ .U → s.strand.sync.reply = none →
      Traps .propBegin s 1 s.latch.first 0 ∧ Traps .propSerial s 1 s.latch.first 0 ∧ Traps .propPass s 1 s.latch.first 0 ∧
      Traps (.propEnd a b) s 1 s.latch.first 0) ∧
    (good → s.provisional s.me = false → s.unacked s.me = false → s.core.l1 = [] →
      s.fused.contains (clusterOf s.me.core) = false → st = 0 → round ≠ 2 ^ 24 - 1 → s.fifthRound = false → s.strand.preq = none →
      ∃ g : Word, rgsState g = 1 ∧ rgsDrawn g = false ∧ rgsHeavy g = false ∧ field g 6 2 = 0 ∧ field g 8 56 = field rgs 8 56 ∧
        Does .propBegin s (opened g)) ∧
    (good → s.provisional s.me = false → st = 2 → s.strand.preq = none →
      ∃ g : Word, rgsState g = 1 ∧ field g 3 61 = field rgs 3 61 ∧ Does .propBegin s (opened g)) ∧
    (good → s.provisional s.me = false → s.strand.preq.isSome = true → s.strand.causes = [] →
      st = 2 ∨ (st = 0 ∧ s.unacked s.me = false ∧ s.core.l1 = [] ∧ s.fused.contains (clusterOf s.me.core) = false ∧
        round ≠ 2 ^ 24 - 1 ∧ s.fifthRound = false) →
      Completes .propBegin s fun u => ((1, BitVec.allOnes 64) : Nat × Word) ∈ u.strand.causes ∧ rgsState u.strand.csr.rgs = 1 ∧
        u.strand.csr.instret = s.strand.csr.instret + 1) ∧
    (good → st = 1 ∨ st = 4 → (s.provisional s.me = false → Traps .propBegin s 11 1 0) ∧ Traps .propSerial s 11 1 0 ∧
      Traps .propPass s 11 3 0) ∧
    (good → s.provisional s.me = true → s.strand.preq = none → Holds .propBegin s) ∧
    (good → st = 0 → s.strand.sync.reply = none → Traps (.propEnd a b) s 11 2 0) ∧
    (good → calm → st = 0 → s.strand.region.opened = false → round ≠ 2 ^ 24 - 1 → s.fifthRound = false → s.strand.preq = none →
      Completes .propSerial s fun u => ∃ m : State, Retires m u (fallsTo s) ∧ rgsState m.strand.csr.rgs = 4 ∧
        m.strand.csr.rgspc = s.strand.pc ∧ m.strand.region.opened = true ∧ m.strand.region.ckX = s.strand.x ∧
        m.strand.region.ckV = s.strand.v ∧ m.mem = s.mem ∧ ∀ r, m.x r = s.x r) ∧
    (good → st = 0 → round ≠ 2 ^ 24 - 1 → s.fifthRound = false →
      Completes .propPass s fun u => ∃ m : State, Retires m u (fallsTo s) ∧ rgsRound m.strand.csr.rgs = round + 1 ∧
        rgsState m.strand.csr.rgs = 0 ∧ m.strand.region.next = max s.strand.region.next (round + 1) ∧ m.mem = s.mem ∧
        ∀ r, m.x r = s.x r) ∧
    (good → calm → st = 1 → rgsHeavy rgs = false → s.strand.region.opened = true → s.strand.region.atEnd = false →
      s.strand.sync.reply = none → (Fmt.f32.decode alpha.toNat).isNaN = false → s.blocked = [] → s.tags = [] →
      ((∀ r ∈ s.strand.region.reads, r.marked = false) →
        Completes (.propEnd a b) s fun u => ∃ m : State, Retires m u (fallsTo s) ∧ rgsState m.strand.csr.rgs = 0 ∧
          rgsRound m.strand.csr.rgs = (round + 1) % 2 ^ 24 ∧ m.strand.region.opened = false ∧
          (∀ r, m.x r = if r = 0 then 0 else if r = a then (if State.accepts s.strand.csr.fpc alpha k then 1 else 0) else s.x r) ∧
          m.mem = if State.accepts s.strand.csr.fpc alpha k then s.mem.writeCells here else s.mem) ∧
      ((∃ r ∈ s.strand.region.reads, r.marked = true) →
        Completes (.propEnd a b) s fun u => u.strand.pc = s.strand.csr.rgspc ∧ u.strand.x = s.strand.region.ckX ∧
          u.strand.v = s.strand.region.ckV ∧ rgsState u.strand.csr.rgs = 2 ∧
          u.strand.csr.instret = s.strand.csr.instret ∧ u.mem = s.mem))) ∧
  (∀ (s : State) (a b d : XReg) (va : VReg) (q : QReg) (sc : BitVec 3) (w32 : Bool) (c : BitVec 3) (imm : BitVec 20) (mm : MemMod),
    s.strand.inRegion = true →
    ∀ i ∈ [Instr.fence sc, .fenceI, .halt, .idle, .troupeJoin a b, .troupeSplit, .ceW a b, .ceArm a b, .ceStop,
      .launch a b, .shape a b, .barArr a, .barWait a, .barSync a, .barCfg a b, .wbarRow, .wbarCol, .wbarRc, .send a b,
      .sendv va b, .recv a b, .recvv va b, .recvt a b d, .qw a q, .qr a q, .qtr a q d, .sqenq a b imm mm, .sqdeq a b imm mm,
      .wait a b c imm mm, .amoadd w32 a b d imm mm, .amocas w32 a b d imm mm, .amofadd w32 a b d imm mm],
      Traps i s 11 4 0 ∧ (s.strand.mode = .U → Traps .sstep s 11 4 0) ∧
        (s.strand.mode ≠ .U → Traps .sstep s 1 s.latch.first 0))

/-! ## Troupes, supersteps, launches -/

/-- R41, R42, R46, R260 to R264, R270, R422, R431, R432: `troupe.join` answers 0 outside U, and the size to a strand that is in a
troupe; it fails, with 0 to those that have come too, for a size that is none, where a member waits with another size or at
another instruction, and where a core of the segment has no member to join; it forms the troupe when the rest of the segment
waits at the same instruction with the same size, and waits while some member has not come or has one join that failed still to
leave. `troupe.split` of a leader leaves
it alone, of others does nothing. `sstep`
completes when the strand is the last of its launch to arrive and the schedule is empty, and waits for the others; both are said
for a strand with no store unacknowledged and no pre-emption request pending, and that nothing is posted is the turn's choice
(entry 10). When a join is judged is the model's (entry 43). -/
def Obligations.TroupeAndStepForms : Prop :=
  ∀ (s : State) (a b : XReg),
    let n := (s.x b).toNat
    let i := s.strand.ident
    s.strand.inRegion = false →
    (s.strand.mode ≠ .U → Does (.troupeJoin a b) s (s.setX a 0)) ∧
    (s.strand.mode = .U → s.strand.sync.reply = none → s.strand.sync.joinN = none →
      (s.strand.troupe.size ≠ 0 → Does (.troupeJoin a b) s (s.setX a (BitVec.ofNat 64 s.strand.troupe.size))) ∧
      (let fails (peers : List (Nat × Strand)) : Prop := Completes (.troupeJoin a b) s fun t => ∃ m : State, Retires m t (fallsTo s) ∧
          m.mem = s.mem ∧ (∀ r, m.x r = if r = 0 then 0 else if r = a then 0 else s.x r) ∧
          ∀ q ∈ peers, (m.strandAt (Sid.ofKey q.1)).sync.reply = some 0
       (s.strand.troupe.size = 0 → n ∉ [2, 4, 8, 16] → fails (s.joinPeers 1)) ∧
       (s.strand.troupe.size = 0 → n ∈ [2, 4, 8, 16] →
        (∃ q ∈ s.joinPeers n, q.2.sync.joinN ≠ some (s.strand.pc, s.x b)) ∨
          (∃ c ∈ State.segment s.me.core n, s.memberOn i c = none ∨ ∃ q, s.memberOn i c = some q ∧ q.2.troupe.size ≠ 0) →
        fails (s.joinPeers n))) ∧
      (s.strand.troupe.size = 0 → n ∈ [2, 4, 8, 16] → s.memberOn i s.me.core = some (s.me.key, s.strand) →
        (∀ q ∈ s.joinPeers n, q.2.sync.joinN = some (s.strand.pc, s.x b)) →
        let waits (k : Nat) : Prop := (s.strandAt (Sid.ofKey k)).sync.joinN = some (s.strand.pc, s.x b) ∧
          (s.strandAt (Sid.ofKey k)).sync.reply = none
        (∀ c ∈ State.segment s.me.core n, ∃ q, s.memberOn i c = some q ∧ q.2.troupe.size = 0) →
        ((∀ c ∈ State.segment s.me.core n, c ≠ s.me.core → ∀ q, s.memberOn i c = some q → waits q.1) →
          Completes (.troupeJoin a b) s fun t => ∃ m : State, Retires m t (fallsTo s) ∧ m.mem = s.mem ∧
            (∀ r, m.x r = if r = 0 then 0 else if r = a then s.x b else s.x r) ∧
            ∀ c ∈ State.segment s.me.core n, ∀ q, s.memberOn i c = some q → (m.strandAt (Sid.ofKey q.1)).troupe.size = n) ∧
        ((∃ c ∈ State.segment s.me.core n, c ≠ s.me.core ∧ ∃ q, s.memberOn i c = some q ∧ ¬ waits q.1) →
          Completes (.troupeJoin a b) s fun t => t.strand.sync.held = true ∧ t.strand.pc = s.strand.pc ∧
            t.strand.sync.joinN = some (s.strand.pc, s.x b) ∧ ∀ r, t.x r = s.x r))) ∧
    (s.leads = false → Does .troupeSplit s s) ∧
    (s.leads = true → s.strand.mode = .U → Completes .troupeSplit s fun t => ∃ r : State, Retires s r (fallsTo s) ∧
      t.strand = { r.strand with troupe := Troupe.reset } ∧ t.mem = s.mem ∧ t.me = s.me) ∧
    (s.strand.mode ≠ .U → Traps .sstep s 1 s.latch.first 0) ∧
    (s.strand.mode = .U → s.stepMode = false → (∀ l, s.launchOf s.me = some l → l.exch = none) → Traps .sstep s 13 s.strand.pc 0) ∧
    (∀ l, s.launchOf s.me = some l → s.stepMode = true → s.strand.mode = .U → s.strand.live = true → s.strand.sync.began = false →
      s.unacked s.me = false → s.turn.post = false → s.strand.preq = none → l.lrec.step = true → l.exch = none → i.ssArr ≤ l.superstep →
      let late := (s.strandsOf l.num).filter fun t => decide (t.ident.ssArr ≤ l.superstep)
      (late.length = 1 → l.kd.xfer = [] → Completes .sstep s fun t => ∃ m : State, Retires m t (fallsTo s) ∧
        (∃ l', m.launchNo l.num = some l' ∧ l'.superstep = l.superstep + 1 ∧ l'.exch = none) ∧
        m.strand.ident = { i with ssArr := l.superstep + 1 } ∧ m.mem = s.mem ∧ ∀ r, m.x r = s.x r) ∧
      (1 < late.length → Completes .sstep s fun t => t.strand.sync.held = true ∧ t.strand.pc = s.strand.pc ∧
        t.launches = s.launches ∧ t.mem = s.mem ∧ ∀ r, t.x r = s.x r))

/-- R37, R80, R275, R277, R284, R289, R374, R395, R415: outside a region, a compute phase and a provisional piece, `launch` submits
the 128 bytes that plain loads bring, after the release action, and writes the answer, status and launch number; a record with a
delivery class is answered 4; a word of it off the global map traps with that address. That the answer comes at once, nothing
posted, is the turn's choice (entry 10). `shape` stores the count with its mark, with a release at module scope. `piece.end` with no region
and no engine work of the slot ends the strand: its slot is free, its registers are released and its piece has lost the member. -/
def Obligations.LaunchForms : Prop :=
  ∀ (s : State) (a b : XReg),
    let va := s.x b
    (s.strand.inRegion = false → va.toNat % 8 ≠ 0 → Traps (.launch a b) s 2 va 0 ∧ Traps (.shape a b) s 2 va 0) ∧
    (s.strand.inRegion = false → va.toNat % 8 = 0 → isGlobal va = false → Traps (.launch a b) s 7 va 0 ∧ Traps (.shape a b) s 7 va 0) ∧
    (∀ n, n < 16 → s.strand.inRegion = false → va.toNat % 8 = 0 → (∀ i, i < n → isGlobal (va + BitVec.ofNat 64 (8 * i)) = true) →
      isGlobal (va + BitVec.ofNat 64 (8 * n)) = false → Traps (.launch a b) s 7 (va + BitVec.ofNat 64 (8 * n)) 0) ∧
    let whole := ∀ i, i < 16 → isGlobal (va + BitVec.ofNat 64 (8 * i)) = true
    (s.strand.inRegion = false → va.toNat % 8 = 0 → isGlobal va = true → s.computePhase = true →
      (whole → Traps (.launch a b) s 13 s.strand.pc 0) ∧ Traps (.shape a b) s 13 s.strand.pc 0) ∧
    (s.strand.inRegion = false → va.toNat % 8 = 0 → isGlobal va = true → s.computePhase = false → s.provisional s.me = false →
      (∀ t1 t2 bytes, whole → s.strand.sync.reply = none → (∀ p ∈ s.submits, p.who ≠ some s.me) →
        s.releaseAction 5 = .ok () t1 → t1.recordBytes va 16 = .ok bytes t2 → t2.turn.post = false →
        let m : State := (t2.answer t2.me bytes).2.setX a (t2.answer t2.me bytes).1
        Completes (.launch a b) s (fun u => Retires m u (fallsTo m)) ∧
        (recWord bytes 0 / 2 ^ 11 % 4 ≠ 0 → (t2.vdevOf t2.me).isSome = true →
          Completes (.launch a b) s fun u => Retires (t2.setX a 4) u (fallsTo t2))) ∧
      (∀ t, s.storeAt va (bytesOfNat 8 (2 ^ 63 + min (s.x a).toNat (2 ^ 25 - 1))) ⟨5, .release, 0⟩ = .ok () t →
        Completes (.shape a b) s fun u => Retires t u (fallsTo t))) ∧
    (rgsState s.strand.csr.rgs ≠ 0 → Traps .pieceEnd s 11 8 0) ∧
    (rgsState s.strand.csr.rgs = 0 → s.strand.sync.sendOut = false → ¬ (s.core.ce.stat = 2 ∧ s.core.ce.owner = s.me.slot) →
      s.matrixBusy s.me = false → s.me.slot < 4 → s.core.wbuf = [] → s.core.l1 = [] →
      s.fused.contains (clusterOf s.me.core) = false → s.unacked s.me = false →
      (∀ p ∈ s.core.parked, p.2 ≠ s.strand.rankOf) →
      Completes .pieceEnd s fun t => t.strand = Strand.reset ∧ t.mem = s.mem ∧
        (∀ k, k < 12 → owns s.core.town k s.me.slot = true → townOwn t.core.town k = false ∧ townDirty t.core.town k = false) ∧
        (∀ k, k < 12 → owns s.core.town k s.me.slot = false → townGroup t.core.town k = townGroup s.core.town k) ∧
        (∀ q, t.core.tile q = s.core.tile q ∧ t.core.cfg q = s.core.cfg q) ∧ t.core.order = s.core.order.erase s.me.slot ∧
        ∀ l, s.launchOf s.me = some l → ∃ l', t.launchNo l.num = some l' ∧ ∀ p ∈ l.pieces,
          p.stage = s.strand.ident.stage → p.idx = s.strand.ident.piece → ∃ p' ∈ l'.pieces,
            p'.stage = p.stage ∧ p'.idx = p.idx ∧ p'.at_ = p.at_.erase s.me ∧ p'.gone = s.strand.ident.member :: p.gone)

/-! ## The copy engine -/

/-- R345 to R350, R353: outside a region and a compute phase, on an engine that is free or the slot's own and not running, `ce.w`
claims it and writes a register, whose reserved bits stay 0; `ce.arm` starts a well-formed set and answers 0, or frees the
engine and answers 1: with b = 0 the set that the registers hold, else the one that 16 loads from X[B] bring, their addresses
checked first; `ce.stat` reads state and progress; `ce.stop` frees an engine that the slot holds and has not started, and stops
the slot's running transfer behind its chunk. What makes a set malformed is read from R345 and R348 (entry 44). -/
def Obligations.CopyEngineForms : Prop :=
  ∀ (s : State) (a b : XReg),
    let e := s.core.ce
    let k := s.me.slot
    let mine := e.stat = 0 ∨ (e.stat = 1 ∧ e.owner = k)
    let i := (s.x b).toNat
    let puts (f : Copier → Copier) : State := s.withCore fun c => { c with ce := f c.ce }
    s.computePhase = false →
    (s.strand.inRegion = false → e.exch = [] → mine →
      (∀ h : i < 10, Does (.ceW a b) s (puts fun e => { e with
        owner := k, stat := 1, pre := if e.stat = 0 then vsetN e.pre k 0 else e.pre
        active := e.active.set i (s.x a &&& State.ceMask i) h })) ∧
      (10 ≤ i → Traps (.ceW a b) s 7 (0x200_2000 + 8 * s.x b) 0) ∧
      (ceGood e.active = false → Does (.ceArm a 0) s ((puts fun e => { e with
        owner := k, stat := 0, due := false, pre := vsetN e.pre k 0, flt := vsetN e.flt k false, stop := vsetN e.stop k false }).setX a 1)) ∧
      (ceGood e.active = true → s.provisional s.me = false → Does (.ceArm a 0) s ((puts fun e => { e with
        owner := k, stat := 2, due := false, pre := vsetN e.pre k 0, flt := vsetN e.flt k false, stop := vsetN e.stop k false
        priv := s.strand.mode != .U, prog := vsetN e.prog k (ceProg e.active) }).setX a 0))) ∧
    (b ≠ 0 → s.strand.inRegion = false → ((s.x b).toNat % 8 ≠ 0 → Traps (.ceArm a b) s 2 (s.x b) 0) ∧
      (∀ n, n < 16 → (s.x b).toNat % 8 = 0 → (∀ j, j < n → s.offMap (s.x b + BitVec.ofNat 64 (8 * j)) = false) →
        s.offMap (s.x b + BitVec.ofNat 64 (8 * n)) = true → Traps (.ceArm a b) s 7 (s.x b + BitVec.ofNat 64 (8 * n)) 0) ∧
      ((s.x b).toNat % 8 = 0 → (∀ j, j < 16 → s.offMap (s.x b + BitVec.ofNat 64 (8 * j)) = false) → e.exch = [] → mine →
        let claimed : State := if e.stat = 0 then puts fun e => { e with owner := k, stat := 1, pre := vsetN e.pre k 0 } else s
        ∀ l t, claimed.ceSet (s.x b) 16 = .ok l t →
          let set : Vector Word 10 := Vector.ofFn fun j : Fin 10 => l.getD j.val 0 &&& State.ceMask j.val
          let armed (st : Nat) : State := t.withCore fun c => { c with ce := { c.ce with
            active := set, stat := st, due := false, pre := vsetN c.ce.pre t.me.slot 0
            flt := vsetN c.ce.flt t.me.slot false, stop := vsetN c.ce.stop t.me.slot false } }
          (ceGood set = false → Completes (.ceArm a b) s fun u => Retires ((armed 0).setX a 1) u (fallsTo t)) ∧
          (ceGood set = true → t.provisional t.me = false → Completes (.ceArm a b) s fun u =>
            Retires (((armed 2).withCore fun c => { c with ce := { c.ce with
              priv := t.strand.mode != .U, prog := vsetN c.ce.prog t.me.slot (ceProg set) } }).setX a 0) u (fallsTo t)))) ∧
    (∃ w : Word, Does (.ceStat a) s (s.setX a w) ∧
      (vgetN e.prog k < 2 ^ 48 → e.stat ≤ 2 →
        field w 0 2 = (if e.exch ≠ [] ∧ e.stat ≠ 2 then 3 else if e.stat = 0 then 0 else if e.owner = k then e.stat % 4 else 3) ∧
        w.getLsbD 2 = vgetN e.flt k ∧ w.getLsbD 3 = vgetN e.stop k ∧ field w 8 48 = vgetN e.prog k)) ∧
    (s.strand.inRegion = false → e.owner = k → e.stat = 1 → Does .ceStop s (puts fun e => { e with stat := 0 })) ∧
    (s.strand.inRegion = false → e.owner = k → e.stat = 2 → Completes .ceStop s fun u => Retires (s.stopCopy s.me) u (fallsTo (s.stopCopy s.me))) ∧
    (s.strand.inRegion = false → e.owner ≠ k ∨ e.stat = 0 → Does .ceStop s s)

/-! ## Events -/

/-- R33 to R36, R39, R43, R44, R46, R53, R64, R66, R68, R72, R149, R150, R153, R219, R220, R280, R281, R286, R291, R300, R301, R348:
the events of the strands, the placement engine and the engines of a core, where each is enabled. `r who` is the state seen by the
strand `who`. The order of events is the model's (entry 2). -/
def Obligations.EventsOfCores : Prop :=
  ∀ (s : State) (who : Sid) (core w n lnum stage idx : Nat) (va val : Word),
    let r : State := { s with me := who }
    let back (t : State) : State := { t with me := s.me }
    let u := s.strandAt who
    let c := s.coreAt core
    let gives (i : Instr) (t : State) : Prop := Completes i s fun t' => t' = t
    (∀ p t, r.parcelAt va = .ok (p, t) → gives (.instructionFetch who va) (back t)) ∧
    (∀ t, s.request w core = some (false, t) → gives (.carouselPull core w) t) ∧
    (∀ t, s.request w core = some (true, t) → gives (.carouselSteal core w) t) ∧
    (∀ l d p, s.launchNo lnum = some l → s.vdevNo l.vdev = some d →
      (l.pieces.find? fun (p : Piece) => p.stage == stage && p.idx == idx && p.st == .placed) = some p → p.lm.length = p.at_.length →
      s.canStart l p = true →
      Completes (.pieceStart lnum stage idx) s fun t => ∀ q ∈ p.at_, (t.strandAt q).live = true ∧
        (t.strandAt q).pc = l.kd.entries.getD stage 0 &&& ~~~1 ∧ (t.strandAt q).mode = (if l.kd.priv then .S else .U) ∧
        (t.strandAt q).ident.lnum = l.num ∧ (t.strandAt q).ident.piece = idx) ∧
    (∀ l, s.launchNo lnum = some l → Completes (.ageLimit lnum) s fun t => t.launchNo lnum = some { l with age := min l.age 16 }) ∧
    (∀ l d places t, s.launchNo lnum = some l → s.vdevNo l.vdev = some d → l.runAt.isSome = true → s.leaving lnum = false →
      State.mayPlace d l = true → s.namesWhole l places = true → s.resumed lnum places ≠ [] → s.returnAll d lnum places = some t →
      t.keepsPromises d lnum = true → gives (.strandResume lnum places) (t.openLaunch lnum)) ∧
    (∀ urgent, u.live = true →
      let now := u.mode = .U ∧ (u.inRegion = true ∨ u.region.opened = true ∨ (u.sync.halted = true ∧ s.inStep who = false))
      ((∀ l, s.launchOf who = some l → l.lrec.cores = false) →
        (¬ now → Completes (.preemptionRequest who urgent) s fun t => ∃ p, (t.strandAt who).preq = some p ∧
          p.urgent = (urgent || u.preq.any Preempt.urgent) ∧ p.age = u.preq.elim 0 Preempt.age ∧
          p.ready = u.preq.any Preempt.ready ∧ t.mem = s.mem ∧ t.cores = s.cores) ∧
        (now → (∀ c ∈ u.causes, c.1 ≠ 1) → Completes (.preemptionRequest who urgent) s fun t =>
          ((1, BitVec.allOnes 64) : Nat × Word) ∈ (t.strandAt who).causes)) ∧
      (∀ l, s.launchOf who = some l → l.lrec.cores = true → Completes (.preemptionRequest who urgent) s fun t =>
        ∀ x : Sid, x.slot < 4 → (s.strandAt x).live = true → (s.strandAt x).ident.lnum = l.num → (t.strandAt x).preq.isSome = true)) ∧
    (s.preemptDue who = true → Completes (.preemptionDeadline who) s fun t =>
      ((1, BitVec.allOnes 64) : Nat × Word) ∈ (t.strandAt who).causes) ∧
    (∀ l d v, s.launchNo lnum = some l → s.vdevNo l.vdev = some d → l.runAt.isSome = true →
      ((State.lacking l).any fun ws => !s.wouldFit d l ws []) = true →
      (State.youngest ((s.launches.flatMap (s.victimsOf d)).filter fun v => v.prio == l.lrec.prio)).getLast? = some v →
      gives (.quantumExpiry lnum) (s.askAll v.whos false)) ∧
    (∀ code v toM, u.live = true → r.asyncDue = some (code, v, toM) →
      let q : State := if code = 1 then r.quiesce who else r
      Completes (.asyncTrapEntry who) s fun t =>
        t.me = s.me ∧ Trapped q { t with me := who } (toM = true) (BitVec.ofNat 64 (2 ^ 63 + code)) v) ∧
    (r.waitedOut = true → Completes (.btoTimeout who) s fun t => t.me = s.me ∧
      Trapped r { t with me := who } (GoesToM r 12) 12
        (match u.sync.what with
          | .wire => if u.sync.wire ≠ 0 then r.wireMissing u.sync.wire else u.sync.sval
          | .claim k => r.wireMissing k
          | _ => u.sync.sval)) ∧
    (r.stalledOut = true → Completes (.provisionalStallTimeout who) s fun t => t.me = s.me ∧
      Trapped r { t with me := who } (GoesToM r 12) 12 u.sync.sval) ∧
    (∀ k, c.recent = some k → 64 ≤ c.run → Completes (.greedyRunLimit core) s fun t =>
      (t.coreAt core).order = (if c.order.contains k then c.order.erase k ++ [k] else c.order) ∧ (t.coreAt core).recent = some k ∧
      (t.coreAt core).run = c.run ∧ t.strands = s.strands ∧ t.mem = s.mem) ∧
    (∀ pc ps o rest, u.troupe.onWire = .insn pc ps o :: rest → Completes (.instructionForward who) s fun t =>
      (t.strandAt who).troupe = { u.troupe with onWire := rest, buf := u.troupe.buf ++ [.insn pc ps o] }) ∧
    (∀ pc rest, u.troupe.onWire = .dissolve pc :: rest → Completes (.dissolvingMarker who) s fun t =>
      (t.strandAt who).troupe = { u.troupe with onWire := rest, buf := u.troupe.buf ++ [.dissolve pc] }) ∧
    (u.troupe.owed ≠ 0 → Completes (.forwardCredit who) s fun t =>
      (t.strandAt who).troupe = { u.troupe with credit := u.troupe.credit + 1, owed := u.troupe.owed - 1 }) ∧
    (∀ k rest, c.sfu = k :: rest → Completes (.sfuRequestComplete core) s fun t => (t.coreAt core).sfu = rest ∧
      (k ∉ rest → (t.strandAt ⟨core, k⟩).sync.reply = some 0)) ∧
    (∀ m rest, c.matrix.run = none → c.matrix.queue = m :: rest → Completes (.matrixRecordStart core) s fun t =>
      (t.coreAt core).matrix = { c.matrix with run := some (startRecord c m), queue := rest } ∧ t.strands = s.strands) ∧
    (∀ m, c.matrix.run = some m → Completes (.matrixRecordComplete core) s fun t =>
      let k : Sid := ⟨core, Rec.slot m.cmd.bits⟩
      (t.coreAt core).matrix = { c.matrix with run := none } ∧ (t.coreAt core).tiles = (m.writes.foldl Core.applyWrite c).tiles ∧
      (t.coreAt core).accE = (m.writes.foldl Core.applyWrite c).accE ∧ (t.coreAt core).accO = (m.writes.foldl Core.applyWrite c).accO ∧
      (t.strandAt k).csr.fflags = (s.strandAt k).csr.fflags ||| m.flags ∧
      (∀ v, m.bad = some v → (s.strandAt k).live = true → (4, v) ∈ (t.strandAt k).causes)) ∧
    (∀ data : Rec512, u.live = true →
      let q := (s.coreAt who.core).matrix
      q.queue.length + (if q.run.isSome then 1 else 0) < 16 → Completes (.matrixPushStore who data) s fun t => ∃ e : Rec512,
        (t.coreAt who.core).matrix.queue = q.queue ++ [⟨e, true⟩] ∧ Rec.slot e = who.slot % 4 ∧
        ∀ j, j < 37 ∨ 39 ≤ j → j < 512 → e.getLsbD j = data.getLsbD j) ∧
    (u.live = true → u.mode ≠ .U → n < 4 → Completes (.heldCountWrite who n val) s fun t =>
      vgetN (t.coreAt who.core).matrix.held n = (if val = 0 then [] else vgetN (s.coreAt who.core).matrix.held n)) ∧
    (∀ t, u.live = true → u.mode ≠ .U → r.releaseAction 5 = .ok () t →
      (∀ f ∈ t.flights, t.sentBy t.strand.ident.vdev f = false) →
      (Completes (.tlbInvalidateAll who) s fun t' => ∀ k, ∀ e ∈ (t'.coreAt k).tlb, e.vdev ≠ t.strand.ident.vdev) ∧
      (Completes (.tlbInvalidatePage who val) s fun t' => ∀ k, ∀ e ∈ (t'.coreAt k).tlb,
        ¬ (e.vdev = t.strand.ident.vdev ∧ e.hits t.strand.ident.vdev (val.toNat / 65536 % 2 ^ 32 * 65536) = true))) ∧
    (∀ q : QReg,
      let t := s.modStrand who fun t => { t with csr := { t.csr with qbind := vsetN t.csr.qbind q.toNat (val &&& 0xFFFF_FFFF_FFE3) } }
      (∀ p ∈ s.parked, p.who.core ≠ who.core ∨ p.q ≠ some q.toNat) → (t.binding who.core q.toNat = none ∨ ∃ x b, t.binding who.core q.toNat = some (x, b) ∧ b.getLsbD 1 = true) →
        gives (.qbindWrite who q val) t) ∧
    (∀ csr, u.live = true → csrMode u.mode csr.toNat = true → csrRo u.mode csr.toNat = false →
      gives (.registerWrite who csr val) (back (csrWrite r csr.toNat val))) ∧
    (let e := c.ce
      let p := ceProg e.active
      let stop := min ((p / 256 + 1) * 256) (ceTotal e.active)
      e.stat = 2 → e.due = false →
      (∀ cause v, s.ceGather ⟨core, e.owner⟩ e.active stop p [] 34 = .error (cause, v) → Completes (.ceChunkPerformed core) s fun t =>
        (t.coreAt core).ce.stat = 0 ∧ (t.coreAt core).ce.shadow = e.active ∧ (cause, v) ∈ (t.strandAt ⟨core, e.owner⟩).causes ∧
        t.mem = s.mem) ∧
      (∀ ws t1 t2, s.ceGather ⟨core, e.owner⟩ e.active stop p [] 34 = .ok (ws, t1) →
        t1.engineClear ⟨core, e.owner⟩ ws = (true, t2) → (t2.coreAt core).ce = e → Completes (.ceChunkPerformed core) s fun t =>
          (t.coreAt core).ce.active = e.active.set 9 (BitVec.ofNat 64 (max p stop)) ∧
          ((t.coreAt core).ce.stat = 0 ↔ ceTotal e.active ≤ max p stop ∧ e.active[8].getLsbD 0 = false))) ∧
    (Canonical s → c.ce.due = true →
      (∀ b ∈ s.blocked, b.1 ≠ .lm core (c.ce.active[6].toNat / 8 * 8)) →
      Completes (.ceCompletionWrite core) s fun t => (t.coreAt core).ce.stat = 0 ∧
      (t.coreAt core).ce.due = false ∧ Memory.nat (t.coreAt core).lm c.ce.active[6].toNat 8 = c.ce.active[7].toNat ∧
      (∀ p, p < c.ce.active[6].toNat ∨ c.ce.active[6].toNat + 8 ≤ p → Memory.read (t.coreAt core).lm p = Memory.read c.lm p)) ∧
    (∀ d, isGlobal va = true → s.vdevOf who = some d → gives (.pageWalk who va) (s.leafFor who.core d va.toNat).2) ∧
    gives (.burstSend n) s

/-- R22, R177, R185, R187, R195, R196, R202, R205 to R208, R211, R215, R217, R220, R222, R237, R239, R267, R270: a message in flight is
performed or delivered, and what it answers is done; `n` is its place among the messages. Which messages are posted is
the model's (entry 10), and so are when a notice goes out (entry 52), that what a queue register has no room for stays on its way
(entry 71), and what becomes of a held entry whose descriptor is malformed or in error (entry 89). -/
def Obligations.EventsOfMessages : Prop :=
  ∀ (s : State) (n core lnum : Nat) (who src : Sid) (q : QReg),
    let gone : State := { s with flights := s.flights.eraseIdx n }
    let at_ (m : Msg) (dn : Bool) : Prop := s.flights[n]? = some ⟨src, m, dn⟩
    let here (cells : List Host.Cell) : List Host.Cell := cells.filter fun c => moduleOfPa c.1 == s.mp.module && mappedPa c.1
    let gives (i : Instr) (t : State) : Prop := Completes i s fun t' => t' = t
    (∀ cells own by_, at_ (.write cells none own by_) false → s.writeBehind n ⟨src, .write cells none own by_, false⟩ = false →
      Completes (.sliceWrite n) s fun t => t.mem = s.mem.writeCells (here cells) ∧
        t.flights[n]? = some ⟨src, .write cells none own by_, true⟩ ∧
        ((∀ c ∈ cells, s.lineBad (c.1 / 32) = false) → t.cores = s.cores) ∧
        (∀ c ∈ cells, s.lineBad (c.1 / 32) = true → ∀ p ∈ by_, ∀ w, s.sidOfRank p = some w → State.ofRankIn p (s.strandAt w) = true →
          (5, s.lineIn (s.rankDev src.core p) (c.1 / 32)) ∈ (t.strandAt w).causes)) ∧
    (∀ cells tag own by_, at_ (.write cells tag own by_) false → s.writeBehind n ⟨src, .write cells tag own by_, false⟩ = true →
      gives (.sliceWrite n) s) ∧
    (∀ pa l1 l2 dn bs bc, s.flights = l1 ++ ⟨src, .read (pa / 32) none bs bc, dn⟩ :: l2 → src.core = core →
      (∀ f ∈ l1, f.src.core ≠ core) →
      (s.heldWhole (.line (pa / 32 * 32)) = false →
        gives (.sliceRead core pa) { s with flights := l1 ++ ⟨src, .read (pa / 32) (some (lineAt s.mem (pa / 32))) bs bc, dn⟩ :: l2 }) ∧
      (s.heldWhole (.line (pa / 32 * 32)) = true → gives (.sliceRead core pa) s)) ∧
    (∀ l d bs bc dn, at_ (.read l (some d) bs bc) dn → Completes (.memoryReply n) s fun t => (t.l1Find src.core l).isSome = true) ∧
    (∀ cells tag own by_, at_ (.write cells tag own by_) true →
      gives (.storeAcknowledgement n) ((State.linesOf cells).foldl (fun s l => s.barCore src.core l) gone)) ∧
    (∀ k cells bits tag, at_ (.lmWrite k cells bits tag) true → gives (.storeAcknowledgement n) gone) ∧
    (∀ k cells bits, at_ (.lmWrite k cells bits none) false → s.writeBehind n ⟨src, .lmWrite k cells bits none, false⟩ = false →
      Completes (.lmPortAccess n) s fun t => t.mem = s.mem ∧ t.flights[n]? = some ⟨src, .lmWrite k cells bits none, true⟩ ∧
        (t.coreAt k).lm = Memory.writeCells (s.coreAt k).lm cells) ∧
    (∀ m dn, at_ (.scopeMiss m) dn →
      (m.tag.module = s.mp.module → gives (.scopeMissMessage n) (gone.deliverMiss m)) ∧
      (m.tag.module ≠ s.mp.module → gives (.wideningNotice n) (gone.widen m.place m.tag m.need))) ∧
    (∀ m, (s.coreAt core).miss[n]? = some m → s.missDue m = true → gives (.missEntryTimeout core n)
      ((s.firmwareWiden m).modCore core fun c => { c with miss := c.miss.eraseIdx n })) ∧
    (∀ p t sc dn, at_ (.widen p t sc) dn →
      (dn = true ∨ s.backInFlight src.core p = false → gives (.wideningNotice n) (gone.widen p t sc)) ∧
      (dn = false → s.backInFlight src.core p = true → gives (.wideningNotice n) s)) ∧
    (∀ home slot cnt num born, at_ (.barCfg home slot cnt num born) false → s.meshWaits n = false →
      Completes (.barrierConfig n) s fun t =>
        t.barAt home slot = (if (s.barAt home slot).arr = 0 then { s.barAt home slot with n := cnt, nx := cnt, lnum := num }
          else { s.barAt home slot with nx := cnt }) ∧ t.flights[n]? = some ⟨src, .barCfg home slot cnt num born, true⟩) ∧
    (∀ home slot num born, at_ (.barArr home slot num born) false → s.meshWaits n = false →
      let b := s.barAt home slot
      (b.n = 0 ∨ b.lnum ≠ num → Completes (.barrierArrival n) s fun t =>
        (s.isBorn src born = true → (t.strandAt src).sync.reply = some 4) ∧ (s.isBorn src born = false → t.strands = s.strands) ∧
        t.flights = s.flights.eraseIdx n ∧ t.cores = s.cores) ∧
      (b.lnum = num → b.arr + 1 < b.n →
        Completes (.barrierArrival n) s fun t => (t.barAt home slot).arr = b.arr + 1 ∧ (t.barAt home slot).ph = b.ph ∧
          (s.isBorn src born = true → (t.strandAt src).sync.token = some ⟨State.barId home slot, b.ph, false, src.core, false⟩) ∧
          (s.isBorn src born = false → t.strands = s.strands) ∧ t.flights[n]? = some ⟨src, .barArr home slot num born, true⟩) ∧
      (b.n ≠ 0 → b.lnum = num → b.arr + 1 = b.n → Completes (.barrierArrival n) s fun t =>
        (t.barAt home slot).arr = 0 ∧ (t.barAt home slot).n = b.nx ∧ (t.barAt home slot).ph = !b.ph)) ∧
    (∀ home slot num born cnt dn, at_ (.barArr home slot num born) dn ∨ at_ (.barCfg home slot cnt num born) dn → dn = false →
      s.meshWaits n = true → gives (.barrierArrival n) s ∧ gives (.barrierConfig n) s) ∧
    (∀ home slot ph k dn, at_ (.barRel home slot ph k) dn → s.meshWaits n = false →
      Completes (.barrierRelease n) s fun t => t.flights = s.flights.eraseIdx n ∧
        ∀ w : Sid, w.slot < 4 → ∀ x, (s.strandAt w).sync.token = some x → (t.strandAt w).sync.token =
          some (if x.id = State.barId home slot ∧ x.phase = ph ∧ x.core = k ∧ fieldOf k = fieldOf home ∧ x.sent = true then { x with released := true } else x)) ∧
    (∀ home slot num born cnt, at_ (.barArr home slot num born) true ∨ at_ (.barCfg home slot cnt num born) true →
      Completes (.barrierAcknowledgement n) s fun t =>
        (s.isBorn src born = true → (t.strandAt src).sync.reply = some 0) ∧ (s.isBorn src born = false → t.strands = s.strands) ∧
        t.flights = s.flights.eraseIdx n) ∧
    (let k := (s.strandAt who).sync.wire
      let i := (s.strandAt who).ident
      k ≠ 0 → (∀ c ∈ State.extentCores i.width who.core k, s.arrivedOn i k c = true) → Completes (.wirePhaseRelease who) s fun t =>
        ∀ c ∈ State.extentCores i.width who.core k, ∃ x, t.wireMember i c = some x ∧ x.sync.wireRel = true) ∧
    (∀ frm dest ch v, at_ (.chan frm dest ch v) false → s.meshWaits n = false → gives (.channelMessage n) (gone.arriveMsg src frm dest ch v)) ∧
    (∀ frm dest ch v, at_ (.chan frm dest ch v) true → Completes (.sendAcknowledgement n) s fun t => t.flights = s.flights.eraseIdx n ∧
      ∀ w, State.ofRankIn frm (s.strandAt w) = true → (t.strandAt w).sync.sendOut = false) ∧
    (∀ ch l1 m l2, (s.strandAt who).inbound = l1 ++ m :: l2 → m.chan = ch → m.slice = true → (∀ x ∈ l1, x.chan ≠ ch ∨ x.slice = false) →
      Completes (.channelSliceMove who ch) s fun t => (t.strandAt who).inbound = l1 ++ { m with slice := false } :: l2) ∧
    (∀ w b pa room e s1, s.binding core q.toNat = some (w, b) → s.boundDesc w b = .at_ pa room e s1 → Canonical s → s1.mem = s.mem →
      s1.coreAt core = s.coreAt core → s1.turn.post = false → s1.tags = [] → w.core = core → s1.fused = [] → (s.coreAt core).l1 = [] →
      (s.coreAt core).wbuf = [] → (∀ p ∈ s1.parked, p.desc ≠ pa) → (∀ f ∈ s1.flights, f.done = true) → s1.unacked w = false →
      s1.blocked = [] → (∀ p ∈ [pa, ringAt pa e e.tail] ++ (List.range 4).map (fun i => ringAt pa e (e.head + i)), s1.lineBad (p / 32) = false) →
      (b.getLsbD 1 = false → (∀ p ∈ s.parked, p.who.core ≠ core ∨ p.q ≠ some q.toNat) → vgetN (s.coreAt core).q q.toNat = [] →
        vgetN (s.coreAt core).qBusy q.toNat = false → e.count ≠ 0 →
        Completes (.queueRefill core q) s fun t =>
          vgetN (t.coreAt core).q q.toNat =
            (List.range (min 4 e.count)).map (fun i => BitVec.ofNat 64 (s.mem.nat (ringAt pa e (e.head + i)) 8)) ∧
          t.mem.nat (pa + 16) 8 = (e.head + min 4 e.count) % 2 ^ 64) ∧
      (∀ v rest, b.getLsbD 1 = true → vgetN (s.coreAt core).q q.toNat = v :: rest → e.count < 2 ^ e.lcap →
        Completes (.queueDrain core q) s fun t => vgetN (t.coreAt core).q q.toNat = rest ∧
          t.mem.nat (ringAt pa e e.tail) 8 = v.toNat ∧ t.mem.nat (pa + 24) 8 = (e.tail + 1) % 2 ^ 64)) ∧
    (∀ vs dn, at_ (.refill q.toNat vs) dn → src.core = core → (∀ f ∈ s.flights.take n, f.src.core ≠ core) →
      let room := 4 - (vgetN (s.coreAt core).q q.toNat).length
      Completes (.refillArrival core q) s fun t =>
        vgetN (t.coreAt core).q q.toNat = vgetN (s.coreAt core).q q.toNat ++ vs.take room ∧
        vgetN (t.coreAt core).qBusy q.toNat = decide (room < vs.length) ∧
        (room < vs.length → ∃ f ∈ t.flights, f.src.core = core ∧ f.msg = .refill q.toNat (vs.drop room))) ∧
    (∀ vd pa room v dn, at_ (.requeue vd pa room v) dn →
      (sqDesc s.mem pa room = none → Completes (.heldEntryReenqueue n) s fun t =>
        (t.coreAt src.core).log = (s.coreAt src.core).log ++ [BitVec.ofNat 64 pa] ∧ t.mem = s.mem) ∧
      (∀ e, sqDesc s.mem pa room = some e → e.count = 2 ^ e.lcap ∨ s.requeueHeld pa e = true → gives (.heldEntryReenqueue n) s) ∧
      (∀ e, sqDesc s.mem pa room = some e → e.count < 2 ^ e.lcap → s.requeueHeld pa e = false → s.lineBad (pa / 32) = true →
        Completes (.heldEntryReenqueue n) s fun t => t.flights = s.flights.eraseIdx n ∧ t.mem = s.mem ∧
          (t.coreAt src.core).log = (s.coreAt src.core).log ++ [BitVec.ofNat 64 (pa / 32 * 32)]) ∧
      (∀ e, Canonical s → sqDesc s.mem pa room = some e → e.count < 2 ^ e.lcap → (∀ p ∈ s.parked, p.desc ≠ pa) →
        s.requeueHeld pa e = false → s.lineBad (pa / 32) = false → s.lineBad (ringAt pa e e.tail / 32) = false →
        Completes (.heldEntryReenqueue n) s fun t => t.flights = s.flights.eraseIdx n ∧
          t.mem.nat (ringAt pa e e.tail) 8 = v.toNat ∧ t.mem.nat (pa + 24) 8 = (e.tail + 1) % 2 ^ 64)) ∧
    ((∀ u ∈ s.groupOf (s.strandAt who), State.roundOf (s.strandAt who) < u.region.next) → (s.strandAt who).live = true →
      Completes (.roundBarrierComplete who) s fun t => State.roundOf (s.strandAt who) < (t.strandAt who).region.barrier) ∧
    (s.resolvable (s.strandAt who) = true →
      (s.stale (s.strandAt who) = true → Completes (.regionResolution who) s fun t =>
        (t.strandAt who).pc = (s.strandAt who).csr.rgspc ∧ rgsState (t.strandAt who).csr.rgs = 2 ∧ t.mem = s.mem) ∧
      (let x := s.strandAt who
       let acc := State.accepts x.csr.fpc x.region.alpha (rgsK x.csr.rgs)
       let settled (t : State) (m : Memory) : Prop := rgsState (t.strandAt who).csr.rgs = 0 ∧
         (t.strandAt who).region.opened = false ∧ (t.strandAt who).pc = x.pc ∧ t.mem = m
       s.stale x = false →
        (acc = false ∨ x.region.writes = [] → Completes (.regionResolution who) s fun t => settled t s.mem) ∧
        (∀ k, acc = true → x.region.writes ≠ [] → s.commitReady who (State.writeLines x) = .ok () k →
          k.stale (k.strandAt who) = false →
          Completes (.regionResolution who) s fun t => settled t (k.mem.writeCells (here x.region.writes))))) ∧
    (∀ l, s.launchNo lnum = some l → l.lrec.step = true → l.exch = none → s.allArrived l = true → s.strandsOf lnum ≠ [] →
      Completes (.exchangeStart lnum) s fun t => ∃ l', t.launchNo lnum = some l' ∧
        l'.exch = some ⟨(List.range l.kd.xfer.length).filter fun i => (l.kd.xfer[i]?).any (s.xferActive l l.superstep), []⟩) ∧
    (∀ l e x i, s.launchNo lnum = some l → l.exch = some e → l.kd.xfer[i]? = some x → i ∈ e.todo → s.xferHeld l e i = false →
      ((s.coreOfRank (State.xferRank l x)).any fun n => (s.coreAt n).ce.stat == 2) = false →
      (∀ t, s.moveXfer l x = .ok (false, t) → gives (.xferRecordPerformed lnum i) t) ∧
      (∀ t, s.moveXfer l x = .ok (true, t) → gives (.xferRecordPerformed lnum i)
        (t.modLaunch lnum fun l => { l with exch := l.exch.map fun e => { e with todo := e.todo.erase i } })) ∧
      (∀ c v, s.moveXfer l x = .error (c, v) → Completes (.xferRecordPerformed lnum i) s fun t => t.mem = s.mem ∧
        ∃ l', t.launchNo lnum = some l' ∧
          l'.exch = some ⟨e.todo.erase i, e.stopped ++ [⟨i, c, v, false⟩]⟩)) ∧
    (∀ l, s.launchNo lnum = some l → l.exch = some ⟨[], []⟩ → Completes (.superstepRelease lnum) s fun t =>
      ∃ l', t.launchNo lnum = some l' ∧ l'.superstep = l.superstep + 1 ∧ l'.exch = none)

/-- R26, R181, R284, R287, R296, R304 to R309, R311, R318, R323 to R328: the events of launches, of devices at rest and of the module
itself, where each is enabled. A damaged intent record is the turn's choice (entry 58), and so is where boxing is left (entry 10).
What a cold reset keeps, that memory is empty after it and when it boots are the model's (entries 4, 57 and 61), and so are the
move off a node with a hole (entry 56) and the widening of a tag before the launch engine acquires or releases there (entry 94). -/
def Obligations.EventsOfTheModule : Prop :=
  ∀ (s : State) (lnum n idx cl vdev port : Nat),
    let at_ (v : Nat) (st : Nat) (val : Word) (c : Completion) : Prop := c.status = st ∧ c.val = val ∧ c.lnum = v
    (∀ p w, s.submits[n]? = some p → p.who = some w → Completes (.launchRecordAdmission n) s fun t =>
      (t.strandAt w).sync.reply.isSome = true) ∧
    (∀ p o d, s.submits[n]? = some p → p.who = none → p.origin = some o → s.vdevNo p.vdev = some d →
      (s.passes n o = false → Completes (.launchRecordAdmission n) s fun t =>
        t = ({ s with submits := s.submits.eraseIdx n }.admitHost o d p.bytes).settleVdev d.num) ∧
      (s.passes n o = true → Completes (.launchRecordAdmission n) s fun t => t = s)) ∧
    (∀ l p i d, s.launchNo lnum = some l → s.vdevNo l.vdev = some d → l.deps[i]? = some p → (∀ q ∈ l.deps, q.sat = true) →
      l.runAt = none → s.looksFar l = false → s.blocked = [] → (∀ q ∈ l.deps, s.tagAt (.line (q.pa / 32 * 32)) = none) →
      Completes (.dependenceSatisfied lnum i) s fun t =>
        ∃ l', t.launchNo lnum = some l' ∧ l'.runAt.isSome = true) ∧
    (∀ l d k, s.launchNo lnum = some l → s.vdevNo l.vdev = some d → l.seen = some k → l.delivered = none → s.looksFar l = false →
      Completes (.shapeDelivery lnum) s fun t => ∃ l', t.launchNo lnum = some l' ∧ l'.delivered = some k ∧
        l'.status = (if k < l.lrec.g then 16 else if State.mostPieces l.allocs < k then 17 else l.status)) ∧
    (∀ l p, s.launchNo lnum = some l → (l.pieces.find? fun (p : Piece) => p.stage == 0 && p.idx == idx) = some p →
      State.surplus l idx = true → p.st ≠ .squashed → Completes (.pieceSquash lnum idx) s fun t => ∃ l', t.launchNo lnum = some l' ∧
        ∀ q ∈ l'.pieces, q.stage = 0 → q.idx = idx → q.st = .squashed) ∧
    (∀ l, s.launchNo lnum = some l → State.hasEnded l = true → s.writesLeft l = false → s.blocked = [] →
      (∀ p ∈ s.doneLine l, s.tagAt p = none) → Completes (.launchCompletion lnum) s fun t =>
      t.launchNo lnum = none ∧ ∀ o, l.origin = some o → s.linked = true → ∃ c ∈ t.host.comps, c.queue = o.queue ∧ c.tag = o.tag ∧
        (l.lrec.done = 0 ∨ (∃ d u, s.vdevNo l.vdev = some d ∧ s.countUp d l.lrec.done = .ok u) → at_ l.num l.status l.val c) ∧
        (∀ d, l.lrec.done ≠ 0 → s.vdevNo l.vdev = some d → s.countUp d l.lrec.done = .error true → at_ l.num 8 l.lrec.done c)) ∧
    (cl ∉ s.fused → s.clusterFree cl = true → s.wantsKind cl true = true → Completes (.clusterFuse cl) s fun t => t.fused = cl :: s.fused) ∧
    (cl ∈ s.fused → s.clusterFree cl = true → s.wantsKind cl false = true → Completes (.clusterUnfuse cl) s fun t => cl ∉ t.fused) ∧
    (∀ d, s.vdevNo vdev = some d → d.power = .idle → d.wclass ≠ 0 → d.idlet ≠ 0 → s.stopped d.num = false →
      (s.turn.post = false ∨ d.boxing = true → Completes (.idleTimeout vdev) s fun t =>
        (∃ d', t.vdevNo vdev = some d' ∧ d'.power = .boxed) ∧ ∀ k, State.inVdev d k = true → t.coreAt k = Core.reset) ∧
      (s.turn.post = true → d.boxing = false → Completes (.idleTimeout vdev) s fun t =>
        ∃ d', t.vdevNo vdev = some d' ∧ d'.power = .idle ∧ d'.boxing = true)) ∧
    (∀ d, s.vdevNo vdev = some d →
      (d.power = .boxed → d.waking = false → Completes (.wakeWordWrite vdev) s fun t =>
        t.vdevNo vdev = some { d with waking := true, wakeSeq := s.nextWake }) ∧
      (d.power ≠ .boxed → d.boxing = true → Completes (.wakeWordWrite vdev) s fun t =>
        t.vdevNo vdev = some { d with power := .running, boxing := false })) ∧
    (∀ d, s.vdevNo vdev = some d → d.power = .boxed → d.waking = true → s.stopped d.num = false →
      (∀ e ∈ s.vdevs, e.num = vdev → e = d) →
      (d.nohole = false ∨ s.hasHole d.level d.index = false ∨ (s.changing = false ∧ (s.newNode d).isSome = true)) →
      (d.wclass = 2 → ∀ e ∈ s.vdevs, e.wclass = 2 → e.power = .boxed → e.waking = true → d.wakeSeq ≤ e.wakeSeq) →
      Completes (.deviceWake vdev) s fun t => ∃ d', t.vdevNo vdev = some d' ∧ d'.power = .running) ∧
    (∀ d, (s.vdevs.find? fun d => d.num == vdev && s.hasLeft d) = some d → Completes (.deviceWake vdev) s fun t => t = s.moveOn d) ∧
    (cl ∉ s.retired → Completes (.clusterRetirement cl) s fun t => t.retired = cl :: s.retired) ∧
    Completes (.pageRetirement n) s (fun t => n ∈ t.badPages ∧ (∀ p, p ≠ n → (p ∈ t.badPages ↔ p ∈ s.badPages)) ∧ t.mem = s.mem) ∧
    Completes .coldReset s (fun t => t.strands = [] ∧ t.cores = [] ∧ t.mem = [] ∧ t.vdevs = [] ∧ t.launches = [] ∧ t.saved = [] ∧
      t.tree = State.reset.tree ∧ t.host.queues = [] ∧ t.mp.features = none ∧ t.mp.frozen = false ∧ t.mp.store = s.mp.store ∧
      t.mp.recovery = !t.mp.booted ∧ t.mp.root = s.mp.root ∧ t.mp.seed = s.mp.seed ∧
      (t.mp.booted = true ↔ s.turn.err = none ∧ imageGood s.mp.root s.mp.seed s.mp.store = true ∧
        s.mp.version ≤ Config.imageVersion s.mp.store)) ∧
    (∀ image, s.mp.recovery = true → s.mp.frozen = false → s.host.links[0] = true → s.turn.err = none →
      Completes (.recoveryImage image) s fun t =>
        if imageGood s.mp.root s.mp.seed image = true ∧ s.mp.version ≤ Config.imageVersion image then
          t.mp.store = image ∧ t.mp.firmware = image ∧ t.mp.booted = true ∧ t.mp.version = Config.imageVersion image ∧ t.cores = []
        else t = s) ∧
    (s.mp.frozen = true → Completes .watchdogReset s fun t => t = s) ∧
    (∀ j, s.mp.journal.find? (fun j => !j.done) = some j → s.linked = true → s.mp.frozen = false →
      (j.digest = State.intentDigest j.seq j.nodes → (∀ v ∈ j.gone, ∀ d, s.vdevNo v = some d → d.power = .boxed ∧ s.nothingLeft d = true) →
        Completes .watchdogReset s fun t => t.tree = j.nodes.foldl State.setNode s.tree ∧
          (∀ x ∈ t.vdevs, x.num ∈ j.gone → x ∈ j.devs) ∧ (∀ x ∈ j.devs, x ∈ t.vdevs) ∧
          (⟨j.head.queue, j.head.tag, 0, 0, j.val, 0⟩ : Completion) ∈ t.host.comps) ∧
      (j.digest ≠ State.intentDigest j.seq j.nodes → Completes .watchdogReset s fun t => t.tree = s.tree ∧ t.vdevs = s.vdevs ∧
        (⟨j.head.queue, j.head.tag, 10, 0, 0, 0⟩ : Completion) ∈ t.host.comps)) ∧
    Completes .freezePin s (fun t => t = { s with mp := { s.mp with frozen := true } }) ∧
    (∀ view, s.mp.frozen = true → Completes (.debugPortAccess view) s fun t =>
      t = { s with mp := { s.mp with debug := s.viewOf view } }) ∧
    (1000 < s.mp.mhz → Completes (.powerAtRating n) s fun t => t = { s with mp := { s.mp with mhz := s.mp.mhz - 25 } }) ∧
    (s.mp.mhz ≤ 1000 → s.linked = true → Completes (.powerAtRating n) s fun t => t.mp = s.mp ∧
      t.host.comps = s.host.comps ++ [⟨0, 0xFFFF_FFFF, 18, 0, BitVec.ofNat 64 n, 0⟩]) ∧
    Completes .clockRecoveryTimer s (fun t => t = { s with mp := { s.mp with mhz := min 1300 (s.mp.mhz + 25) } }) ∧
    (s.mp.frozen = true → Completes (.supplyOrJunctionLimit n) s fun t => t = s) ∧
    (s.mp.frozen = false → Completes (.supplyOrJunctionLimit n) s fun t => t.mp = { s.mp with frozen := true } ∧
      (if s.linked then t.host.comps else t.host.unsent) =
        (if s.linked then s.host.comps else s.host.unsent) ++ [⟨0, 0xFFFF_FFFF, 19, 0, if n = 2 then 2 else 1, 0⟩]) ∧
    (port < 16 →
      Completes (.portLinkDown port) s (fun t => vgetN t.host.links port = false ∧ t.mem = s.mem ∧
        ∀ k, k < 16 → k ≠ port → vgetN t.host.links k = vgetN s.host.links k) ∧
      Completes (.portLinkUp port) s (fun t => vgetN t.host.links port = true ∧ t.mem = s.mem ∧
        (if s.mp.frozen = true then t.host.comps = s.host.comps ∧ t.host.unsent = s.host.unsent
          else t.host.comps = s.host.comps ++ s.host.unsent ∧ t.host.unsent = []) ∧
        ∀ k, k < 16 → k ≠ port → vgetN t.host.links k = vgetN s.host.links k))

/-- R199, R281, R282, R284, R295, R296, R303, R305, R310 to R322, R325, R326, R328: the hosts' commands, with ORD = 0, nothing
waiting before them, a link up, no layout change standing and no release tag or held release in memory, where their operands
are legal: what each sets, and its completion with status 0, which goes to the queue's ring; a reserved OP completes with
status 1, a CONFIG subcode that R319 does not list and a command on an unbound queue with status 7. `r` is the state with the
command outstanding. The turn neither posts nor joins nor looks at a waiting command, but for one clause in which it posts: that
is its choice (entry 10), and so is whose contribution it means. The numbers, nodes and ranges that CREATE and RESTORE take, the
layouts of peer table, report and image, what a renumbered module keeps, the place of a completion in its ring, how another
module's access arrives and the choice of a stage are the model's (entries 28 to 31, 49, 50, 55, 62 and 70). -/
def Obligations.EventsOfHosts : Prop :=
  ∀ (s : State) (h : HostHead) (ops : List Word) (a b c e f : Word) (n m : Nat) (q : WorkQueue) (d : VDev), Canonical s →
    s.deaf = false → s.host.waiting = [] → h.ord = false → s.turn.post = false → s.turn.join = false → s.turn.look = none →
    s.linked = true → s.tags = [] → s.blocked = [] → (∀ j ∈ s.mp.journal, j.done = true) →
    let r : State := s.cmdArrives h
    let op (i : Nat) : Nat := (ops.getD i 0).toNat
    let ends (t : State) (val : Word) : Prop := (⟨h.queue, h.tag, 0, 0, val, 0⟩ : Completion) ∈ t.host.comps
    let copied (dst : Word) (bs : List Byte) (k : Completion) : Memory :=
      (({ s.host with mem := s.host.mem.writeN dst.toNat bs } : HostSide).writeRecord k).mem
    let unit : Nat := 0x200_0000
    (s.boundTo h.queue = some (q, d) → d.power = .running → d.waking = false → d.boxing = false →
      (∀ bytes, a.toNat % 8 = 0 → r.engineBytes d a.toNat 128 = some bytes →
        (∀ p ∈ s.submits, ∀ o, p.origin = some o → o.queue ≠ h.queue) → Completes (.hostLaunch h a) s fun t =>
        t = (r.admitHost ⟨h.queue, h.tag, s.host.arrived + 1⟩ d bytes).settleVdev d.num) ∧
      (∀ bytes, (∃ w, a.toNat % 8 = 0 ∧ w = { s with turn := { s.turn with post := true } } ∧
          (w.cmdArrives h).engineBytes d a.toNat 128 = some bytes) →
        Completes (.hostLaunch h a) { s with turn := { s.turn with post := true } } fun t =>
          (⟨none, some ⟨h.queue, h.tag, s.host.arrived + 1⟩, d.num, a, bytes⟩ : Submit) ∈ t.submits) ∧
      (1 ≤ c.toNat → c.toNat ≤ 2 ^ 40 → f.toNat % 8 = 0 → (f = 0 ∨ ∃ u, r.countUp d f = .ok u) → Completes (.hostCopy h a b c 3 f) s fun t =>
        t.host.mem = copied b (s.host.mem.readN a.toNat c.toNat) ⟨h.queue, h.tag, 0, 0, 0, 0⟩ ∧ ends t 0) ∧
      (∀ x, r.eventTarget d.num (if n = 0 then d.runtime else n) m = some x → Completes (.hostEvent h n m a) s (ends · 0)) ∧
      (∀ pa, a.toNat % 8 = 0 → r.enginePa d .store a.toNat = some pa → Completes (.hostShape h a b) s fun t =>
        t.mem.nat pa 8 = 2 ^ 63 + min b.toNat (2 ^ 25 - 1) ∧ ends t 0) ∧
      Completes (.hostWake h) s (ends · 0) ∧ Completes (.words h) s (ends · (Config.wakeWord d.num)) ∧
      (let sets (i : Instr) (g : VDev → VDev) : Prop := Completes i s fun t => ends t 0 ∧ t.mem = s.mem ∧
        ∃ x, t.vdevNo d.num = some x ∧ { x with power := d.power } = g d
       (a.toNat % 4096 = 0 → a.toNat < 2 ^ 42 → sets (.root h a) fun d => { d with root := a }) ∧
       (a = 0 ∨ (100 ≤ a.toNat ∧ a.toNat ≤ 10 ^ 7) → sets (.idlet h a) fun d => { d with idlet := a }) ∧
       (1000 ≤ a.toNat → a.toNat ≤ 10 ^ 6 → sets (.quantum h a) fun d => { d with quantum := a }) ∧
       sets (.persist h a) (fun d => { d with persist := a :: d.persist.erase a }) ∧ sets (.tvec h a) (fun d => { d with tvec := a })) ∧
      Completes (.rtrec h a) s (fun t => ends t 0 ∧ ∃ x, t.vdevNo d.num = some x ∧ x.rtrec = a) ∧
      (d.wclass ≠ 0 → s.nothingLeft d = true → Completes (.box h) s fun t => ends t 0 ∧ ∃ x, t.vdevNo d.num = some x ∧ x.power = .boxed) ∧
      (c.toNat ≤ 2 → e.toNat ≤ 2 → b.getLsbD s.mp.module = true → Completes (.group h a b c e) s fun t => ends t 0 ∧
        (⟨a.toNat, d.num, b, c.toNat, e.toNat⟩ : Group) ∈ t.host.groups)) ∧
    (h.queue = 0 → s.vdevNo 0 = none → (∀ p ∈ s.host.queues, p.1 ≠ 0) →
      (s.vdevNo (op 0) = some d → d.power ≠ .boxed → s.rangesGood d.num (op 1) (op 2) (op 3) (op 4) = true →
        (d.wclass = 2 → op 2 ≤ d.wcap) → Completes (.memory h ops) s fun t => ends t 0 ∧
          t.vdevNo (op 0) = some { d with hbase := op 1, hbound := op 2, lbase := op 3, lbound := op 4 }) ∧
      (s.vdevNo a.toNat = some d → b.toNat ≤ 0xFFFF → Completes (.ways h a b) s fun t => ends t 0 ∧
        t.vdevNo a.toNat = some { d with ways := b } ∧ t.mem = s.mem) ∧
      (s.vdevNo (op 1) = some d → op 0 ≠ 0 → op 0 < 131072 → op 2 ≤ 2 → op 6 ≤ 1 →
        (op 2 = 0 ∨ r.canReserve d (op 0) (op 3) (op 4) = true) → Completes (.queue h ops) s fun t => ends t 0 ∧
          (op 0, (⟨d.num, op 2, op 3, op 4, ops.getD 5 0, op 6 == 1, 0⟩ : WorkQueue)) ∈ t.host.queues) ∧
      (s.mp.features = none → s.mp.created = false → a.toNat ≤ 7 → b = 0 → Completes (.features h a b) s fun t => ends t 0 ∧
        t.mp.features = some (BitVec.ofNat 128 a.toNat)) ∧
      (s.hasFeature 0 = true → a.toNat ≤ 63 → Completes (.domain h a b) s fun t => ends t 0 ∧ t.mp.module = a.toNat ∧
        t.host.peers = s.peerTable b.toNat ∧ t.mem = if a.toNat = s.mp.module then s.mem else (s.renumber a.toNat).mem) ∧
      (s.hasFeature 2 = true → s.mp.leaf < 2 ^ 20 → Completes (.attest h a b) s fun t => ends t 0 ∧ t.mp.leaf = s.mp.leaf + 1 ∧
        t.host.mem = s.host.mem.writeN b.toNat (s.reportOf a.toNat ++ Config.xmssSign s.mp.leaf (s.reportOf a.toNat))) ∧
      Completes (.freeze h) s (fun t => ends t 0 ∧ t.mp = { s.mp with frozen := true }) ∧
      ((∀ i x hb lb, s.mp.features.isSome = true → 4 ≤ op 0 → op 0 ≤ 13 → op 1 ≤ 1 → op 2 ≤ 2 → op 5 % unit = 0 → op 6 % unit = 0 →
          s.wakeGood (op 2) (op 3) (op 4) (op 5) = true → s.freeNode (op 0) (op 1 == 1) = some (i, x) →
          s.freeRanges (op 5) (op 6) = some (hb, lb) → Completes (.create h ops) s fun t =>
            t.tree = State.setNode s.tree ⟨op 0, i, some s.freshVdev⟩ ∧ ends t (BitVec.ofNat 64 s.freshVdev) ∧
            State.newVdev s.freshVdev (op 0) i (op 1 == 1) (op 2) (op 3) (op 4) hb (op 5) lb (op 6) ∈ t.vdevs) ∧
        (s.vdevNo a.toNat = some d → d.power ≠ .running → Completes (.destroy h a) s fun t => (∀ x ∈ t.vdevs, x.num ≠ d.num) ∧
          (s.nothingLeft d = true → ends t 0 ∧ t.tree = State.setNode s.tree ⟨d.level, d.index, none⟩)) ∧
        (∀ i x hb lb, let o (k : Nat) : Nat := s.imageOp a.toNat k
          4 ≤ o 0 → o 0 ≤ 13 → o 1 ≤ 1 → o 2 ≤ 2 → o 5 % unit = 0 → o 6 % unit = 0 → o 7 % 4096 = 0 → o 7 < 2 ^ 42 → o 8 ≤ 0xFFFF →
          (o 9 = 0 ∨ (100 ≤ o 9 ∧ o 9 ≤ 10 ^ 7)) → 1000 ≤ o 12 → o 12 ≤ 10 ^ 6 → s.freeNode (o 0) (o 1 == 1) = some (i, x) →
          s.freeRanges (o 5) (o 6) = some (hb, lb) → s.wakeGood (o 2) (o 3) (o 4) (o 5) = true → Completes (.restore h a) s fun t =>
            t.tree = State.setNode s.tree ⟨o 0, i, some s.freshVdev⟩ ∧ ends t (BitVec.ofNat 64 s.freshVdev) ∧
            ∃ v ∈ t.vdevs, v.num = s.freshVdev ∧ v.hbase = hb ∧ v.hbound = o 5 ∧ v.power = .boxed ∧ v.waking = true))) ∧
    (∀ op sub, (h.queue = 0 ∧ s.vdevNo 0 = none) ∨
        (∃ p, s.boundTo h.queue = some p ∧ p.2.power = .running ∧ p.2.waking = false ∧ p.2.boxing = false) →
      let gets (st : Nat) : Prop := Completes (.reservedOpCommand h ⟨op, sub⟩) s fun t =>
        (⟨h.queue, h.tag, st, 0, 0, 0⟩ : Completion) ∈ t.host.comps
      (op % 256 = 0 ∨ 6 < op % 256 ∨ op / 512 ≠ 0 → gets 1) ∧ (op % 256 = 6 → op / 512 = 0 → sub = 0 ∨ 19 < sub → gets 7)) ∧
    (s.boundTo h.queue = none → s.vdevNo 0 = none → Completes (.hostWake h) s fun t =>
      (⟨h.queue, h.tag, 7, 0, 0, 0⟩ : Completion) ∈ t.host.comps) ∧
    (∀ x, s.host.copies[n]? = some x → x.flags.getLsbD 0 = true → x.flags.getLsbD 1 = true → x.flags.getLsbD 2 = false → x.done = 0 →
      s.vdevNo x.vdev = some d → Completes (.copyCompletion n) s fun t =>
        t.host.mem = copied x.dst (s.host.mem.readN x.src.toNat x.len) ⟨x.head.queue, x.head.tag, 0, 0, 0, 0⟩ ∧
        t.host.copies = s.host.copies.erase x ∧ (⟨x.head.queue, x.head.tag, 0, 0, 0, 0⟩ : Completion) ∈ t.host.comps) ∧
    (∀ x own, s.contributed n = some x → x.part = some own →
      Completes (.collectiveTimeout n) s (fun t => (⟨x.head.queue, x.head.tag, 11, 0, 0, 0⟩ : Completion) ∈ t.host.comps ∧
        t.host.copies = s.host.copies.erase x) ∧
      (∀ g p ps s1, s.groupNum x.vdev n = some g → s.vdevNo x.vdev = some d → s.contributions g own = (p :: ps, s1) →
        x.flags.getLsbD 1 = true → x.done = 0 → Completes (.collectiveCombine n) s fun t =>
          t.host.mem = copied x.dst (ps.foldl (State.combine g.ty g.op) p) ⟨x.head.queue, x.head.tag, 0, 0, 0, 0⟩ ∧
          (⟨x.head.queue, x.head.tag, 0, 0, 0, 0⟩ : Completion) ∈ t.host.comps)) ∧
    (∀ src who ln (k : RemoteReq) off, s.moduleUp src = true → src ≠ s.mp.module → s.vdevNo k.vdev = some d → praToPa d k.pra = some off →
      let pa := s.mp.module * 2 ^ 42 + off
      let old := s.mem.nat pa k.size
      let x := natOfBytes k.data
      let w := 2 ^ (8 * k.size)
      mappedPa pa = true → k.size ∈ [1, 2, 4, 8, 32] → pa % k.size = 0 → (k.acc ≠ .load → k.data.length = k.size) →
      let puts (v : Nat) : Prop := Completes (.remoteAccess src who ln (.access k)) s fun t => t.mem.nat pa k.size = v % w ∧
        ∀ p, p < pa ∨ pa + k.size ≤ p → t.mem.read p = s.mem.read p
      (k.acc = .load → Completes (.remoteAccess src who ln (.access k)) s fun t => t = s) ∧
      (k.acc = .store ∨ k.acc = .swap → puts x) ∧ (k.acc = .add → puts (old + x)) ∧ (k.acc = .and → puts (old &&& x)) ∧
      (k.acc = .or → puts (old ||| x)) ∧ (k.acc = .xor → puts (old ^^^ x)) ∧ (k.acc = .minu → puts (min old x)) ∧
      (k.acc = .maxu → puts (max old x)) ∧ (k.acc = .cas → puts (if old = k.cmp.toNat % w then x else old))) ∧
    (∀ who src pra dn, s.flights.find? (State.isRemote who) = some ⟨src, .remote pra, dn⟩ → Completes (.remoteAccessTimeout who) s fun t =>
      t.me = s.me ∧ Trapped { s with me := who } { t with me := who } True 19 (BitVec.ofNat 64 pra)) ∧
    (s.vdevNo n = some d → Completes (.eventWordWrite n a) s fun t => getK 0 d.num t.host.events = a ∧ t.mem = s.mem)

/-! ## The machine as a whole -/

/-- R44, R66, R91, R403: when the turn names a core, its first candidate strand may issue, and what it fetches decodes to an
instruction that waits for no record, a step is `exec` of that instruction, renamed in a `rep` body, in the state that issue
and fetch leave; a synchronous fetch fault and a chain that decodes to nothing trap; a fetch that waits at its slice leaves
the next candidate to be tried; a cause that is due is taken instead; and a turn that names an event is `exec` of it. The turn and the order of trying are the model's (entry 2). -/
def Obligations.StepRunsDecoded : Prop :=
  ∀ (s : State) (n k : Nat) (ks : List Nat),
    let b := s.begin
    let m : State := { b with me := ⟨n, k⟩ }
    (b.turn.act = .core n → b.candidates n = k :: ks →
      (MayIssue m → ∀ f : State,
        (∀ (c : Chain) (ps : List Parcel), (m.issued n k).enterInsn.fetchNext = (.chain c ps, f) →
          (∀ i, decodeChain c = some i → f.waitsX c ps = false →
            let g := f.latched ps
            Follows b n k ks g (exec (rename (State.renameBy g.strand) i) g) (step s)) ∧
          (decodeChain c = none → f.waitsX c ps = false →
            step s = .next (((f.latched ps).takeSync 1 (firstFour ps) 0).tick n))) ∧
        (∀ ps, (m.issued n k).enterInsn.fetchNext = (.bad ps, f) →
          step s = .next (((f.latched ps).takeSync 1 (firstFour ps) 0).tick n)) ∧
        (∀ cause v, (m.issued n k).enterInsn.fetchNext = (.fault cause v, f) →
          step s = .next ((f.takeSync cause v 0).tick n)) ∧
        ((m.issued n k).enterInsn.fetchNext = (.wait, f) →
          step s = match State.tryFrom { f.unissued n (b.coreAt n) with me := b.me } n ks with
            | .next u => .next (u.tick n)
            | stop => stop)) ∧
      (m.strand.live = true → m.gated n = false → m.turn.stall.contains k = false → m.doomed m.me = false →
        ∀ code val toM, m.asyncDue = some (code, val, toM) →
          step s = .next ((m.takeDue code val toM).tick n))) ∧
    (∀ i, b.turn.act = .event i → (b.mp.frozen = false ∨ runsFrozen i = true) → step s = exec i b) ∧
    (∀ i, b.turn.act = .event i → b.mp.frozen = true → runsFrozen i = false → step s = .next b)

/-- R66, R94, R95, R81: outside a `rep` body a strand fetches from memory, unless it holds at an instruction that it has issued. When each parcel's address is global, its cached
translation holds and gives an address of this module, no line of it stands in the core's instruction cache and none is
uncorrectable or held whole (R195), then what is fetched is the chain of the parcels that stand in memory, least significant byte first, and a list
of parcels that the decoder reads whole is a chain that decodes to the same instruction. -/
def Obligations.FetchReadsMemory : Prop :=
  (∀ (s : State) (d : VDev) (ps : List Parcel) (i : Instr) (loc : Nat → Loc),
    State.inRep s.strand = false → (s.strand.sync.held = false ∨ s.strand.sync.insn = []) → s.vdevOf s.me = some d → decodeParcels ps = some (i, ps.length) →
    (∀ j, j < ps.length →
      let va := s.strand.pc + BitVec.ofNat 64 (2 * j)
      isGlobal va = true ∧ translate s s.me.core d s.strand.mode .fetch false va = .ok (loc j, s) ∧
      (loc j).pa % 2 = 0 ∧ s.isOwn (loc j) = true ∧ s.lineBad ((loc j).pa / 32) = false ∧
      s.heldWhole (.line ((loc j).pa / 32 * 32)) = false ∧ s.turn.icErr ≠ some ((loc j).pa / 32) ∧
      (∀ e ∈ (s.coreAt s.me.core).icache, e.1 ≠ (loc j).pa / 32) ∧
      s.mem.nat (loc j).pa 2 = (ps.getD j 0).toNat) →
    ∃ c, s.fetchNext.1 = .chain c ps ∧ decodeChain c = some i ∧
      { s.fetchNext.2 with cores := s.cores } = s)

/-- R83 to R98, R200, R331, R375: words written out from the spec's own examples decode to the instructions they stand for. -/
def Obligations.DecodeWords : Prop :=
  decodeTableWord 16 0x0000 = some .nop ∧
  decodeParcels [0xF414, 0x0670] = some (.add 6 7 5, 2) ∧
  decodeParcels [0xF3F9, 0x250C] = some (.addi 5 5 (-100), 2) ∧
  decodeParcels [0xF650, 0x2508] = some (.addi 21 20 (-8), 2) ∧
  decodeParcels [0x056B] = some (.div 5 6 5, 1) ∧
  decodeParcels [0xF414, 0x067E] = some (.remu 6 7 5, 2) ∧
  decodeParcels [0xF001, 0xD42C] = some (.brk 300, 2) ∧
  decodeParcels [0xF414, 0x1678] = some (.cselZ 6 7 5, 2) ∧
  decodeParcels [0x0565] = some (.sll 5 6 5, 1) ∧ decodeParcels [0xF002, 0x2568] = some (.srai 5 5 40, 2) ∧
  decodeParcels [0xFFFF] = none

/-- R81 to R99: the encoder and the decoder agree. Every well-formed instruction that has an encoding (the events, which have
none, are given no parcels) is read back whole from its parcels, with every operand as it was. -/
def Obligations.RoundTrip : Prop :=
  ∀ i : Instr, i.wf = true → encode i ≠ [] → decodeParcels (encode i) = some (i, (encode i).length)

/-- R187, R5: every step, whatever it does, keeps module memory, host memory and every core's LM in canonical form. The
form is the model's (entry 4). -/
def Obligations.StepKeepsCanonical : Prop :=
  ∀ s t : State, Canonical s → step s = .next t → Canonical t

/-- R5, R59, R60, R62, R124, R178, R304, R320: what module cold reset leaves. No strand is resident, no device or launch exists,
node (13, 0) is free, no features are accepted; on every core TOWN, TCFG and CYCLE are 0 and every full/empty bit is full;
BTO is 2^20, and FPC, FFLAGS, INSTRET and the status and cause registers are 0; no frame is active; and memory is in
canonical form. The empty memory is the model's choice (entry 4), and so is that the firmware stands verified (entry
61). -/
def Obligations.ResetState : Prop :=
  Canonical State.reset ∧
  (∀ w, (State.reset.strandAt w).live = false) ∧ State.reset.vdevs = [] ∧ State.reset.launches = [] ∧
  State.reset.tree = [⟨13, 0, none⟩] ∧ State.reset.mp.features = none ∧
  (∀ n, (State.reset.coreAt n).town = 0 ∧ (State.reset.coreAt n).tcfg = Vector.replicate 8 0 ∧
    (State.reset.coreAt n).cycle = 0 ∧ (State.reset.coreAt n).empty = []) ∧
  (∀ w, (State.reset.strandAt w).csr.bto = 0x10_0000 ∧ (State.reset.strandAt w).csr.fpc = 0 ∧
    (State.reset.strandAt w).csr.fflags = 0 ∧ (State.reset.strandAt w).csr.instret = 0 ∧
    (State.reset.strandAt w).sBank.status = 0 ∧ (State.reset.strandAt w).sBank.cause = 0 ∧
    (State.reset.strandAt w).mBank.status = 0 ∧ (State.reset.strandAt w).mBank.cause = 0) ∧
  (∀ w md, ((State.reset.strandAt w).frame md).act = false)
end

