-- ==== Sys2Proof/Laws/Memory.lean ====
section
/-! SUPPORT. Memory's canonical form is kept by every operation on it; a write reads back and leaves every other byte; and
memories in canonical form that read the same are the same. -/

namespace Sys2Proof.Machine

theorem cellsFrom_cons (lo a : Nat) (b : Byte) (m : Memory) :
    cellsFrom lo ((a, b) :: m) = true ↔ lo ≤ a ∧ b ≠ 0 ∧ cellsFrom (a + 1) m = true := by
  simp [cellsFrom, and_assoc]

theorem cellsFrom_mono {lo hi : Nat} {m : Memory} (h : lo ≤ hi) (hm : cellsFrom hi m = true) : cellsFrom lo m = true := by
  cases m with
  | nil => rfl
  | cons c m =>
    obtain ⟨a, b⟩ := c
    rw [cellsFrom_cons] at hm ⊢
    exact ⟨Nat.le_trans h hm.1, hm.2⟩

theorem cellsFrom_write {lo k : Nat} {m : Memory} (v : Byte) (h : lo ≤ k) (hm : cellsFrom lo m = true) :
    cellsFrom lo (m.write k v) = true := by
  induction m generalizing lo with
  | nil =>
    by_cases hv : v = 0
    · simp [Memory.write, hv, cellsFrom]
    · simp [Memory.write, show ¬ v = 0#8 from hv, cellsFrom, h]
  | cons c m ih =>
    obtain ⟨a, b⟩ := c
    rw [cellsFrom_cons] at hm
    obtain ⟨h1, h2, h3⟩ := hm
    by_cases ha : a = k
    · by_cases hv : v = 0
      · simp only [Memory.write, ha, hv, if_true]
        exact cellsFrom_mono (by omega) h3
      · simp only [Memory.write, ha, hv, if_true, if_false, cellsFrom_cons]
        exact ⟨h, hv, ha ▸ h3⟩
    · by_cases hk : k < a
      · by_cases hv : v = 0
        · simp only [Memory.write, ha, hk, hv, if_true, if_false, cellsFrom_cons]
          exact ⟨h1, h2, h3⟩
        · simp only [Memory.write, ha, hk, hv, if_true, if_false, cellsFrom_cons]
          exact ⟨h, hv, hk, h2, h3⟩
      · simp only [Memory.write, ha, hk, if_false, cellsFrom_cons]
        exact ⟨h1, h2, ih (by omega) h3⟩

theorem Memory.wf_write {m : Memory} (k : Nat) (v : Byte) (hm : m.wf = true) : (m.write k v).wf = true :=
  cellsFrom_write v (Nat.zero_le k) hm

theorem Memory.wf_writeN {m : Memory} (bs : List Byte) (a : Nat) (hm : m.wf = true) : (m.writeN a bs).wf = true := by
  induction bs generalizing m a with
  | nil => exact hm
  | cons b bs ih => exact ih (a + 1) (Memory.wf_write a b hm)

theorem Memory.wf_writeCells {m : Memory} (cs : List Host.Cell) (hm : m.wf = true) : (m.writeCells cs).wf = true := by
  induction cs generalizing m with
  | nil => exact hm
  | cons c cs ih => exact ih (Memory.wf_write c.1 c.2 hm)

theorem cellsFrom_filter {lo : Nat} {m : Memory} (p : Host.Cell → Bool) (hm : cellsFrom lo m = true) :
    cellsFrom lo (m.filter p) = true := by
  induction m generalizing lo with
  | nil => rfl
  | cons c m ih =>
    obtain ⟨a, b⟩ := c
    rw [cellsFrom_cons] at hm
    by_cases hp : p (a, b) = true
    · simp only [List.filter_cons, hp, if_true, cellsFrom_cons]
      exact ⟨hm.1, hm.2.1, ih hm.2.2⟩
    · simp only [List.filter_cons, hp]
      exact ih (cellsFrom_mono (by omega) hm.2.2)

theorem Memory.wf_filter {m : Memory} (p : Host.Cell → Bool) (hm : m.wf = true) :
    Memory.wf (List.filter p m) = true := cellsFrom_filter p hm

theorem Memory.read_below {lo k : Nat} {m : Memory} (hm : cellsFrom lo m = true) (h : k < lo) : m.read k = 0 := by
  cases m with
  | nil => rfl
  | cons c m =>
    obtain ⟨a, b⟩ := c
    rw [cellsFrom_cons] at hm
    have h1 : a ≠ k := by omega
    have h2 : k < a := by omega
    simp [Memory.read, h1, h2]

theorem Memory.read_write_from {lo k : Nat} {m : Memory} (v : Byte) (hm : cellsFrom lo m = true) (j : Nat) :
    (m.write k v).read j = if j = k then v else m.read j := by
  induction m generalizing lo with
  | nil =>
    by_cases hv : v = 0
    · by_cases hj : j = k <;> simp [Memory.write, Memory.read, hv]
    · by_cases hj : j = k
      · simp [Memory.write, Memory.read, show ¬ v = 0#8 from hv, hj]
      · have : k ≠ j := fun e => hj e.symm
        simp [Memory.write, Memory.read, show ¬ v = 0#8 from hv, hj, this]
  | cons c m ih =>
    obtain ⟨a, b⟩ := c
    rw [cellsFrom_cons] at hm
    obtain ⟨h1, h2, h3⟩ := hm
    by_cases ha : a = k
    · subst ha
      by_cases hj : j = a
      · subst hj
        by_cases hv : v = 0
        · simp [Memory.write, hv, Memory.read_below h3]
        · simp [Memory.write, Memory.read, show ¬ v = 0#8 from hv]
      · have hj' : a ≠ j := fun e => hj e.symm
        by_cases hv : v = 0
        · simp only [Memory.write, hv, if_true, hj, if_false, Memory.read, hj']
          by_cases hlt : j < a
          · simp [hlt, Memory.read_below h3 (show j < a + 1 by omega)]
          · simp [hlt]
        · simp [Memory.write, Memory.read, show ¬ v = 0#8 from hv, hj, hj']
    · by_cases hk : k < a
      · by_cases hj : j = k
        · subst hj
          by_cases hv : v = 0
          · simp [Memory.write, Memory.read, ha, hk, hv]
          · simp [Memory.write, Memory.read, ha, hk, show ¬ v = 0#8 from hv]
        · have hj' : k ≠ j := fun e => hj e.symm
          by_cases hv : v = 0
          · simp [Memory.write, ha, hk, hv, hj]
          · simp only [Memory.write, ha, hk, hv, if_true, if_false, hj, Memory.read, hj']
            by_cases hlt : j < k
            · have h4 : a ≠ j := by omega
              have h5 : j < a := by omega
              simp [hlt, h4, h5]
            · simp [hlt]
      · by_cases hj : j = k
        · subst hj
          have h4 : a ≠ j := ha
          simp only [Memory.write, ha, hk, if_false, Memory.read]
          simpa using ih h3
        · simp only [Memory.write, ha, hk, if_false, Memory.read, ih h3, hj]

theorem Memory.read_write {m : Memory} (hm : m.wf = true) (k j : Nat) (v : Byte) :
    (m.write k v).read j = if j = k then v else m.read j := Memory.read_write_from v hm j

theorem Memory.read_writeN {m : Memory} (hm : m.wf = true) (bs : List Byte) (a j : Nat) :
    (m.writeN a bs).read j = if a ≤ j ∧ j < a + bs.length then bs.getD (j - a) 0 else m.read j := by
  induction bs generalizing m a with
  | nil => simp [Memory.writeN, show ¬ (a ≤ j ∧ j < a) by omega]
  | cons b bs ih =>
    rw [Memory.writeN, ih (Memory.wf_write a b hm), Memory.read_write hm]
    by_cases hj : j = a
    · subst hj
      simp [show ¬ (j + 1 ≤ j) by omega]
    · by_cases h : a + 1 ≤ j ∧ j < a + 1 + bs.length
      · have h' : a ≤ j ∧ j < a + (b :: bs).length := by simp; omega
        have h6 : j - a = (j - (a + 1)) + 1 := by omega
        rw [if_pos h, if_pos h', h6]
        simp
      · have h' : ¬ (a ≤ j ∧ j < a + (b :: bs).length) := by simp; omega
        rw [if_neg h, if_neg h', if_neg hj]

theorem Memory.eq_of_read_from {lo : Nat} {m n : Memory} (hm : cellsFrom lo m = true) (hn : cellsFrom lo n = true)
    (h : ∀ k, m.read k = n.read k) : m = n := by
  induction m generalizing lo n with
  | nil =>
    cases n with
    | nil => rfl
    | cons c n =>
      obtain ⟨a, b⟩ := c
      rw [cellsFrom_cons] at hn
      exact absurd (by simpa [Memory.read] using (h a).symm) hn.2.1
  | cons c m ih =>
    obtain ⟨a, b⟩ := c
    rw [cellsFrom_cons] at hm
    cases n with
    | nil => exact absurd (by simpa [Memory.read] using h a) hm.2.1
    | cons d n =>
      obtain ⟨a', b'⟩ := d
      rw [cellsFrom_cons] at hn
      have key : a = a' := by
        rcases Nat.lt_trichotomy a a' with hlt | heq | hgt
        · have := h a
          simp [Memory.read, show a' ≠ a by omega, hlt] at this
          exact absurd this hm.2.1
        · exact heq
        · have := h a'
          simp [Memory.read, show a ≠ a' by omega, hgt] at this
          exact absurd this.symm hn.2.1
      subst key
      have hb : b = b' := by simpa [Memory.read] using h a
      subst hb
      have : m = n := ih hm.2.2 hn.2.2 fun k => by
        by_cases hk : k < a + 1
        · rw [Memory.read_below hm.2.2 hk, Memory.read_below hn.2.2 hk]
        · have := h k
          simpa [Memory.read, show a ≠ k by omega, show ¬ k < a by omega] using this
      rw [this]

/-- Memories in canonical form that read the same are the same data. -/
theorem Memory.eq_of_read {m n : Memory} (hm : m.wf = true) (hn : n.wf = true) (h : ∀ k, m.read k = n.read k) : m = n :=
  Memory.eq_of_read_from hm hn h

theorem reset_mem_wf : State.reset.mem.wf = true ∧ State.reset.host.mem.wf = true ∧ Core.reset.lm.wf = true :=
  ⟨rfl, rfl, rfl⟩

end Sys2Proof.Machine
end

