-- ==== Sys2Proof/Laws/Canonical.lean ====
section
/-! SUPPORT. Module memory, host memory and every core's LM stay in canonical form under the operations that write them. -/

namespace Sys2Proof.Machine

theorem forall_setK {α : Type} (P : α → Prop) (k : Nat) (a : α) (ha : P a) (l : List (Nat × α)) (hl : ∀ p ∈ l, P p.2) :
    ∀ p ∈ setK k a l, P p.2 := by
  induction l with
  | nil => simpa [setK] using ha
  | cons q rest ih =>
    obtain ⟨j, b⟩ := q
    have hb : P b := hl (j, b) (by simp)
    have hr : ∀ p ∈ rest, P p.2 := fun p hp => hl p (by simp [hp])
    intro p hp
    unfold setK at hp
    split at hp
    · rcases List.mem_cons.1 hp with rfl | h
      · exact ha
      · exact hr p h
    · split at hp
      · rcases List.mem_cons.1 hp with rfl | h
        · exact ha
        · rcases List.mem_cons.1 h with rfl | h
          · exact hb
          · exact hr p h
      · rcases List.mem_cons.1 hp with rfl | h
        · exact hb
        · exact ih hr p h

theorem of_getK {α : Type} (P : α → Prop) (d : α) (hd : P d) (k : Nat) (l : List (Nat × α)) (hl : ∀ p ∈ l, P p.2) :
    P (getK d k l) := by
  induction l with
  | nil => exact hd
  | cons q rest ih =>
    obtain ⟨j, b⟩ := q
    unfold getK
    split
    · exact hl (j, b) (by simp)
    · exact ih fun p hp => hl p (by simp [hp])

/-- What keeps the three stores keeps their form. -/
theorem Canonical.of_eq {s t : State} (h : Canonical s) (hm : t.mem = s.mem) (hh : t.host.mem = s.host.mem) (hc : t.cores = s.cores) :
    Canonical t := ⟨hm ▸ h.1, hh ▸ h.2.1, hc ▸ h.2.2⟩

theorem Canonical.coreAt {s : State} (h : Canonical s) (n : Nat) : (s.coreAt n).lm.wf = true :=
  of_getK (fun c : Core => c.lm.wf = true) Core.reset rfl n s.cores h.2.2

theorem Canonical.setCore {s : State} (h : Canonical s) (n : Nat) (c : Core) (hc : c.lm.wf = true) : Canonical (s.setCore n c) :=
  ⟨h.1, h.2.1, forall_setK (fun c : Core => c.lm.wf = true) n c hc s.cores h.2.2⟩

theorem Canonical.modCore {s : State} (h : Canonical s) (n : Nat) (f : Core → Core) (hf : ∀ c : Core, c.lm.wf = true → (f c).lm.wf = true) :
    Canonical (s.modCore n f) := h.setCore n _ (hf _ (h.coreAt n))

theorem Canonical.withCore {s : State} (h : Canonical s) (f : Core → Core) (hf : ∀ c : Core, c.lm.wf = true → (f c).lm.wf = true) :
    Canonical (s.withCore f) := h.setCore _ _ (hf _ (h.coreAt _))

theorem Canonical.modStrand {s : State} (h : Canonical s) (w : Sid) (f : Strand → Strand) : Canonical (s.modStrand w f) :=
  h.of_eq rfl rfl rfl

theorem Canonical.withStrand {s : State} (h : Canonical s) (f : Strand → Strand) : Canonical (s.withStrand f) :=
  h.of_eq rfl rfl rfl

/-- An operation repeated over a list keeps the form when each application does. -/
theorem Canonical.foldl {β : Type} (f : State → β → State) (hf : ∀ s b, Canonical s → Canonical (f s b)) (l : List β) {s : State}
    (h : Canonical s) : Canonical (l.foldl f s) := by
  induction l generalizing s with
  | nil => exact h
  | cons b l ih => exact ih (hf s b h)

theorem Canonical.wakeAll {s : State} (h : Canonical s) (p : Target → Bool) : Canonical (s.wakeAll p) := h.of_eq rfl rfl rfl

theorem Canonical.wake {s : State} (h : Canonical s) (p : Target) : Canonical (s.wake p) := h.of_eq rfl rfl rfl

/-- Bytes that read 0 from then on. -/
theorem Canonical.zeroMem {s : State} (h : Canonical s) (pa n : Nat) : Canonical (s.zeroMem pa n) := by
  refine Canonical.wakeAll ?_ _
  exact ⟨Memory.wf_filter _ h.1, h.2.1, h.2.2⟩

/-- A write performed at the home slices. -/
theorem Canonical.sliceWrite {s : State} (h : Canonical s) (cells : List Host.Cell) (tag : Option Tag) : Canonical (s.sliceWrite cells tag) := by
  refine Canonical.foldl _ (fun s n h => h.wake _) _ ?_
  exact ⟨Memory.wf_writeCells cells h.1, h.2.1, h.2.2⟩

theorem Canonical.servePort {s : State} (h : Canonical s) (core word : Nat) (l : List PortReq) :
    Canonical (s.servePort core word l) := by
  induction l generalizing s with
  | nil => exact h
  | cons r rest ih =>
    unfold State.servePort
    split
    · exact ih h
    · exact ih ((h.modStrand _ _).modCore _ _ fun _ hc => hc)

/-- A write performed at an LM port. -/
theorem Canonical.lmPortWrite {s : State} (h : Canonical s) (core : Nat) (cells : List Host.Cell) (bits : List (Nat × Bool))
    (tag : Option Tag) : Canonical (s.lmPortWrite core cells bits tag) := by
  refine Canonical.foldl _ (fun s p h => ?_) _ (Canonical.foldl _ (fun s w h => h.wake _) _ (h.modCore _ _ fun c hc => ?_))
  · split
    · exact h.servePort _ _ _
    · exact h
  · cases tag <;> exact Memory.wf_writeCells cells hc

/-- A record that the E-die writes, or keeps. -/
theorem Canonical.report {s : State} (h : Canonical s) (c : Completion) : Canonical (s.report c) := by
  refine ⟨h.1, ?_, h.2.2⟩
  unfold State.report
  dsimp only
  split
  · unfold HostSide.writeRecord
    dsimp only
    split
    · exact Memory.wf_writeN _ _ h.2.1
    · exact h.2.1
  · exact h.2.1

theorem Canonical.giveBack {s : State} (h : Canonical s) (v : Saved) (k : Stash) (w : Sid) (r : Nat) :
    Canonical (s.giveBack v k w r) := by
  unfold State.giveBack
  dsimp only
  split
  · exact h.modCore _ _ fun _ hc => hc
  · split
    · exact h
    · refine h.modCore _ _ fun c hc => ?_
      split <;> exact hc

/-- What the firmware puts back of a strand. -/
theorem Canonical.putBack {s : State} (h : Canonical s) (v : Saved) (k : Stash) (w : Sid) : Canonical (s.putBack v k w) := by
  unfold State.putBack
  refine Canonical.foldl _ (fun s n h => h.servePort _ _ _) _ (Canonical.wakeAll (Canonical.modCore
    (Canonical.foldl _ (fun s r h => h.giveBack v k w r) _ h) _ _ fun c hc => ?_) _)
  exact Memory.wf_writeCells _ (Memory.wf_filter _ hc)

end Sys2Proof.Machine
end

