-- ==== Sys2Proof/Laws/Keys.lean ====
section
/-! SUPPORT. Keyed lists and vectors of registers: a read after a write. -/

namespace Sys2Proof.Machine

theorem getK_setK_same (d : α) (k : Nat) (a : α) (l : List (Nat × α)) : getK d k (setK k a l) = a := by
  induction l with
  | nil => simp [setK, getK]
  | cons p rest ih =>
    obtain ⟨j, b⟩ := p
    by_cases h : j = k
    · simp [setK, getK, h]
    · by_cases g : k < j <;> simp [setK, getK, h, g, ih]

theorem getK_setK_other (d : α) (k m : Nat) (a : α) (l : List (Nat × α)) (h : m ≠ k) :
    getK d m (setK k a l) = getK d m l := by
  induction l with
  | nil => simp [setK, getK, Ne.symm h]
  | cons p rest ih =>
    obtain ⟨j, b⟩ := p
    by_cases e : j = k
    · subst e; simp [setK, getK, Ne.symm h]
    · by_cases g : k < j
      · simp [setK, getK, e, g, Ne.symm h]
      · simp only [setK, e, g, if_false, getK, ih]

@[simp] theorem getK_setK (d : α) (k m : Nat) (a : α) (l : List (Nat × α)) :
    getK d m (setK k a l) = if m = k then a else getK d m l := by
  by_cases h : m = k
  · subst h; simp [getK_setK_same]
  · simp [h, getK_setK_other]

@[simp] theorem vget_vset {n k : Nat} (v : Vector α n) (i j : BitVec k) (a : α) (h : 2 ^ k = n) :
    vget (vset v i a h) j h = if j = i then a else vget v j h := by
  simp only [vget, vset, Vector.getElem_set]
  by_cases e : i = j
  · subst e; simp
  · have : i.toNat ≠ j.toNat := fun c => e (BitVec.eq_of_toNat_eq c)
    simp [this, Ne.symm e]

end Sys2Proof.Machine
end

