-- ==== Sys2Proof/Laws/State.lean ====
section
/-! SUPPORT. One lemma for each field of the state and each elementary update of it, and what the registers read after a
write. -/

namespace Sys2Proof.Machine.State

/-! `setStrand` -/
@[simp] theorem setStrand_sched (s : State) (w : Sid) (u : Strand) : (s.setStrand w u).sched = s.sched := rfl
@[simp] theorem setStrand_turn (s : State) (w : Sid) (u : Strand) : (s.setStrand w u).turn = s.turn := rfl
@[simp] theorem setStrand_me (s : State) (w : Sid) (u : Strand) : (s.setStrand w u).me = s.me := rfl
@[simp] theorem setStrand_latch (s : State) (w : Sid) (u : Strand) : (s.setStrand w u).latch = s.latch := rfl
@[simp] theorem setStrand_fresh (s : State) (w : Sid) (u : Strand) : (s.setStrand w u).fresh = s.fresh := rfl
@[simp] theorem setStrand_cores (s : State) (w : Sid) (u : Strand) : (s.setStrand w u).cores = s.cores := rfl
@[simp] theorem setStrand_mem (s : State) (w : Sid) (u : Strand) : (s.setStrand w u).mem = s.mem := rfl
@[simp] theorem setStrand_tags (s : State) (w : Sid) (u : Strand) : (s.setStrand w u).tags = s.tags := rfl
@[simp] theorem setStrand_blocked (s : State) (w : Sid) (u : Strand) : (s.setStrand w u).blocked = s.blocked := rfl
@[simp] theorem setStrand_flights (s : State) (w : Sid) (u : Strand) : (s.setStrand w u).flights = s.flights := rfl
@[simp] theorem setStrand_parked (s : State) (w : Sid) (u : Strand) : (s.setStrand w u).parked = s.parked := rfl
@[simp] theorem setStrand_prov (s : State) (w : Sid) (u : Strand) : (s.setStrand w u).prov = s.prov := rfl
@[simp] theorem setStrand_wires (s : State) (w : Sid) (u : Strand) : (s.setStrand w u).wires = s.wires := rfl
@[simp] theorem setStrand_clTlb (s : State) (w : Sid) (u : Strand) : (s.setStrand w u).clTlb = s.clTlb := rfl
@[simp] theorem setStrand_fused (s : State) (w : Sid) (u : Strand) : (s.setStrand w u).fused = s.fused := rfl
@[simp] theorem setStrand_retired (s : State) (w : Sid) (u : Strand) : (s.setStrand w u).retired = s.retired := rfl
@[simp] theorem setStrand_badPages (s : State) (w : Sid) (u : Strand) : (s.setStrand w u).badPages = s.badPages := rfl
@[simp] theorem setStrand_tree (s : State) (w : Sid) (u : Strand) : (s.setStrand w u).tree = s.tree := rfl
@[simp] theorem setStrand_vdevs (s : State) (w : Sid) (u : Strand) : (s.setStrand w u).vdevs = s.vdevs := rfl
@[simp] theorem setStrand_submits (s : State) (w : Sid) (u : Strand) : (s.setStrand w u).submits = s.submits := rfl
@[simp] theorem setStrand_launches (s : State) (w : Sid) (u : Strand) : (s.setStrand w u).launches = s.launches := rfl
@[simp] theorem setStrand_nextNum (s : State) (w : Sid) (u : Strand) : (s.setStrand w u).nextNum = s.nextNum := rfl
@[simp] theorem setStrand_preds (s : State) (w : Sid) (u : Strand) : (s.setStrand w u).preds = s.preds := rfl
@[simp] theorem setStrand_saved (s : State) (w : Sid) (u : Strand) : (s.setStrand w u).saved = s.saved := rfl
@[simp] theorem setStrand_host (s : State) (w : Sid) (u : Strand) : (s.setStrand w u).host = s.host := rfl
@[simp] theorem setStrand_mp (s : State) (w : Sid) (u : Strand) : (s.setStrand w u).mp = s.mp := rfl

/-! `setCore` -/
@[simp] theorem setCore_sched (s : State) (n : Nat) (c : Core) : (s.setCore n c).sched = s.sched := rfl
@[simp] theorem setCore_turn (s : State) (n : Nat) (c : Core) : (s.setCore n c).turn = s.turn := rfl
@[simp] theorem setCore_me (s : State) (n : Nat) (c : Core) : (s.setCore n c).me = s.me := rfl
@[simp] theorem setCore_latch (s : State) (n : Nat) (c : Core) : (s.setCore n c).latch = s.latch := rfl
@[simp] theorem setCore_fresh (s : State) (n : Nat) (c : Core) : (s.setCore n c).fresh = s.fresh := rfl
@[simp] theorem setCore_strands (s : State) (n : Nat) (c : Core) : (s.setCore n c).strands = s.strands := rfl
@[simp] theorem setCore_mem (s : State) (n : Nat) (c : Core) : (s.setCore n c).mem = s.mem := rfl
@[simp] theorem setCore_tags (s : State) (n : Nat) (c : Core) : (s.setCore n c).tags = s.tags := rfl
@[simp] theorem setCore_blocked (s : State) (n : Nat) (c : Core) : (s.setCore n c).blocked = s.blocked := rfl
@[simp] theorem setCore_flights (s : State) (n : Nat) (c : Core) : (s.setCore n c).flights = s.flights := rfl
@[simp] theorem setCore_parked (s : State) (n : Nat) (c : Core) : (s.setCore n c).parked = s.parked := rfl
@[simp] theorem setCore_prov (s : State) (n : Nat) (c : Core) : (s.setCore n c).prov = s.prov := rfl
@[simp] theorem setCore_wires (s : State) (n : Nat) (c : Core) : (s.setCore n c).wires = s.wires := rfl
@[simp] theorem setCore_clTlb (s : State) (n : Nat) (c : Core) : (s.setCore n c).clTlb = s.clTlb := rfl
@[simp] theorem setCore_fused (s : State) (n : Nat) (c : Core) : (s.setCore n c).fused = s.fused := rfl
@[simp] theorem setCore_retired (s : State) (n : Nat) (c : Core) : (s.setCore n c).retired = s.retired := rfl
@[simp] theorem setCore_badPages (s : State) (n : Nat) (c : Core) : (s.setCore n c).badPages = s.badPages := rfl
@[simp] theorem setCore_tree (s : State) (n : Nat) (c : Core) : (s.setCore n c).tree = s.tree := rfl
@[simp] theorem setCore_vdevs (s : State) (n : Nat) (c : Core) : (s.setCore n c).vdevs = s.vdevs := rfl
@[simp] theorem setCore_submits (s : State) (n : Nat) (c : Core) : (s.setCore n c).submits = s.submits := rfl
@[simp] theorem setCore_launches (s : State) (n : Nat) (c : Core) : (s.setCore n c).launches = s.launches := rfl
@[simp] theorem setCore_nextNum (s : State) (n : Nat) (c : Core) : (s.setCore n c).nextNum = s.nextNum := rfl
@[simp] theorem setCore_preds (s : State) (n : Nat) (c : Core) : (s.setCore n c).preds = s.preds := rfl
@[simp] theorem setCore_saved (s : State) (n : Nat) (c : Core) : (s.setCore n c).saved = s.saved := rfl
@[simp] theorem setCore_host (s : State) (n : Nat) (c : Core) : (s.setCore n c).host = s.host := rfl
@[simp] theorem setCore_mp (s : State) (n : Nat) (c : Core) : (s.setCore n c).mp = s.mp := rfl

/-! `withStrand` -/
@[simp] theorem withStrand_sched (s : State) (f : Strand → Strand) : (s.withStrand f).sched = s.sched := rfl
@[simp] theorem withStrand_turn (s : State) (f : Strand → Strand) : (s.withStrand f).turn = s.turn := rfl
@[simp] theorem withStrand_me (s : State) (f : Strand → Strand) : (s.withStrand f).me = s.me := rfl
@[simp] theorem withStrand_latch (s : State) (f : Strand → Strand) : (s.withStrand f).latch = s.latch := rfl
@[simp] theorem withStrand_fresh (s : State) (f : Strand → Strand) : (s.withStrand f).fresh = s.fresh := rfl
@[simp] theorem withStrand_cores (s : State) (f : Strand → Strand) : (s.withStrand f).cores = s.cores := rfl
@[simp] theorem withStrand_mem (s : State) (f : Strand → Strand) : (s.withStrand f).mem = s.mem := rfl
@[simp] theorem withStrand_tags (s : State) (f : Strand → Strand) : (s.withStrand f).tags = s.tags := rfl
@[simp] theorem withStrand_blocked (s : State) (f : Strand → Strand) : (s.withStrand f).blocked = s.blocked := rfl
@[simp] theorem withStrand_flights (s : State) (f : Strand → Strand) : (s.withStrand f).flights = s.flights := rfl
@[simp] theorem withStrand_parked (s : State) (f : Strand → Strand) : (s.withStrand f).parked = s.parked := rfl
@[simp] theorem withStrand_prov (s : State) (f : Strand → Strand) : (s.withStrand f).prov = s.prov := rfl
@[simp] theorem withStrand_wires (s : State) (f : Strand → Strand) : (s.withStrand f).wires = s.wires := rfl
@[simp] theorem withStrand_clTlb (s : State) (f : Strand → Strand) : (s.withStrand f).clTlb = s.clTlb := rfl
@[simp] theorem withStrand_fused (s : State) (f : Strand → Strand) : (s.withStrand f).fused = s.fused := rfl
@[simp] theorem withStrand_retired (s : State) (f : Strand → Strand) : (s.withStrand f).retired = s.retired := rfl
@[simp] theorem withStrand_badPages (s : State) (f : Strand → Strand) : (s.withStrand f).badPages = s.badPages := rfl
@[simp] theorem withStrand_tree (s : State) (f : Strand → Strand) : (s.withStrand f).tree = s.tree := rfl
@[simp] theorem withStrand_vdevs (s : State) (f : Strand → Strand) : (s.withStrand f).vdevs = s.vdevs := rfl
@[simp] theorem withStrand_submits (s : State) (f : Strand → Strand) : (s.withStrand f).submits = s.submits := rfl
@[simp] theorem withStrand_launches (s : State) (f : Strand → Strand) : (s.withStrand f).launches = s.launches := rfl
@[simp] theorem withStrand_nextNum (s : State) (f : Strand → Strand) : (s.withStrand f).nextNum = s.nextNum := rfl
@[simp] theorem withStrand_preds (s : State) (f : Strand → Strand) : (s.withStrand f).preds = s.preds := rfl
@[simp] theorem withStrand_saved (s : State) (f : Strand → Strand) : (s.withStrand f).saved = s.saved := rfl
@[simp] theorem withStrand_host (s : State) (f : Strand → Strand) : (s.withStrand f).host = s.host := rfl
@[simp] theorem withStrand_mp (s : State) (f : Strand → Strand) : (s.withStrand f).mp = s.mp := rfl

/-! `withCore` -/
@[simp] theorem withCore_sched (s : State) (f : Core → Core) : (s.withCore f).sched = s.sched := rfl
@[simp] theorem withCore_turn (s : State) (f : Core → Core) : (s.withCore f).turn = s.turn := rfl
@[simp] theorem withCore_me (s : State) (f : Core → Core) : (s.withCore f).me = s.me := rfl
@[simp] theorem withCore_latch (s : State) (f : Core → Core) : (s.withCore f).latch = s.latch := rfl
@[simp] theorem withCore_fresh (s : State) (f : Core → Core) : (s.withCore f).fresh = s.fresh := rfl
@[simp] theorem withCore_strands (s : State) (f : Core → Core) : (s.withCore f).strands = s.strands := rfl
@[simp] theorem withCore_mem (s : State) (f : Core → Core) : (s.withCore f).mem = s.mem := rfl
@[simp] theorem withCore_tags (s : State) (f : Core → Core) : (s.withCore f).tags = s.tags := rfl
@[simp] theorem withCore_blocked (s : State) (f : Core → Core) : (s.withCore f).blocked = s.blocked := rfl
@[simp] theorem withCore_flights (s : State) (f : Core → Core) : (s.withCore f).flights = s.flights := rfl
@[simp] theorem withCore_parked (s : State) (f : Core → Core) : (s.withCore f).parked = s.parked := rfl
@[simp] theorem withCore_prov (s : State) (f : Core → Core) : (s.withCore f).prov = s.prov := rfl
@[simp] theorem withCore_wires (s : State) (f : Core → Core) : (s.withCore f).wires = s.wires := rfl
@[simp] theorem withCore_clTlb (s : State) (f : Core → Core) : (s.withCore f).clTlb = s.clTlb := rfl
@[simp] theorem withCore_fused (s : State) (f : Core → Core) : (s.withCore f).fused = s.fused := rfl
@[simp] theorem withCore_retired (s : State) (f : Core → Core) : (s.withCore f).retired = s.retired := rfl
@[simp] theorem withCore_badPages (s : State) (f : Core → Core) : (s.withCore f).badPages = s.badPages := rfl
@[simp] theorem withCore_tree (s : State) (f : Core → Core) : (s.withCore f).tree = s.tree := rfl
@[simp] theorem withCore_vdevs (s : State) (f : Core → Core) : (s.withCore f).vdevs = s.vdevs := rfl
@[simp] theorem withCore_submits (s : State) (f : Core → Core) : (s.withCore f).submits = s.submits := rfl
@[simp] theorem withCore_launches (s : State) (f : Core → Core) : (s.withCore f).launches = s.launches := rfl
@[simp] theorem withCore_nextNum (s : State) (f : Core → Core) : (s.withCore f).nextNum = s.nextNum := rfl
@[simp] theorem withCore_preds (s : State) (f : Core → Core) : (s.withCore f).preds = s.preds := rfl
@[simp] theorem withCore_saved (s : State) (f : Core → Core) : (s.withCore f).saved = s.saved := rfl
@[simp] theorem withCore_host (s : State) (f : Core → Core) : (s.withCore f).host = s.host := rfl
@[simp] theorem withCore_mp (s : State) (f : Core → Core) : (s.withCore f).mp = s.mp := rfl

/-! `modStrand` -/
@[simp] theorem modStrand_sched (s : State) (w : Sid) (f : Strand → Strand) : (s.modStrand w f).sched = s.sched := rfl
@[simp] theorem modStrand_turn (s : State) (w : Sid) (f : Strand → Strand) : (s.modStrand w f).turn = s.turn := rfl
@[simp] theorem modStrand_me (s : State) (w : Sid) (f : Strand → Strand) : (s.modStrand w f).me = s.me := rfl
@[simp] theorem modStrand_latch (s : State) (w : Sid) (f : Strand → Strand) : (s.modStrand w f).latch = s.latch := rfl
@[simp] theorem modStrand_fresh (s : State) (w : Sid) (f : Strand → Strand) : (s.modStrand w f).fresh = s.fresh := rfl
@[simp] theorem modStrand_cores (s : State) (w : Sid) (f : Strand → Strand) : (s.modStrand w f).cores = s.cores := rfl
@[simp] theorem modStrand_mem (s : State) (w : Sid) (f : Strand → Strand) : (s.modStrand w f).mem = s.mem := rfl
@[simp] theorem modStrand_tags (s : State) (w : Sid) (f : Strand → Strand) : (s.modStrand w f).tags = s.tags := rfl
@[simp] theorem modStrand_blocked (s : State) (w : Sid) (f : Strand → Strand) : (s.modStrand w f).blocked = s.blocked := rfl
@[simp] theorem modStrand_flights (s : State) (w : Sid) (f : Strand → Strand) : (s.modStrand w f).flights = s.flights := rfl
@[simp] theorem modStrand_parked (s : State) (w : Sid) (f : Strand → Strand) : (s.modStrand w f).parked = s.parked := rfl
@[simp] theorem modStrand_prov (s : State) (w : Sid) (f : Strand → Strand) : (s.modStrand w f).prov = s.prov := rfl
@[simp] theorem modStrand_wires (s : State) (w : Sid) (f : Strand → Strand) : (s.modStrand w f).wires = s.wires := rfl
@[simp] theorem modStrand_clTlb (s : State) (w : Sid) (f : Strand → Strand) : (s.modStrand w f).clTlb = s.clTlb := rfl
@[simp] theorem modStrand_fused (s : State) (w : Sid) (f : Strand → Strand) : (s.modStrand w f).fused = s.fused := rfl
@[simp] theorem modStrand_retired (s : State) (w : Sid) (f : Strand → Strand) : (s.modStrand w f).retired = s.retired := rfl
@[simp] theorem modStrand_badPages (s : State) (w : Sid) (f : Strand → Strand) : (s.modStrand w f).badPages = s.badPages := rfl
@[simp] theorem modStrand_tree (s : State) (w : Sid) (f : Strand → Strand) : (s.modStrand w f).tree = s.tree := rfl
@[simp] theorem modStrand_vdevs (s : State) (w : Sid) (f : Strand → Strand) : (s.modStrand w f).vdevs = s.vdevs := rfl
@[simp] theorem modStrand_submits (s : State) (w : Sid) (f : Strand → Strand) : (s.modStrand w f).submits = s.submits := rfl
@[simp] theorem modStrand_launches (s : State) (w : Sid) (f : Strand → Strand) : (s.modStrand w f).launches = s.launches := rfl
@[simp] theorem modStrand_nextNum (s : State) (w : Sid) (f : Strand → Strand) : (s.modStrand w f).nextNum = s.nextNum := rfl
@[simp] theorem modStrand_preds (s : State) (w : Sid) (f : Strand → Strand) : (s.modStrand w f).preds = s.preds := rfl
@[simp] theorem modStrand_saved (s : State) (w : Sid) (f : Strand → Strand) : (s.modStrand w f).saved = s.saved := rfl
@[simp] theorem modStrand_host (s : State) (w : Sid) (f : Strand → Strand) : (s.modStrand w f).host = s.host := rfl
@[simp] theorem modStrand_mp (s : State) (w : Sid) (f : Strand → Strand) : (s.modStrand w f).mp = s.mp := rfl

/-! `modCore` -/
@[simp] theorem modCore_sched (s : State) (n : Nat) (f : Core → Core) : (s.modCore n f).sched = s.sched := rfl
@[simp] theorem modCore_turn (s : State) (n : Nat) (f : Core → Core) : (s.modCore n f).turn = s.turn := rfl
@[simp] theorem modCore_me (s : State) (n : Nat) (f : Core → Core) : (s.modCore n f).me = s.me := rfl
@[simp] theorem modCore_latch (s : State) (n : Nat) (f : Core → Core) : (s.modCore n f).latch = s.latch := rfl
@[simp] theorem modCore_fresh (s : State) (n : Nat) (f : Core → Core) : (s.modCore n f).fresh = s.fresh := rfl
@[simp] theorem modCore_strands (s : State) (n : Nat) (f : Core → Core) : (s.modCore n f).strands = s.strands := rfl
@[simp] theorem modCore_mem (s : State) (n : Nat) (f : Core → Core) : (s.modCore n f).mem = s.mem := rfl
@[simp] theorem modCore_tags (s : State) (n : Nat) (f : Core → Core) : (s.modCore n f).tags = s.tags := rfl
@[simp] theorem modCore_blocked (s : State) (n : Nat) (f : Core → Core) : (s.modCore n f).blocked = s.blocked := rfl
@[simp] theorem modCore_flights (s : State) (n : Nat) (f : Core → Core) : (s.modCore n f).flights = s.flights := rfl
@[simp] theorem modCore_parked (s : State) (n : Nat) (f : Core → Core) : (s.modCore n f).parked = s.parked := rfl
@[simp] theorem modCore_prov (s : State) (n : Nat) (f : Core → Core) : (s.modCore n f).prov = s.prov := rfl
@[simp] theorem modCore_wires (s : State) (n : Nat) (f : Core → Core) : (s.modCore n f).wires = s.wires := rfl
@[simp] theorem modCore_clTlb (s : State) (n : Nat) (f : Core → Core) : (s.modCore n f).clTlb = s.clTlb := rfl
@[simp] theorem modCore_fused (s : State) (n : Nat) (f : Core → Core) : (s.modCore n f).fused = s.fused := rfl
@[simp] theorem modCore_retired (s : State) (n : Nat) (f : Core → Core) : (s.modCore n f).retired = s.retired := rfl
@[simp] theorem modCore_badPages (s : State) (n : Nat) (f : Core → Core) : (s.modCore n f).badPages = s.badPages := rfl
@[simp] theorem modCore_tree (s : State) (n : Nat) (f : Core → Core) : (s.modCore n f).tree = s.tree := rfl
@[simp] theorem modCore_vdevs (s : State) (n : Nat) (f : Core → Core) : (s.modCore n f).vdevs = s.vdevs := rfl
@[simp] theorem modCore_submits (s : State) (n : Nat) (f : Core → Core) : (s.modCore n f).submits = s.submits := rfl
@[simp] theorem modCore_launches (s : State) (n : Nat) (f : Core → Core) : (s.modCore n f).launches = s.launches := rfl
@[simp] theorem modCore_nextNum (s : State) (n : Nat) (f : Core → Core) : (s.modCore n f).nextNum = s.nextNum := rfl
@[simp] theorem modCore_preds (s : State) (n : Nat) (f : Core → Core) : (s.modCore n f).preds = s.preds := rfl
@[simp] theorem modCore_saved (s : State) (n : Nat) (f : Core → Core) : (s.modCore n f).saved = s.saved := rfl
@[simp] theorem modCore_host (s : State) (n : Nat) (f : Core → Core) : (s.modCore n f).host = s.host := rfl
@[simp] theorem modCore_mp (s : State) (n : Nat) (f : Core → Core) : (s.modCore n f).mp = s.mp := rfl

/-! `setX` -/
@[simp] theorem setX_sched (s : State) (r : XReg) (w : Word) : (s.setX r w).sched = s.sched := rfl
@[simp] theorem setX_turn (s : State) (r : XReg) (w : Word) : (s.setX r w).turn = s.turn := rfl
@[simp] theorem setX_me (s : State) (r : XReg) (w : Word) : (s.setX r w).me = s.me := rfl
@[simp] theorem setX_latch (s : State) (r : XReg) (w : Word) : (s.setX r w).latch = s.latch := rfl
@[simp] theorem setX_fresh (s : State) (r : XReg) (w : Word) : (s.setX r w).fresh = s.fresh := rfl
@[simp] theorem setX_cores (s : State) (r : XReg) (w : Word) : (s.setX r w).cores = s.cores := rfl
@[simp] theorem setX_mem (s : State) (r : XReg) (w : Word) : (s.setX r w).mem = s.mem := rfl
@[simp] theorem setX_tags (s : State) (r : XReg) (w : Word) : (s.setX r w).tags = s.tags := rfl
@[simp] theorem setX_blocked (s : State) (r : XReg) (w : Word) : (s.setX r w).blocked = s.blocked := rfl
@[simp] theorem setX_flights (s : State) (r : XReg) (w : Word) : (s.setX r w).flights = s.flights := rfl
@[simp] theorem setX_parked (s : State) (r : XReg) (w : Word) : (s.setX r w).parked = s.parked := rfl
@[simp] theorem setX_prov (s : State) (r : XReg) (w : Word) : (s.setX r w).prov = s.prov := rfl
@[simp] theorem setX_wires (s : State) (r : XReg) (w : Word) : (s.setX r w).wires = s.wires := rfl
@[simp] theorem setX_clTlb (s : State) (r : XReg) (w : Word) : (s.setX r w).clTlb = s.clTlb := rfl
@[simp] theorem setX_fused (s : State) (r : XReg) (w : Word) : (s.setX r w).fused = s.fused := rfl
@[simp] theorem setX_retired (s : State) (r : XReg) (w : Word) : (s.setX r w).retired = s.retired := rfl
@[simp] theorem setX_badPages (s : State) (r : XReg) (w : Word) : (s.setX r w).badPages = s.badPages := rfl
@[simp] theorem setX_tree (s : State) (r : XReg) (w : Word) : (s.setX r w).tree = s.tree := rfl
@[simp] theorem setX_vdevs (s : State) (r : XReg) (w : Word) : (s.setX r w).vdevs = s.vdevs := rfl
@[simp] theorem setX_submits (s : State) (r : XReg) (w : Word) : (s.setX r w).submits = s.submits := rfl
@[simp] theorem setX_launches (s : State) (r : XReg) (w : Word) : (s.setX r w).launches = s.launches := rfl
@[simp] theorem setX_nextNum (s : State) (r : XReg) (w : Word) : (s.setX r w).nextNum = s.nextNum := rfl
@[simp] theorem setX_preds (s : State) (r : XReg) (w : Word) : (s.setX r w).preds = s.preds := rfl
@[simp] theorem setX_saved (s : State) (r : XReg) (w : Word) : (s.setX r w).saved = s.saved := rfl
@[simp] theorem setX_host (s : State) (r : XReg) (w : Word) : (s.setX r w).host = s.host := rfl
@[simp] theorem setX_mp (s : State) (r : XReg) (w : Word) : (s.setX r w).mp = s.mp := rfl

/-! `setV` -/
@[simp] theorem setV_sched (s : State) (r : VReg) (w : V256) : (s.setV r w).sched = s.sched := rfl
@[simp] theorem setV_turn (s : State) (r : VReg) (w : V256) : (s.setV r w).turn = s.turn := rfl
@[simp] theorem setV_me (s : State) (r : VReg) (w : V256) : (s.setV r w).me = s.me := rfl
@[simp] theorem setV_latch (s : State) (r : VReg) (w : V256) : (s.setV r w).latch = s.latch := rfl
@[simp] theorem setV_fresh (s : State) (r : VReg) (w : V256) : (s.setV r w).fresh = s.fresh := rfl
@[simp] theorem setV_cores (s : State) (r : VReg) (w : V256) : (s.setV r w).cores = s.cores := rfl
@[simp] theorem setV_mem (s : State) (r : VReg) (w : V256) : (s.setV r w).mem = s.mem := rfl
@[simp] theorem setV_tags (s : State) (r : VReg) (w : V256) : (s.setV r w).tags = s.tags := rfl
@[simp] theorem setV_blocked (s : State) (r : VReg) (w : V256) : (s.setV r w).blocked = s.blocked := rfl
@[simp] theorem setV_flights (s : State) (r : VReg) (w : V256) : (s.setV r w).flights = s.flights := rfl
@[simp] theorem setV_parked (s : State) (r : VReg) (w : V256) : (s.setV r w).parked = s.parked := rfl
@[simp] theorem setV_prov (s : State) (r : VReg) (w : V256) : (s.setV r w).prov = s.prov := rfl
@[simp] theorem setV_wires (s : State) (r : VReg) (w : V256) : (s.setV r w).wires = s.wires := rfl
@[simp] theorem setV_clTlb (s : State) (r : VReg) (w : V256) : (s.setV r w).clTlb = s.clTlb := rfl
@[simp] theorem setV_fused (s : State) (r : VReg) (w : V256) : (s.setV r w).fused = s.fused := rfl
@[simp] theorem setV_retired (s : State) (r : VReg) (w : V256) : (s.setV r w).retired = s.retired := rfl
@[simp] theorem setV_badPages (s : State) (r : VReg) (w : V256) : (s.setV r w).badPages = s.badPages := rfl
@[simp] theorem setV_tree (s : State) (r : VReg) (w : V256) : (s.setV r w).tree = s.tree := rfl
@[simp] theorem setV_vdevs (s : State) (r : VReg) (w : V256) : (s.setV r w).vdevs = s.vdevs := rfl
@[simp] theorem setV_submits (s : State) (r : VReg) (w : V256) : (s.setV r w).submits = s.submits := rfl
@[simp] theorem setV_launches (s : State) (r : VReg) (w : V256) : (s.setV r w).launches = s.launches := rfl
@[simp] theorem setV_nextNum (s : State) (r : VReg) (w : V256) : (s.setV r w).nextNum = s.nextNum := rfl
@[simp] theorem setV_preds (s : State) (r : VReg) (w : V256) : (s.setV r w).preds = s.preds := rfl
@[simp] theorem setV_saved (s : State) (r : VReg) (w : V256) : (s.setV r w).saved = s.saved := rfl
@[simp] theorem setV_host (s : State) (r : VReg) (w : V256) : (s.setV r w).host = s.host := rfl
@[simp] theorem setV_mp (s : State) (r : VReg) (w : V256) : (s.setV r w).mp = s.mp := rfl

/-! `setB` -/
@[simp] theorem setB_sched (s : State) (r : BReg) (w : V256) : (s.setB r w).sched = s.sched := rfl
@[simp] theorem setB_turn (s : State) (r : BReg) (w : V256) : (s.setB r w).turn = s.turn := rfl
@[simp] theorem setB_me (s : State) (r : BReg) (w : V256) : (s.setB r w).me = s.me := rfl
@[simp] theorem setB_latch (s : State) (r : BReg) (w : V256) : (s.setB r w).latch = s.latch := rfl
@[simp] theorem setB_fresh (s : State) (r : BReg) (w : V256) : (s.setB r w).fresh = s.fresh := rfl
@[simp] theorem setB_cores (s : State) (r : BReg) (w : V256) : (s.setB r w).cores = s.cores := rfl
@[simp] theorem setB_mem (s : State) (r : BReg) (w : V256) : (s.setB r w).mem = s.mem := rfl
@[simp] theorem setB_tags (s : State) (r : BReg) (w : V256) : (s.setB r w).tags = s.tags := rfl
@[simp] theorem setB_blocked (s : State) (r : BReg) (w : V256) : (s.setB r w).blocked = s.blocked := rfl
@[simp] theorem setB_flights (s : State) (r : BReg) (w : V256) : (s.setB r w).flights = s.flights := rfl
@[simp] theorem setB_parked (s : State) (r : BReg) (w : V256) : (s.setB r w).parked = s.parked := rfl
@[simp] theorem setB_prov (s : State) (r : BReg) (w : V256) : (s.setB r w).prov = s.prov := rfl
@[simp] theorem setB_wires (s : State) (r : BReg) (w : V256) : (s.setB r w).wires = s.wires := rfl
@[simp] theorem setB_clTlb (s : State) (r : BReg) (w : V256) : (s.setB r w).clTlb = s.clTlb := rfl
@[simp] theorem setB_fused (s : State) (r : BReg) (w : V256) : (s.setB r w).fused = s.fused := rfl
@[simp] theorem setB_retired (s : State) (r : BReg) (w : V256) : (s.setB r w).retired = s.retired := rfl
@[simp] theorem setB_badPages (s : State) (r : BReg) (w : V256) : (s.setB r w).badPages = s.badPages := rfl
@[simp] theorem setB_tree (s : State) (r : BReg) (w : V256) : (s.setB r w).tree = s.tree := rfl
@[simp] theorem setB_vdevs (s : State) (r : BReg) (w : V256) : (s.setB r w).vdevs = s.vdevs := rfl
@[simp] theorem setB_submits (s : State) (r : BReg) (w : V256) : (s.setB r w).submits = s.submits := rfl
@[simp] theorem setB_launches (s : State) (r : BReg) (w : V256) : (s.setB r w).launches = s.launches := rfl
@[simp] theorem setB_nextNum (s : State) (r : BReg) (w : V256) : (s.setB r w).nextNum = s.nextNum := rfl
@[simp] theorem setB_preds (s : State) (r : BReg) (w : V256) : (s.setB r w).preds = s.preds := rfl
@[simp] theorem setB_saved (s : State) (r : BReg) (w : V256) : (s.setB r w).saved = s.saved := rfl
@[simp] theorem setB_host (s : State) (r : BReg) (w : V256) : (s.setB r w).host = s.host := rfl
@[simp] theorem setB_mp (s : State) (r : BReg) (w : V256) : (s.setB r w).mp = s.mp := rfl

/-! `modCsr` -/
@[simp] theorem modCsr_sched (s : State) (f : Csrs → Csrs) : (s.modCsr f).sched = s.sched := rfl
@[simp] theorem modCsr_turn (s : State) (f : Csrs → Csrs) : (s.modCsr f).turn = s.turn := rfl
@[simp] theorem modCsr_me (s : State) (f : Csrs → Csrs) : (s.modCsr f).me = s.me := rfl
@[simp] theorem modCsr_latch (s : State) (f : Csrs → Csrs) : (s.modCsr f).latch = s.latch := rfl
@[simp] theorem modCsr_fresh (s : State) (f : Csrs → Csrs) : (s.modCsr f).fresh = s.fresh := rfl
@[simp] theorem modCsr_cores (s : State) (f : Csrs → Csrs) : (s.modCsr f).cores = s.cores := rfl
@[simp] theorem modCsr_mem (s : State) (f : Csrs → Csrs) : (s.modCsr f).mem = s.mem := rfl
@[simp] theorem modCsr_tags (s : State) (f : Csrs → Csrs) : (s.modCsr f).tags = s.tags := rfl
@[simp] theorem modCsr_blocked (s : State) (f : Csrs → Csrs) : (s.modCsr f).blocked = s.blocked := rfl
@[simp] theorem modCsr_flights (s : State) (f : Csrs → Csrs) : (s.modCsr f).flights = s.flights := rfl
@[simp] theorem modCsr_parked (s : State) (f : Csrs → Csrs) : (s.modCsr f).parked = s.parked := rfl
@[simp] theorem modCsr_prov (s : State) (f : Csrs → Csrs) : (s.modCsr f).prov = s.prov := rfl
@[simp] theorem modCsr_wires (s : State) (f : Csrs → Csrs) : (s.modCsr f).wires = s.wires := rfl
@[simp] theorem modCsr_clTlb (s : State) (f : Csrs → Csrs) : (s.modCsr f).clTlb = s.clTlb := rfl
@[simp] theorem modCsr_fused (s : State) (f : Csrs → Csrs) : (s.modCsr f).fused = s.fused := rfl
@[simp] theorem modCsr_retired (s : State) (f : Csrs → Csrs) : (s.modCsr f).retired = s.retired := rfl
@[simp] theorem modCsr_badPages (s : State) (f : Csrs → Csrs) : (s.modCsr f).badPages = s.badPages := rfl
@[simp] theorem modCsr_tree (s : State) (f : Csrs → Csrs) : (s.modCsr f).tree = s.tree := rfl
@[simp] theorem modCsr_vdevs (s : State) (f : Csrs → Csrs) : (s.modCsr f).vdevs = s.vdevs := rfl
@[simp] theorem modCsr_submits (s : State) (f : Csrs → Csrs) : (s.modCsr f).submits = s.submits := rfl
@[simp] theorem modCsr_launches (s : State) (f : Csrs → Csrs) : (s.modCsr f).launches = s.launches := rfl
@[simp] theorem modCsr_nextNum (s : State) (f : Csrs → Csrs) : (s.modCsr f).nextNum = s.nextNum := rfl
@[simp] theorem modCsr_preds (s : State) (f : Csrs → Csrs) : (s.modCsr f).preds = s.preds := rfl
@[simp] theorem modCsr_saved (s : State) (f : Csrs → Csrs) : (s.modCsr f).saved = s.saved := rfl
@[simp] theorem modCsr_host (s : State) (f : Csrs → Csrs) : (s.modCsr f).host = s.host := rfl
@[simp] theorem modCsr_mp (s : State) (f : Csrs → Csrs) : (s.modCsr f).mp = s.mp := rfl

/-! `modSync` -/
@[simp] theorem modSync_sched (s : State) (f : Sync → Sync) : (s.modSync f).sched = s.sched := rfl
@[simp] theorem modSync_turn (s : State) (f : Sync → Sync) : (s.modSync f).turn = s.turn := rfl
@[simp] theorem modSync_me (s : State) (f : Sync → Sync) : (s.modSync f).me = s.me := rfl
@[simp] theorem modSync_latch (s : State) (f : Sync → Sync) : (s.modSync f).latch = s.latch := rfl
@[simp] theorem modSync_fresh (s : State) (f : Sync → Sync) : (s.modSync f).fresh = s.fresh := rfl
@[simp] theorem modSync_cores (s : State) (f : Sync → Sync) : (s.modSync f).cores = s.cores := rfl
@[simp] theorem modSync_mem (s : State) (f : Sync → Sync) : (s.modSync f).mem = s.mem := rfl
@[simp] theorem modSync_tags (s : State) (f : Sync → Sync) : (s.modSync f).tags = s.tags := rfl
@[simp] theorem modSync_blocked (s : State) (f : Sync → Sync) : (s.modSync f).blocked = s.blocked := rfl
@[simp] theorem modSync_flights (s : State) (f : Sync → Sync) : (s.modSync f).flights = s.flights := rfl
@[simp] theorem modSync_parked (s : State) (f : Sync → Sync) : (s.modSync f).parked = s.parked := rfl
@[simp] theorem modSync_prov (s : State) (f : Sync → Sync) : (s.modSync f).prov = s.prov := rfl
@[simp] theorem modSync_wires (s : State) (f : Sync → Sync) : (s.modSync f).wires = s.wires := rfl
@[simp] theorem modSync_clTlb (s : State) (f : Sync → Sync) : (s.modSync f).clTlb = s.clTlb := rfl
@[simp] theorem modSync_fused (s : State) (f : Sync → Sync) : (s.modSync f).fused = s.fused := rfl
@[simp] theorem modSync_retired (s : State) (f : Sync → Sync) : (s.modSync f).retired = s.retired := rfl
@[simp] theorem modSync_badPages (s : State) (f : Sync → Sync) : (s.modSync f).badPages = s.badPages := rfl
@[simp] theorem modSync_tree (s : State) (f : Sync → Sync) : (s.modSync f).tree = s.tree := rfl
@[simp] theorem modSync_vdevs (s : State) (f : Sync → Sync) : (s.modSync f).vdevs = s.vdevs := rfl
@[simp] theorem modSync_submits (s : State) (f : Sync → Sync) : (s.modSync f).submits = s.submits := rfl
@[simp] theorem modSync_launches (s : State) (f : Sync → Sync) : (s.modSync f).launches = s.launches := rfl
@[simp] theorem modSync_nextNum (s : State) (f : Sync → Sync) : (s.modSync f).nextNum = s.nextNum := rfl
@[simp] theorem modSync_preds (s : State) (f : Sync → Sync) : (s.modSync f).preds = s.preds := rfl
@[simp] theorem modSync_saved (s : State) (f : Sync → Sync) : (s.modSync f).saved = s.saved := rfl
@[simp] theorem modSync_host (s : State) (f : Sync → Sync) : (s.modSync f).host = s.host := rfl
@[simp] theorem modSync_mp (s : State) (f : Sync → Sync) : (s.modSync f).mp = s.mp := rfl

/-! `raise` -/
@[simp] theorem raise_sched (s : State) (f : Word) : (s.raise f).sched = s.sched := rfl
@[simp] theorem raise_turn (s : State) (f : Word) : (s.raise f).turn = s.turn := rfl
@[simp] theorem raise_me (s : State) (f : Word) : (s.raise f).me = s.me := rfl
@[simp] theorem raise_latch (s : State) (f : Word) : (s.raise f).latch = s.latch := rfl
@[simp] theorem raise_fresh (s : State) (f : Word) : (s.raise f).fresh = s.fresh := rfl
@[simp] theorem raise_cores (s : State) (f : Word) : (s.raise f).cores = s.cores := rfl
@[simp] theorem raise_mem (s : State) (f : Word) : (s.raise f).mem = s.mem := rfl
@[simp] theorem raise_tags (s : State) (f : Word) : (s.raise f).tags = s.tags := rfl
@[simp] theorem raise_blocked (s : State) (f : Word) : (s.raise f).blocked = s.blocked := rfl
@[simp] theorem raise_flights (s : State) (f : Word) : (s.raise f).flights = s.flights := rfl
@[simp] theorem raise_parked (s : State) (f : Word) : (s.raise f).parked = s.parked := rfl
@[simp] theorem raise_prov (s : State) (f : Word) : (s.raise f).prov = s.prov := rfl
@[simp] theorem raise_wires (s : State) (f : Word) : (s.raise f).wires = s.wires := rfl
@[simp] theorem raise_clTlb (s : State) (f : Word) : (s.raise f).clTlb = s.clTlb := rfl
@[simp] theorem raise_fused (s : State) (f : Word) : (s.raise f).fused = s.fused := rfl
@[simp] theorem raise_retired (s : State) (f : Word) : (s.raise f).retired = s.retired := rfl
@[simp] theorem raise_badPages (s : State) (f : Word) : (s.raise f).badPages = s.badPages := rfl
@[simp] theorem raise_tree (s : State) (f : Word) : (s.raise f).tree = s.tree := rfl
@[simp] theorem raise_vdevs (s : State) (f : Word) : (s.raise f).vdevs = s.vdevs := rfl
@[simp] theorem raise_submits (s : State) (f : Word) : (s.raise f).submits = s.submits := rfl
@[simp] theorem raise_launches (s : State) (f : Word) : (s.raise f).launches = s.launches := rfl
@[simp] theorem raise_nextNum (s : State) (f : Word) : (s.raise f).nextNum = s.nextNum := rfl
@[simp] theorem raise_preds (s : State) (f : Word) : (s.raise f).preds = s.preds := rfl
@[simp] theorem raise_saved (s : State) (f : Word) : (s.raise f).saved = s.saved := rfl
@[simp] theorem raise_host (s : State) (f : Word) : (s.raise f).host = s.host := rfl
@[simp] theorem raise_mp (s : State) (f : Word) : (s.raise f).mp = s.mp := rfl

/-! `jump` -/
@[simp] theorem jump_sched (s : State) (t : Word) : (s.jump t).sched = s.sched := rfl
@[simp] theorem jump_turn (s : State) (t : Word) : (s.jump t).turn = s.turn := rfl
@[simp] theorem jump_me (s : State) (t : Word) : (s.jump t).me = s.me := rfl
@[simp] theorem jump_fresh (s : State) (t : Word) : (s.jump t).fresh = s.fresh := rfl
@[simp] theorem jump_strands (s : State) (t : Word) : (s.jump t).strands = s.strands := rfl
@[simp] theorem jump_cores (s : State) (t : Word) : (s.jump t).cores = s.cores := rfl
@[simp] theorem jump_mem (s : State) (t : Word) : (s.jump t).mem = s.mem := rfl
@[simp] theorem jump_tags (s : State) (t : Word) : (s.jump t).tags = s.tags := rfl
@[simp] theorem jump_blocked (s : State) (t : Word) : (s.jump t).blocked = s.blocked := rfl
@[simp] theorem jump_flights (s : State) (t : Word) : (s.jump t).flights = s.flights := rfl
@[simp] theorem jump_parked (s : State) (t : Word) : (s.jump t).parked = s.parked := rfl
@[simp] theorem jump_prov (s : State) (t : Word) : (s.jump t).prov = s.prov := rfl
@[simp] theorem jump_wires (s : State) (t : Word) : (s.jump t).wires = s.wires := rfl
@[simp] theorem jump_clTlb (s : State) (t : Word) : (s.jump t).clTlb = s.clTlb := rfl
@[simp] theorem jump_fused (s : State) (t : Word) : (s.jump t).fused = s.fused := rfl
@[simp] theorem jump_retired (s : State) (t : Word) : (s.jump t).retired = s.retired := rfl
@[simp] theorem jump_badPages (s : State) (t : Word) : (s.jump t).badPages = s.badPages := rfl
@[simp] theorem jump_tree (s : State) (t : Word) : (s.jump t).tree = s.tree := rfl
@[simp] theorem jump_vdevs (s : State) (t : Word) : (s.jump t).vdevs = s.vdevs := rfl
@[simp] theorem jump_submits (s : State) (t : Word) : (s.jump t).submits = s.submits := rfl
@[simp] theorem jump_launches (s : State) (t : Word) : (s.jump t).launches = s.launches := rfl
@[simp] theorem jump_nextNum (s : State) (t : Word) : (s.jump t).nextNum = s.nextNum := rfl
@[simp] theorem jump_preds (s : State) (t : Word) : (s.jump t).preds = s.preds := rfl
@[simp] theorem jump_saved (s : State) (t : Word) : (s.jump t).saved = s.saved := rfl
@[simp] theorem jump_host (s : State) (t : Word) : (s.jump t).host = s.host := rfl
@[simp] theorem jump_mp (s : State) (t : Word) : (s.jump t).mp = s.mp := rfl

/-! `retire` -/
@[simp] theorem retire_sched (s : State) : (s.retire).sched = s.sched := rfl
@[simp] theorem retire_turn (s : State) : (s.retire).turn = s.turn := rfl
@[simp] theorem retire_me (s : State) : (s.retire).me = s.me := rfl
@[simp] theorem retire_latch (s : State) : (s.retire).latch = s.latch := rfl
@[simp] theorem retire_fresh (s : State) : (s.retire).fresh = s.fresh := rfl
@[simp] theorem retire_cores (s : State) : (s.retire).cores = s.cores := rfl
@[simp] theorem retire_mem (s : State) : (s.retire).mem = s.mem := rfl
@[simp] theorem retire_tags (s : State) : (s.retire).tags = s.tags := rfl
@[simp] theorem retire_blocked (s : State) : (s.retire).blocked = s.blocked := rfl
@[simp] theorem retire_flights (s : State) : (s.retire).flights = s.flights := rfl
@[simp] theorem retire_parked (s : State) : (s.retire).parked = s.parked := rfl
@[simp] theorem retire_prov (s : State) : (s.retire).prov = s.prov := rfl
@[simp] theorem retire_wires (s : State) : (s.retire).wires = s.wires := rfl
@[simp] theorem retire_clTlb (s : State) : (s.retire).clTlb = s.clTlb := rfl
@[simp] theorem retire_fused (s : State) : (s.retire).fused = s.fused := rfl
@[simp] theorem retire_retired (s : State) : (s.retire).retired = s.retired := rfl
@[simp] theorem retire_badPages (s : State) : (s.retire).badPages = s.badPages := rfl
@[simp] theorem retire_tree (s : State) : (s.retire).tree = s.tree := rfl
@[simp] theorem retire_vdevs (s : State) : (s.retire).vdevs = s.vdevs := rfl
@[simp] theorem retire_submits (s : State) : (s.retire).submits = s.submits := rfl
@[simp] theorem retire_launches (s : State) : (s.retire).launches = s.launches := rfl
@[simp] theorem retire_nextNum (s : State) : (s.retire).nextNum = s.nextNum := rfl
@[simp] theorem retire_preds (s : State) : (s.retire).preds = s.preds := rfl
@[simp] theorem retire_saved (s : State) : (s.retire).saved = s.saved := rfl
@[simp] theorem retire_host (s : State) : (s.retire).host = s.host := rfl
@[simp] theorem retire_mp (s : State) : (s.retire).mp = s.mp := rfl

/-! `holdAt` -/
@[simp] theorem holdAt_sched (s : State) (b : Bool) (v : Word) : (s.holdAt b v).sched = s.sched := rfl
@[simp] theorem holdAt_turn (s : State) (b : Bool) (v : Word) : (s.holdAt b v).turn = s.turn := rfl
@[simp] theorem holdAt_me (s : State) (b : Bool) (v : Word) : (s.holdAt b v).me = s.me := rfl
@[simp] theorem holdAt_latch (s : State) (b : Bool) (v : Word) : (s.holdAt b v).latch = s.latch := rfl
@[simp] theorem holdAt_fresh (s : State) (b : Bool) (v : Word) : (s.holdAt b v).fresh = s.fresh := rfl
@[simp] theorem holdAt_cores (s : State) (b : Bool) (v : Word) : (s.holdAt b v).cores = s.cores := rfl
@[simp] theorem holdAt_mem (s : State) (b : Bool) (v : Word) : (s.holdAt b v).mem = s.mem := rfl
@[simp] theorem holdAt_tags (s : State) (b : Bool) (v : Word) : (s.holdAt b v).tags = s.tags := rfl
@[simp] theorem holdAt_blocked (s : State) (b : Bool) (v : Word) : (s.holdAt b v).blocked = s.blocked := rfl
@[simp] theorem holdAt_flights (s : State) (b : Bool) (v : Word) : (s.holdAt b v).flights = s.flights := rfl
@[simp] theorem holdAt_parked (s : State) (b : Bool) (v : Word) : (s.holdAt b v).parked = s.parked := rfl
@[simp] theorem holdAt_prov (s : State) (b : Bool) (v : Word) : (s.holdAt b v).prov = s.prov := rfl
@[simp] theorem holdAt_wires (s : State) (b : Bool) (v : Word) : (s.holdAt b v).wires = s.wires := rfl
@[simp] theorem holdAt_clTlb (s : State) (b : Bool) (v : Word) : (s.holdAt b v).clTlb = s.clTlb := rfl
@[simp] theorem holdAt_fused (s : State) (b : Bool) (v : Word) : (s.holdAt b v).fused = s.fused := rfl
@[simp] theorem holdAt_retired (s : State) (b : Bool) (v : Word) : (s.holdAt b v).retired = s.retired := rfl
@[simp] theorem holdAt_badPages (s : State) (b : Bool) (v : Word) : (s.holdAt b v).badPages = s.badPages := rfl
@[simp] theorem holdAt_tree (s : State) (b : Bool) (v : Word) : (s.holdAt b v).tree = s.tree := rfl
@[simp] theorem holdAt_vdevs (s : State) (b : Bool) (v : Word) : (s.holdAt b v).vdevs = s.vdevs := rfl
@[simp] theorem holdAt_submits (s : State) (b : Bool) (v : Word) : (s.holdAt b v).submits = s.submits := rfl
@[simp] theorem holdAt_launches (s : State) (b : Bool) (v : Word) : (s.holdAt b v).launches = s.launches := rfl
@[simp] theorem holdAt_nextNum (s : State) (b : Bool) (v : Word) : (s.holdAt b v).nextNum = s.nextNum := rfl
@[simp] theorem holdAt_preds (s : State) (b : Bool) (v : Word) : (s.holdAt b v).preds = s.preds := rfl
@[simp] theorem holdAt_saved (s : State) (b : Bool) (v : Word) : (s.holdAt b v).saved = s.saved := rfl
@[simp] theorem holdAt_host (s : State) (b : Bool) (v : Word) : (s.holdAt b v).host = s.host := rfl
@[simp] theorem holdAt_mp (s : State) (b : Bool) (v : Word) : (s.holdAt b v).mp = s.mp := rfl

end Sys2Proof.Machine.State
end

