-- ==== Sys2Proof/Laws/Registers.lean ====
section
/-! SUPPORT. What the executing strand, its registers and its core read after an update. -/

namespace Sys2Proof.Machine

@[simp] theorem setX_zero (t : Strand) (w : Word) : t.setX 0 w = t := if_pos rfl

theorem setX_ne (t : Strand) (d : XReg) (w : Word) (h : d ≠ 0) :
    t.setX d w = { t with x := vset t.x d w rfl } := if_neg h

@[simp] theorem getX_zero (t : Strand) : t.getX 0 = 0 := if_pos rfl

theorem getX_ne (t : Strand) (r : XReg) (h : r ≠ 0) : t.getX r = vget t.x r rfl := if_neg h

/-- X[r] after a write of X[d] (R7). -/
@[simp] theorem getX_setX (t : Strand) (d r : XReg) (w : Word) :
    (t.setX d w).getX r = if r = 0 then 0 else if r = d then w else t.getX r := by
  rcases Decidable.em (r = 0) with rfl | hr
  · rw [getX_zero, if_pos rfl]
  · rcases Decidable.em (d = 0) with rfl | hd
    · rw [setX_zero, if_neg hr, if_neg hr]
    · rw [setX_ne _ _ _ hd, getX_ne _ _ hr, getX_ne _ _ hr, vget_vset, if_neg hr]

@[simp] theorem v_of_setX (t : Strand) (d : XReg) (w : Word) : (t.setX d w).v = t.v := by
  rcases Decidable.em (d = 0) with rfl | h
  · rw [setX_zero]
  · rw [setX_ne _ _ _ h]

@[simp] theorem b_of_setX (t : Strand) (d : XReg) (w : Word) : (t.setX d w).b = t.b := by
  rcases Decidable.em (d = 0) with rfl | h
  · rw [setX_zero]
  · rw [setX_ne _ _ _ h]

@[simp] theorem pc_setX (t : Strand) (d : XReg) (w : Word) : (t.setX d w).pc = t.pc := by
  rcases Decidable.em (d = 0) with rfl | h
  · rw [setX_zero]
  · rw [setX_ne _ _ _ h]

@[simp] theorem mode_setX (t : Strand) (d : XReg) (w : Word) : (t.setX d w).mode = t.mode := by
  rcases Decidable.em (d = 0) with rfl | h
  · rw [setX_zero]
  · rw [setX_ne _ _ _ h]

@[simp] theorem frame_setX (t : Strand) (d : XReg) (w : Word) (md : Mode) : (t.setX d w).frame md = t.frame md := by
  rcases Decidable.em (d = 0) with rfl | h
  · rw [setX_zero]
  · rw [setX_ne _ _ _ h]; cases md <;> rfl

@[simp] theorem getV_setV (t : Strand) (d r : VReg) (w : V256) :
    vget (t.setV d w).v r rfl = if r = d then w else vget t.v r rfl := by simp [Strand.setV]

@[simp] theorem getB_setB (t : Strand) (d r : BReg) (w : V256) :
    vget (t.setB d w).b r rfl = if r = d then w else vget t.b r rfl := by simp [Strand.setB]

namespace State

@[simp] theorem strandAt_setStrand (s : State) (w w' : Sid) (u : Strand) :
    (s.setStrand w u).strandAt w' = if w'.key = w.key then u else s.strandAt w' := by
  simp [setStrand, strandAt]

@[simp] theorem coreAt_setCore (s : State) (n m : Nat) (c : Core) :
    (s.setCore n c).coreAt m = if m = n then c else s.coreAt m := by
  simp [setCore, coreAt]

@[simp] theorem strand_setStrand (s : State) (u : Strand) : (s.setStrand s.me u).strand = u := by
  simp [strand]

@[simp] theorem strand_withStrand (s : State) (f : Strand → Strand) : (s.withStrand f).strand = f s.strand := by
  simp [withStrand]

@[simp] theorem core_withCore (s : State) (f : Core → Core) : (s.withCore f).core = f s.core := by
  simp [withCore, core]

@[simp] theorem strandAt_setCore (s : State) (n : Nat) (c : Core) (w : Sid) :
    (s.setCore n c).strandAt w = s.strandAt w := rfl
@[simp] theorem strand_setCore (s : State) (n : Nat) (c : Core) : (s.setCore n c).strand = s.strand := rfl
@[simp] theorem strand_withCore (s : State) (f : Core → Core) : (s.withCore f).strand = s.strand := rfl
@[simp] theorem strand_jump (s : State) (t : Word) : (s.jump t).strand = s.strand := rfl
@[simp] theorem coreAt_setStrand (s : State) (w : Sid) (u : Strand) (n : Nat) :
    (s.setStrand w u).coreAt n = s.coreAt n := rfl
@[simp] theorem coreAt_withStrand (s : State) (f : Strand → Strand) (n : Nat) :
    (s.withStrand f).coreAt n = s.coreAt n := rfl
@[simp] theorem core_withStrand (s : State) (f : Strand → Strand) : (s.withStrand f).core = s.core := rfl
@[simp] theorem core_setX (s : State) (r : XReg) (w : Word) : (s.setX r w).core = s.core := rfl
@[simp] theorem core_setV (s : State) (r : VReg) (w : V256) : (s.setV r w).core = s.core := rfl
@[simp] theorem core_setB (s : State) (r : BReg) (w : V256) : (s.setB r w).core = s.core := rfl

theorem x_eq_getX (s : State) (r : XReg) : s.x r = s.strand.getX r := rfl

/-- X[r] after a write of X[d] (R7). -/
@[simp] theorem x_setX (s : State) (d r : XReg) (w : Word) :
    (s.setX d w).x r = if r = 0 then 0 else if r = d then w else s.x r := by
  simp [x_eq_getX, setX]

@[simp] theorem x_zero (s : State) : s.x 0 = 0 := by simp [x]

@[simp] theorem v_setX (s : State) (d : XReg) (w : Word) (r : VReg) : (s.setX d w).v r = s.v r := by
  simp [v, setX]

@[simp] theorem b_setX (s : State) (d : XReg) (w : Word) (r : BReg) : (s.setX d w).b r = s.b r := by
  simp [b, setX]

@[simp] theorem v_setV (s : State) (d r : VReg) (w : V256) :
    (s.setV d w).v r = if r = d then w else s.v r := by
  simp [v, setV]

@[simp] theorem x_setV (s : State) (d : VReg) (w : V256) (r : XReg) : (s.setV d w).x r = s.x r := by
  simp [x, setV, Strand.setV]

@[simp] theorem b_setV (s : State) (d : VReg) (w : V256) (r : BReg) : (s.setV d w).b r = s.b r := by
  simp [b, setV, Strand.setV]

@[simp] theorem b_setB (s : State) (d r : BReg) (w : V256) :
    (s.setB d w).b r = if r = d then w else s.b r := by
  simp [b, setB]

@[simp] theorem x_setB (s : State) (d : BReg) (w : V256) (r : XReg) : (s.setB d w).x r = s.x r := by
  simp [x, setB, Strand.setB]

@[simp] theorem v_setB (s : State) (d : BReg) (w : V256) (r : VReg) : (s.setB d w).v r = s.v r := by
  simp [v, setB, Strand.setB]

@[simp] theorem after_setX (s : State) (d : XReg) (w : Word) : (s.setX d w).after = s.after := by
  simp [after, pcf, setX]
@[simp] theorem after_setV (s : State) (d : VReg) (w : V256) : (s.setV d w).after = s.after := by
  simp [after, pcf, setV, Strand.setV]
@[simp] theorem after_setB (s : State) (d : BReg) (w : V256) : (s.setB d w).after = s.after := by
  simp [after, pcf, setB, Strand.setB]
@[simp] theorem after_modCsr (s : State) (f : Csrs → Csrs) : (s.modCsr f).after = s.after := by
  simp [after, pcf, modCsr, Strand.modCsr]
@[simp] theorem after_raise (s : State) (f : Word) : (s.raise f).after = s.after := by
  simp [raise]
@[simp] theorem after_withCore (s : State) (f : Core → Core) : (s.withCore f).after = s.after := rfl
@[simp] theorem after_jump (s : State) (t : Word) : (s.jump t).after = s.after := rfl

@[simp] theorem x_withCore (s : State) (f : Core → Core) (r : XReg) : (s.withCore f).x r = s.x r := rfl
@[simp] theorem x_jump (s : State) (t : Word) (r : XReg) : (s.jump t).x r = s.x r := rfl

end State

end Sys2Proof.Machine
end

