-- ==== Sys2Proof/Laws/Retire.lean ====
section
/-! SUPPORT. Retiring an instruction does what R60 and R380 say and nothing else; updates of the strand leave the rest. -/

namespace Sys2Proof.Machine

theorem onlyStrand_withStrand (s : State) (f : Strand → Strand) : OnlyStrand s (s.withStrand f) :=
  ⟨rfl, fun k h => by simp [State.withStrand, State.setStrand, h]⟩

theorem OnlyStrand.me_eq {m t : State} (h : OnlyStrand m t) : t.me = m.me := by
  have := congrArg State.me h.rest
  simpa using this

@[simp] theorem frame_setFrame_same (t : Strand) (md : Mode) (f : Frame) : (t.setFrame md f).frame md = f := by
  cases md <;> rfl

theorem frame_setFrame_other (t : Strand) (md md' : Mode) (f : Frame) (h : md' ≠ md) :
    (t.setFrame md f).frame md' = t.frame md' := by
  cases md <;> cases md' <;> first | rfl | exact absurd rfl h

@[simp] theorem getX_setFrame (t : Strand) (md : Mode) (f : Frame) (r : XReg) :
    (t.setFrame md f).getX r = t.getX r := by cases md <;> rfl

/-- Everything that the closing test leaves alone. -/
theorem setFrame_same (t : Strand) (md : Mode) (f : Frame) (x : Vector Word 32) (p : Word) (c : Csrs) (y : Sync)
    (a b d : Frame) :
    { t.setFrame md f with x := x, pc := p, csr := c, sync := y, frameU := a, frameS := b, frameM := d } =
      { t with x := x, pc := p, csr := c, sync := y, frameU := a, frameS := b, frameM := d } := by
  cases md <;> rfl

theorem setX_same (t : Strand) (d : XReg) (w : Word) (x : Vector Word 32) :
    { t.setX d w with x := x } = { t with x := x } := by
  rcases Decidable.em (d = 0) with rfl | h
  · rw [setX_zero]
  · rw [setX_ne _ _ _ h]

@[simp] theorem setFrame_frame (t : Strand) (md : Mode) : t.setFrame md (t.frame md) = t := by cases md <;> rfl

@[simp] theorem mode_setFrame (t : Strand) (md : Mode) (f : Frame) : (t.setFrame md f).mode = t.mode := by
  cases md <;> rfl

@[simp] theorem csr_setFrame (t : Strand) (md : Mode) (f : Frame) : (t.setFrame md f).csr = t.csr := by
  cases md <;> rfl

@[simp] theorem sync_setFrame (t : Strand) (md : Mode) (f : Frame) : (t.setFrame md f).sync = t.sync := by
  cases md <;> rfl

@[simp] theorem csr_setX (t : Strand) (d : XReg) (w : Word) : (t.setX d w).csr = t.csr := by
  rcases Decidable.em (d = 0) with rfl | h
  · rw [setX_zero]
  · rw [setX_ne _ _ _ h]

@[simp] theorem sync_setX (t : Strand) (d : XReg) (w : Word) : (t.setX d w).sync = t.sync := by
  rcases Decidable.em (d = 0) with rfl | h
  · rw [setX_zero]
  · rw [setX_ne _ _ _ h]

/-- The closing test on a pass that is counted. -/
theorem closing_closes (t : Strand) (nxt : Word) (h : ClosesPass t nxt) :
    t.closing nxt =
      if countAfter t ≠ 0 then
        ((t.setX (t.frame t.mode).creg (t.getX (t.frame t.mode).creg - 1)).setFrame t.mode
          { t.frame t.mode with
            pass := if (t.frame t.mode).rep then (t.frame t.mode).pass + 1 else (t.frame t.mode).pass },
          (t.frame t.mode).start)
      else
        ((t.setX (t.frame t.mode).creg (t.getX (t.frame t.mode).creg - 1)).setFrame t.mode
          { t.frame t.mode with act := false }, nxt) := by
  obtain ⟨ha, hb, hc, hd⟩ := h
  have key : (t.setX (t.frame t.mode).creg (t.getX (t.frame t.mode).creg - 1)).getX (t.frame t.mode).creg =
      countAfter t := by
    rw [getX_setX, countAfter, if_pos rfl]
  unfold Strand.closing
  simp only [ha, Bool.not_true, Bool.false_eq_true, if_false]
  rw [if_pos ⟨hb, hc, hd⟩, key, mode_setX]

/-- The closing test on any other instruction. -/
theorem closing_on (t : Strand) (nxt : Word) (h : ¬ ClosesPass t nxt) :
    (StaysInBody t nxt → t.closing nxt = (t, nxt)) ∧
      (¬ StaysInBody t nxt → t.closing nxt = (t.setFrame t.mode { t.frame t.mode with act := false }, nxt)) := by
  by_cases ha : (t.frame t.mode).act = true
  · have h' : ¬((t.frame t.mode).start.toNat ≤ t.pc.toNat ∧ t.pc.toNat < (t.frame t.mode).stop.toNat ∧
        nxt = (t.frame t.mode).stop) := fun c => h ⟨ha, c⟩
    unfold Strand.closing
    simp only [ha, Bool.not_true, Bool.false_eq_true, if_false]
    rw [if_neg h']
    exact ⟨fun g => if_pos g, fun g => if_neg g⟩
  · have hf : (t.frame t.mode).act = false := by simpa using ha
    have e : ({ t.frame t.mode with act := false } : Frame) = t.frame t.mode := by rw [← hf]
    have g : t.closing nxt = (t, nxt) := by
      unfold Strand.closing
      simp only [hf, Bool.not_false, if_true]
    rw [e, setFrame_frame]
    exact ⟨fun _ => g, fun _ => g⟩

/-- What the closing test changes of a strand. -/
theorem closing_same (t : Strand) (nxt : Word) :
    (t.closing nxt).1.csr = t.csr ∧ (t.closing nxt).1.sync = t.sync ∧ (t.closing nxt).1.mode = t.mode ∧
      (∀ md, md ≠ t.mode → (t.closing nxt).1.frame md = t.frame md) ∧
      { (t.closing nxt).1 with
        x := t.x, pc := t.pc, csr := t.csr, sync := t.sync
        frameU := t.frameU, frameS := t.frameS, frameM := t.frameM } = t := by
  by_cases h : ClosesPass t nxt
  · rw [closing_closes t nxt h]
    split
    all_goals
      refine ⟨by simp, by simp, by simp, ?_, ?_⟩
      · intro md hm
        simp [frame_setFrame_other _ _ _ _ hm]
      · exact (setFrame_same ..).trans (congrArg (fun u : Strand =>
          { u with
            pc := t.pc, csr := t.csr, sync := t.sync
            frameU := t.frameU, frameS := t.frameS, frameM := t.frameM }) (setX_same t _ _ t.x))
  · by_cases g : StaysInBody t nxt
    · rw [(closing_on t nxt h).1 g]
      exact ⟨rfl, rfl, rfl, fun _ _ => rfl, rfl⟩
    · rw [(closing_on t nxt h).2 g]
      refine ⟨by simp, by simp, by simp, fun md hm => by simp [frame_setFrame_other _ _ _ _ hm], ?_⟩
      exact setFrame_same ..

/-- The strand that retiring leaves. -/
theorem strand_retire (m : State) :
    m.retire.strand =
      { (m.strand.closing (m.latch.target.getD m.after)).1 with
        pc := (m.strand.closing (m.latch.target.getD m.after)).2
        csr := { m.strand.csr with instret := m.strand.csr.instret + 1 }
        sync := { m.strand.sync with
          held := false, bounded := false, what := .other, began := false, waited := 0, insn := [], reply := none, watch := none } } := by
  obtain ⟨hc, hs, -, -, -⟩ := closing_same m.strand (m.latch.target.getD m.after)
  rw [← hc, ← hs]
  unfold State.retire
  rw [State.strand_withStrand]

theorem frame_with (u : Strand) (p : Word) (c : Csrs) (y : Sync) (md : Mode) :
    ({ u with pc := p, csr := c, sync := y } : Strand).frame md = u.frame md := by cases md <;> rfl

theorem getX_with (u : Strand) (p : Word) (c : Csrs) (y : Sync) (r : XReg) :
    ({ u with pc := p, csr := c, sync := y } : Strand).getX r = u.getX r := rfl

/-- `retire` does what R60 and R380 say of an instruction that retires. -/
theorem retires_retire (m : State) : Retires m m.retire (m.latch.target.getD m.after) := by
  have hs := strand_retire m
  obtain ⟨-, -, -, hfr, hsame⟩ := closing_same m.strand (m.latch.target.getD m.after)
  generalize m.latch.target.getD m.after = nxt at hs hfr hsame ⊢
  constructor
  case only => exact onlyStrand_withStrand m (fun t => _)
  case csr => rw [hs]
  case sync => rw [hs]
  case frames => intro md hm; rw [hs, frame_with]; exact hfr md hm
  case same => rw [hs]; exact hsame
  case again =>
    intro h g
    rw [hs, frame_with, closing_closes _ _ h, if_pos g]
    exact ⟨rfl, frame_setFrame_same ..⟩
  case past =>
    intro h g
    rw [hs, frame_with, closing_closes _ _ h, if_neg (by simp [g])]
    exact ⟨rfl, frame_setFrame_same ..⟩
  case count =>
    intro h r
    rw [State.x_eq_getX, State.x_eq_getX, hs, getX_with, closing_closes _ _ h]
    have key : ∀ f, ((m.strand.setX (m.strand.frame m.strand.mode).creg
        (m.strand.getX (m.strand.frame m.strand.mode).creg - 1)).setFrame m.strand.mode f).getX r =
        if r = (m.strand.frame m.strand.mode).creg then countAfter m.strand else m.strand.getX r := by
      intro f
      rw [getX_setFrame, getX_setX, countAfter]
      by_cases a : r = 0
      · subst a
        by_cases b : (0 : XReg) = (m.strand.frame m.strand.mode).creg
        · rw [if_pos rfl, if_pos b, if_pos b.symm]
        · rw [if_pos rfl, if_neg b, getX_zero]
      · by_cases b : r = (m.strand.frame m.strand.mode).creg
        · rw [if_neg a, if_pos b, if_pos b, if_neg (b ▸ a)]
        · rw [if_neg a, if_neg b, if_neg b]
    split <;> exact key _
  case on =>
    intro h
    have e : (m.strand.closing nxt).2 = nxt ∧ ∀ r, (m.strand.closing nxt).1.getX r = m.strand.getX r := by
      by_cases g : StaysInBody m.strand nxt
      · rw [(closing_on _ _ h).1 g]; exact ⟨rfl, fun _ => rfl⟩
      · rw [(closing_on _ _ h).2 g]; exact ⟨rfl, fun r => getX_setFrame _ _ _ r⟩
    refine ⟨by rw [hs]; exact e.1, fun r => ?_⟩
    rw [State.x_eq_getX, State.x_eq_getX, hs, getX_with]
    exact e.2 r
  case stays =>
    intro h g
    rw [hs, frame_with, (closing_on _ _ h).1 g]
  case leaves =>
    intro h g
    rw [hs, frame_with, (closing_on _ _ h).2 g, frame_setFrame_same]

/-- An instruction whose meaning ends in `done` completes with that effect. -/
theorem does_of_done (i : Instr) (s m : State) (h : exec i s = done m)
    (hn : m.latch.target.getD m.after = fallsTo s) : Does i s m :=
  ⟨m.retire, h, hn ▸ retires_retire m⟩

/-- The same for a meaning that answers through `finish`. -/
theorem does_of_finish (i : Instr) (s m : State) (h : exec i s = finish s (.ok () m))
    (hn : m.latch.target.getD m.after = fallsTo s) : Does i s m :=
  ⟨m.retire, h, hn ▸ retires_retire m⟩

/-- An instruction whose meaning ends in `done` completes. -/
theorem completes_done (i : Instr) (s m : State) (P : State → Prop) (nxt : Word) (h : exec i s = done m)
    (hn : m.latch.target.getD m.after = nxt) (hp : ∀ t, Retires m t nxt → P t) : Completes i s P :=
  ⟨m.retire, h, hp _ (hn ▸ retires_retire m)⟩

end Sys2Proof.Machine
end

