-- ==== Sys2Proof/Laws/Step.lean ====
section
/-! SUPPORT. What a step of a core does, by what its first candidate strand is prepared to do. -/

namespace Sys2Proof.Machine

/-- A turn that names a core lets that core move. -/
theorem step_core (s : State) (n : Nat) (h : s.begin.turn.act = .core n) : step s = s.begin.coreStep n := by
  show s.begin.moves = _
  unfold State.moves
  rw [h]

/-- A turn that names an event performs it, unless the module is frozen and the event does not run then. -/
theorem step_event (s : State) (i : Instr) (h : s.begin.turn.act = .event i) :
    step s = if s.begin.mp.frozen && !runsFrozen i then .next s.begin else exec i s.begin := by
  show s.begin.moves = _
  unfold State.moves
  rw [h]

/-- The first candidate makes a move of its own: it traps or takes what is due. -/
theorem coreStep_move (b u : State) (n k : Nat) (ks : List Nat) (hc : b.candidates n = k :: ks) (h : b.prepare n k = .move u) :
    b.coreStep n = .next (u.tick n) := by
  unfold State.coreStep
  rw [hc]
  unfold State.tryFrom
  rw [h]

/-- The first candidate runs an instruction: the core's step follows from `exec` of it. -/
theorem coreStep_run (b g : State) (n k : Nat) (ks : List Nat) (i : Instr) (hc : b.candidates n = k :: ks)
    (h : b.prepare n k = .run i g) : Follows b n k ks g (exec i g) (b.coreStep n) := by
  unfold State.coreStep
  rw [hc]
  unfold State.tryFrom
  rw [h]
  refine ⟨fun t ht hh => ?_, fun t ht hh => ?_, fun f hf => ?_, fun f hf => ?_⟩
  · simp only [ht, hh]; rfl
  · simp only [ht, hh]; rfl
  · simp only [hf]
  · simp only [hf]

/-- Neither the issue order nor what an instruction enters with makes a strand a member of a troupe. -/
theorem inTroupe_enterInsn (m : State) (n k : Nat) : (m.issued n k).enterInsn.inTroupe = m.inTroupe := by
  unfold State.inTroupe State.enterInsn State.modSync
  rw [State.strand_withStrand]
  rfl

/-- A strand that may issue fetches its own instruction. -/
theorem prepare_own (b m : State) (n k : Nat) (hk : m = { b with me := ⟨n, k⟩ }) (h : MayIssue m) :
    b.prepare n k = (m.issued n k).enterInsn.issueOwn := by
  obtain ⟨h1, h2, h3, h4, h5, h6, h7, h8⟩ := h
  have hs : m.me.slot = k := by rw [hk]
  have hn : m.me.core = n := by rw [hk]
  have ht : (m.issued n k).enterInsn.inTroupe = false := by
    rw [inTroupe_enterInsn]
    rcases h8 with h8 | h8 <;> simp [State.inTroupe, h8]
  rw [hs] at h3
  rw [hn] at h2
  unfold State.prepare
  rw [← hk]
  simp only [h1, h2, h3, h4, h5, h6, h7, ht]
  rfl

/-- A chain that decodes, and that waits for no record, runs its instruction renamed. -/
theorem issueOwn_run (s f : State) (c : Chain) (ps : List Parcel) (i : Instr) (hf : s.fetchNext = (.chain c ps, f))
    (hw : f.waitsX c ps = false) (hi : decodeChain c = some i) :
    s.issueOwn = .run (rename (State.renameBy (f.latched ps).strand) i) (f.latched ps) := by
  unfold State.issueOwn
  rw [hf]
  simp only [hw, State.issueChain, hi]
  rfl

/-- A whole chain that decodes to nothing traps with cause 1 (R91). -/
theorem issueOwn_illegal (s f : State) (c : Chain) (ps : List Parcel) (hf : s.fetchNext = (.chain c ps, f))
    (hw : f.waitsX c ps = false) (hi : decodeChain c = none) :
    s.issueOwn = .move ((f.latched ps).takeSync 1 (firstFour ps) 0) := by
  unfold State.issueOwn
  rw [hf]
  simp only [hw, State.issueChain, hi]
  rfl

/-- A fetch that waits at its slice leaves the strand idle (R195). -/
theorem issueOwn_wait (s f : State) (hf : s.fetchNext = (.wait, f)) : s.issueOwn = .idle f := by
  unfold State.issueOwn
  rw [hf]

end Sys2Proof.Machine
end

