-- ==== Sys2Proof/Laws/Trap.lean ====
section
/-! SUPPORT. Taking a trap does what R61 and R62 say. -/

namespace Sys2Proof.Machine

theorem getLsbD_setField {m : Nat} (w : BitVec m) (lo n v i : Nat) (hm : i < m) :
    (setField w lo n v).getLsbD i = if lo ≤ i ∧ i < lo + n then v.testBit (i - lo) else w.getLsbD i := by
  unfold setField
  simp only [BitVec.getLsbD_or, BitVec.getLsbD_and, BitVec.getLsbD_not, BitVec.getLsbD_ofNat, Nat.testBit_shiftLeft,
    Nat.testBit_two_pow_sub_one, hm, decide_true, Bool.true_and]
  by_cases h : lo ≤ i ∧ i < lo + n
  · have g : i - lo < n := by omega
    simp [h, g]
  · by_cases k : lo ≤ i
    · have g : ¬ i - lo < n := by omega
      simp [h, g]
    · simp [k]

theorem getLsbD_setField_ge {m : Nat} (w : BitVec m) (lo n v i : Nat) (h : lo + n ≤ i) :
    (setField w lo n v).getLsbD i = w.getLsbD i := by
  by_cases hm : i < m
  · rw [getLsbD_setField _ _ _ _ _ hm, if_neg (by omega)]
  · rw [BitVec.getLsbD_of_ge _ _ (Nat.le_of_not_lt hm), BitVec.getLsbD_of_ge _ _ (Nat.le_of_not_lt hm)]

theorem getLsbD_setField_lt {m : Nat} (w : BitVec m) (lo n v i : Nat) (h : i < lo) :
    (setField w lo n v).getLsbD i = w.getLsbD i := by
  by_cases hm : i < m
  · rw [getLsbD_setField _ _ _ _ _ hm, if_neg (by omega)]
  · rw [BitVec.getLsbD_of_ge _ _ (Nat.le_of_not_lt hm), BitVec.getLsbD_of_ge _ _ (Nat.le_of_not_lt hm)]

theorem getLsbD_setField_in {m : Nat} (w : BitVec m) (lo n v i : Nat) (h : lo ≤ i) (g : i < lo + n) (hm : i < m) :
    (setField w lo n v).getLsbD i = v.testBit (i - lo) := by
  rw [getLsbD_setField _ _ _ _ _ hm, if_pos ⟨h, g⟩]

theorem field_setField_same {m : Nat} (w : BitVec m) (lo n v : Nat) (h : lo + n ≤ m) :
    field (setField w lo n v) lo n = v % 2 ^ n := by
  unfold field
  apply Nat.eq_of_testBit_eq
  intro i
  by_cases hi : i < n
  · have := getLsbD_setField_in w lo n v (lo + i) (Nat.le_add_right ..) (by omega) (by omega)
    rw [BitVec.testBit_toNat, BitVec.getLsbD_extractLsb']
    simp [hi, this, Nat.testBit_mod_two_pow]
  · rw [BitVec.testBit_toNat, BitVec.getLsbD_extractLsb']
    simp [hi, Nat.testBit_mod_two_pow]

theorem field_setField_above {m : Nat} (w : BitVec m) (lo n v hi k : Nat) (h : lo + n ≤ hi) :
    field (setField w hi k v) lo n = field w lo n := by
  unfold field
  apply Nat.eq_of_testBit_eq
  intro i
  rw [BitVec.testBit_toNat, BitVec.getLsbD_extractLsb', BitVec.testBit_toNat, BitVec.getLsbD_extractLsb']
  by_cases hi' : i < n
  · rw [getLsbD_setField_lt _ _ _ _ _ (by omega)]
  · simp [hi']

/-- What nothing before a trap's entry changes. -/
structure Kept (s t : State) : Prop where
  me    : t.me = s.me
  mem   : t.mem = s.mem
  pc    : t.strand.pc = s.strand.pc
  mode  : t.strand.mode = s.strand.mode
  sBank : t.strand.sBank = s.strand.sBank
  mBank : t.strand.mBank = s.strand.mBank
  instret : t.strand.csr.instret = s.strand.csr.instret
  fflags : t.strand.csr.fflags = s.strand.csr.fflags
  region : rgsState t.strand.csr.rgs = rgsState s.strand.csr.rgs
  fU    : t.strand.frameU = s.strand.frameU
  fS    : t.strand.frameS = s.strand.frameS
  fM    : t.strand.frameM = s.strand.frameM
  x     : t.strand.x = s.strand.x
  v     : t.strand.v = s.strand.v
  b     : t.strand.b = s.strand.b

theorem Kept.refl (s : State) : Kept s s := by constructor <;> rfl

theorem Kept.trans {s t u : State} (h : Kept s t) (g : Kept t u) : Kept s u := by
  constructor
  · exact g.me.trans h.me
  · exact g.mem.trans h.mem
  · exact g.pc.trans h.pc
  · exact g.mode.trans h.mode
  · exact g.sBank.trans h.sBank
  · exact g.mBank.trans h.mBank
  · exact g.instret.trans h.instret
  · exact g.fflags.trans h.fflags
  · exact g.region.trans h.region
  · exact g.fU.trans h.fU
  · exact g.fS.trans h.fS
  · exact g.fM.trans h.fM
  · exact g.x.trans h.x
  · exact g.v.trans h.v
  · exact g.b.trans h.b

/-- A change of strands that keeps, of the executing one, what a trap's entry reads. -/
theorem kept_of_strand {s t : State} (u : Strand) (hme : t.me = s.me) (hmem : t.mem = s.mem) (hs : t.strand = u)
    (h : { s.strand with
      csr := u.csr, region := u.region, sync := u.sync, causes := u.causes, preq := u.preq, troupe := u.troupe
      ident := u.ident, inbound := u.inbound, sPend := u.sPend, live := u.live } = u)
    (hi : u.csr.instret = s.strand.csr.instret) (hf : u.csr.fflags = s.strand.csr.fflags)
    (hg : rgsState u.csr.rgs = rgsState s.strand.csr.rgs) : Kept s t := by
  subst hs
  constructor
  · exact hme
  · exact hmem
  · exact (congrArg Strand.pc h).symm
  · exact (congrArg Strand.mode h).symm
  · exact (congrArg Strand.sBank h).symm
  · exact (congrArg Strand.mBank h).symm
  · exact hi
  · exact hf
  · exact hg
  · exact (congrArg Strand.frameU h).symm
  · exact (congrArg Strand.frameS h).symm
  · exact (congrArg Strand.frameM h).symm
  · exact (congrArg Strand.x h).symm
  · exact (congrArg Strand.v h).symm
  · exact (congrArg Strand.b h).symm

theorem kept_modStrand_other (s : State) (w : Sid) (f : Strand → Strand) (h : w.key ≠ s.me.key) :
    Kept s (s.modStrand w f) := by
  refine kept_of_strand s.strand rfl rfl ?_ rfl rfl rfl rfl
  simp [State.modStrand, State.strand, Ne.symm h]

theorem kept_withStrand (s : State) (f : Strand → Strand)
    (h : ∀ p : Strand, { p with
      csr := (f p).csr, region := (f p).region, sync := (f p).sync, causes := (f p).causes, preq := (f p).preq
      troupe := (f p).troupe, ident := (f p).ident, inbound := (f p).inbound, sPend := (f p).sPend
      live := (f p).live } = f p)
    (hi : ∀ p : Strand, (f p).csr.instret = p.csr.instret) (hf : ∀ p : Strand, (f p).csr.fflags = p.csr.fflags)
    (hg : ∀ p : Strand, rgsState (f p).csr.rgs = rgsState p.csr.rgs) : Kept s (s.withStrand f) :=
  kept_of_strand (f s.strand) rfl rfl (State.strand_withStrand s f) (h _) (hi _) (hf _) (hg _)

theorem getK_map (d : α) (g : Nat → α → α) (hd : ∀ k, g k d = d) (k : Nat) (l : List (Nat × α)) :
    getK d k (l.map fun p => (p.1, g p.1 p.2)) = g k (getK d k l) := by
  induction l with
  | nil => simp [getK, hd]
  | cons p rest ih =>
    obtain ⟨j, a⟩ := p
    by_cases h : j = k
    · subst h; simp [getK]
    · simp [getK, h, ih]

theorem setK_setK (k : Nat) (a b : α) (l : List (Nat × α)) : setK k b (setK k a l) = setK k b l := by
  induction l with
  | nil => simp [setK]
  | cons p rest ih =>
    obtain ⟨j, c⟩ := p
    by_cases h : j = k
    · simp [setK, h]
    · by_cases g : k < j
      · simp [setK, h, g]
      · simp [setK, h, g, ih]

/-- A change of the parts of the state that a trap's entry does not read. -/
theorem kept_of_eq {s t : State} (hme : t.me = s.me) (hmem : t.mem = s.mem) (hs : t.strands = s.strands) : Kept s t :=
  kept_of_strand s.strand hme hmem (by simp only [State.strand, State.strandAt, hme, hs]) rfl rfl rfl rfl

theorem key_ofKey (k : Nat) : (Sid.ofKey k).key = k := by
  simp only [Sid.ofKey, Sid.key]; omega

theorem kept_foldl {β : Type} (f : State → β → State) (l : List β) (s : State)
    (h : ∀ (u : State) (b : β), b ∈ l → u.me = s.me → Kept u (f u b)) : Kept s (l.foldl f s) := by
  induction l generalizing s with
  | nil => exact Kept.refl s
  | cons b rest ih =>
    have h1 := h s b (List.mem_cons_self ..) rfl
    exact h1.trans (ih _ fun u c hc hu => h u c (List.mem_cons_of_mem _ hc) (hu.trans h1.me))

theorem kept_forwardTo (s : State) (k : Nat) (f : Fwd) (h : k ≠ s.me.key) : Kept s (s.forwardTo k f) :=
  kept_modStrand_other s _ _ (by rw [key_ofKey]; exact h)

theorem kept_alone (s : State) : Kept s (s.modStrand s.me Strand.alone) :=
  kept_withStrand s Strand.alone (fun _ => rfl) (fun _ => rfl) (fun _ => rfl) (fun _ => rfl)

theorem kept_dissolve (s : State) (pc : Word) (redone : Bool) : Kept s (s.dissolve s.me.key pc redone) := by
  unfold State.dissolve
  have h : Kept s ((s.troupeOf s.me.key).foldl (fun u k =>
      if k == s.me.key then u
      else
        let u := if redone then u.modStrand (Sid.ofKey k) fun t => { t with troupe := State.recallFwd pc t.troupe } else u
        u.forwardTo k (.dissolve pc)) s) := by
    apply kept_foldl
    intro u k _ hu
    by_cases e : k = s.me.key
    · simp [e, Kept.refl]
    · have e' : k ≠ u.me.key := by rw [hu]; exact e
      simp only [beq_iff_eq, e, if_false]
      cases redone
      · exact kept_forwardTo u k _ e'
      · exact (kept_modStrand_other u (Sid.ofKey k) (fun t => { t with troupe := State.recallFwd pc t.troupe })
          (by rw [key_ofKey]; exact e')).trans (kept_forwardTo (u.modStrand _ _) k (.dissolve pc) e')
  refine h.trans ?_
  generalize hv : List.foldl _ _ _ = v at h
  have hk : (Sid.ofKey s.me.key).key = v.me.key := by rw [key_ofKey, h.me]
  have : v.modStrand (Sid.ofKey s.me.key) Strand.alone = v.modStrand v.me Strand.alone := by
    simp only [State.modStrand, State.setStrand, State.strandAt, hk]
  rw [this]
  exact kept_alone v

theorem kept_leaveTroupe (s : State) (redone : Bool) : Kept s (s.leaveTroupe redone) := by
  unfold State.leaveTroupe
  dsimp only
  split
  · exact Kept.refl s
  · split
    · exact kept_dissolve s _ redone
    · exact kept_alone s

theorem kept_cancelWaits (s : State) : Kept s s.cancelWaits := kept_of_eq rfl rfl rfl

/-- A change of every strand of a group that keeps what a trap's entry reads. -/
theorem kept_modGroup (s : State) (g : Strand) (f : Strand → Strand)
    (h : ∀ p : Strand, { p with
      csr := (f p).csr, region := (f p).region, sync := (f p).sync, causes := (f p).causes, preq := (f p).preq
      troupe := (f p).troupe, ident := (f p).ident, inbound := (f p).inbound, sPend := (f p).sPend
      live := (f p).live } = f p)
    (hi : ∀ p : Strand, (f p).csr.instret = p.csr.instret) (hf : ∀ p : Strand, (f p).csr.fflags = p.csr.fflags)
    (hr : ∀ p : Strand, rgsState (f p).csr.rgs = rgsState p.csr.rgs) : Kept s (s.modGroup g f) := by
  have e : (s.modGroup g f).strand = if State.sameGroup g s.strand then f s.strand else s.strand := by
    have := getK_map Strand.reset (fun _ p => if State.sameGroup g p then f p else p) 
      (by intro k; simp [State.sameGroup, Strand.reset]) s.me.key s.strands
    rw [← State.strandAt, ← State.strand] at this
    rw [← this]
    unfold State.modGroup State.strand State.strandAt
    dsimp only
    congr 1
    apply List.map_congr_left
    intro p _
    split <;> rfl
  refine kept_of_strand _ rfl rfl e ?_ ?_ ?_ ?_
  · split
    · exact h _
    · rfl
  · split
    · exact hi _
    · rfl
  · split
    · exact hf _
    · rfl
  · split
    · exact hr _
    · rfl

theorem kept_modCsr (s : State) (f : Csrs → Csrs) (hi : ∀ c : Csrs, (f c).instret = c.instret)
    (hf : ∀ c : Csrs, (f c).fflags = c.fflags) (hg : ∀ c : Csrs, rgsState (f c).rgs = rgsState c.rgs) :
    Kept s (s.modCsr f) :=
  kept_withStrand s _ (fun _ => rfl) (fun _ => hi _) (fun _ => hf _) (fun _ => hg _)

theorem kept_completeRound (s : State) (t : Strand) : Kept s (s.completeRound t) := by
  unfold State.completeRound
  dsimp only
  split
  · exact kept_modGroup s t _ (fun _ => rfl) (fun _ => rfl) (fun _ => rfl) (fun _ => rfl)
  · exact Kept.refl s

theorem kept_noteArrival (s : State) : Kept s s.noteArrival := by
  unfold State.noteArrival
  dsimp only
  have h := kept_withStrand s
    (fun t => { t with region := { t.region with next := max t.region.next (State.roundOf t + 1) } })
    (fun _ => rfl) (fun _ => rfl) (fun _ => rfl) (fun _ => rfl)
  split
  · exact h
  · exact h.trans (kept_completeRound _ _)

theorem kept_arriveRegion (s : State) : Kept s s.arriveRegion := by
  unfold State.arriveRegion
  dsimp only
  have h : ∀ k, Kept s (s.modCsr fun c => { c with rgs := setField (setField c.rgs 32 32 k) 3 1 1 }) :=
    fun k => kept_modCsr s _ (fun _ => rfl) (fun _ => rfl) fun c =>
      (field_setField_above _ 0 3 1 3 1 (by omega)).trans (field_setField_above _ 0 3 k 32 32 (by omega))
  split <;> split
  · exact Kept.refl s
  · exact kept_noteArrival s
  · exact h _
  · exact (h _).trans (kept_noteArrival _)

/-- Up to the rollback, nothing that a trap's entry reads has changed. -/
theorem beforeTrap_eq (s : State) (cause : Nat) (redone : Bool) :
    ∃ u, Kept s u ∧ s.beforeTrap cause redone = u.withStrand fun t => (t.trapRollback cause).endWait := by
  by_cases h : cause = 10 ∧ s.strand.inRegion
  · refine ⟨(s.arriveRegion.leaveTroupe redone).cancelWaits,
      (kept_arriveRegion s).trans ((kept_leaveTroupe _ redone).trans (kept_cancelWaits _)), ?_⟩
    unfold State.beforeTrap
    rw [if_pos h]
  · refine ⟨(s.leaveTroupe redone).cancelWaits, (kept_leaveTroupe _ redone).trans (kept_cancelWaits _), ?_⟩
    unfold State.beforeTrap
    rw [if_neg h]

@[simp] theorem endWait_with (t : Strand) : { t.endWait with sync := t.sync } = t := rfl

/-- The rollback leaves what a trap's entry reads, the bit tiles, and without an open region everything. -/
theorem trapRollback_same (t : Strand) (cause : Nat) :
    (t.trapRollback cause).pc = t.pc ∧ (t.trapRollback cause).mode = t.mode ∧
    (t.trapRollback cause).sBank = t.sBank ∧ (t.trapRollback cause).mBank = t.mBank ∧
    (t.trapRollback cause).csr.instret = t.csr.instret ∧ (t.trapRollback cause).csr.fflags = t.csr.fflags ∧
    (∀ md, (t.trapRollback cause).frame md = t.frame md) ∧ (t.trapRollback cause).b = t.b ∧
    (t.inRegion = false → t.trapRollback cause = t) := by
  unfold Strand.trapRollback
  by_cases h : t.inRegion = true
  · simp only [h, if_true]
    refine ⟨rfl, rfl, rfl, rfl, rfl, rfl, fun md => ?_, rfl, fun e => by cases e⟩
    cases md <;> rfl
  · simp only [h]
    exact ⟨rfl, rfl, rfl, rfl, rfl, rfl, fun _ => rfl, rfl, fun _ => rfl⟩

/-- What entering a trap bank writes (R61). -/
theorem entered_enter (bk : Bank) (epc cause val : Word) (m : Mode) (wide : Bool) :
    Entered bk (bk.enter epc cause val m wide) epc m wide cause val := by
  constructor
  · rfl
  · rfl
  · rfl
  · have h1 : ∀ n, (setField (setField (setField bk.status 1 1 (field bk.status 0 1)) 0 1 0) 2 n m.code).getLsbD 0 =
        false := by
      intro n
      rw [getLsbD_setField_lt _ _ _ _ _ (by omega), getLsbD_setField_in _ _ _ _ _ (by omega) (by omega) (by omega)]
      rfl
    exact h1 _
  · have h1 : ∀ n, (setField (setField (setField bk.status 1 1 (field bk.status 0 1)) 0 1 0) 2 n m.code).getLsbD 1 =
        bk.status.getLsbD 0 := by
      intro n
      rw [getLsbD_setField_lt _ _ _ _ _ (by omega), getLsbD_setField_ge _ _ _ _ _ (by omega),
        getLsbD_setField_in _ _ _ _ _ (by omega) (by omega) (by omega)]
      unfold field
      rw [BitVec.testBit_toNat, BitVec.getLsbD_extractLsb']
      simp
    exact h1 _
  · have := fun n h => field_setField_same (setField (setField bk.status 1 1 (field bk.status 0 1)) 0 1 0) 2 n m.code h
    cases wide
    · exact this 1 (by omega)
    · exact this 2 (by omega)
  · rfl

/-- A synchronous trap (R61, R62). -/
theorem trapped_takeSync (s : State) (cause : Nat) (val flags : Word) :
    Trapped s (s.takeSync cause val flags) (GoesToM s cause) (BitVec.ofNat 64 cause) val ∧
      (s.takeSync cause val flags).strand.csr.fflags = s.strand.csr.fflags ||| flags := by
  obtain ⟨u, hu, he⟩ := beforeTrap_eq (s.raise flags) cause true
  have hr : (s.raise flags).strand = s.strand.modCsr fun c => { c with fflags := c.fflags ||| flags } :=
    State.strand_withStrand ..
  have h1 : s.takeSync cause val flags = u.withStrand fun t =>
      ((t.trapRollback cause).endWait).enterTrap (((t.trapRollback cause).endWait).syncToM cause)
        (BitVec.ofNat 64 cause) val := by
    unfold State.takeSync
    rw [he]
    simp only [State.withStrand, State.setStrand, State.strand, State.strandAt, getK_setK, if_pos]
    congr 1
    exact setK_setK ..
  have hs : (s.takeSync cause val flags).strand =
      ((u.strand.trapRollback cause).endWait).enterTrap (((u.strand.trapRollback cause).endWait).syncToM cause)
        (BitVec.ofNat 64 cause) val := by rw [h1, State.strand_withStrand]
  have hk : Kept (s.raise flags) u := hu
  obtain ⟨r1, r2, r3, r4, r5, r6, r7, r8, r9⟩ := trapRollback_same u.strand cause
  have e1 : (u.strand.trapRollback cause).endWait.pc = s.strand.pc := r1.trans (hk.pc.trans (by rw [hr]; rfl))
  have e2 : (u.strand.trapRollback cause).endWait.mode = s.strand.mode := r2.trans (hk.mode.trans (by rw [hr]; rfl))
  have e3 : (u.strand.trapRollback cause).endWait.sBank = s.strand.sBank := r3.trans (hk.sBank.trans (by rw [hr]; rfl))
  have e4 : (u.strand.trapRollback cause).endWait.mBank = s.strand.mBank := r4.trans (hk.mBank.trans (by rw [hr]; rfl))
  have e5 : (u.strand.trapRollback cause).endWait.csr.instret = s.strand.csr.instret :=
    r5.trans (hk.instret.trans (by rw [hr]; rfl))
  have e6 : (u.strand.trapRollback cause).endWait.csr.fflags = s.strand.csr.fflags ||| flags :=
    r6.trans (hk.fflags.trans (by rw [hr]; rfl))
  have e7 : ∀ md, (u.strand.trapRollback cause).endWait.frame md = s.strand.frame md := by
    intro md
    have : (u.strand.trapRollback cause).endWait.frame md = (u.strand.trapRollback cause).frame md := by
      cases md <;> rfl
    rw [this, r7 md]
    cases md
    · exact hk.fU.trans (by rw [hr]; rfl)
    · exact hk.fS.trans (by rw [hr]; rfl)
    · exact hk.fM.trans (by rw [hr]; rfl)
  have e8 : (u.strand.trapRollback cause).endWait.b = s.strand.b := r8.trans (hk.b.trans (by rw [hr]; rfl))
  have hin : u.strand.inRegion = s.strand.inRegion := by
    unfold Strand.inRegion
    rw [hk.region, hr]
    rfl
  have e9 : s.strand.inRegion = false → (u.strand.trapRollback cause).endWait.x = s.strand.x ∧
      (u.strand.trapRollback cause).endWait.v = s.strand.v := by
    intro h
    have := r9 (hin.trans h)
    constructor
    · show (u.strand.trapRollback cause).x = _
      rw [this]; exact hk.x.trans (by rw [hr]; rfl)
    · show (u.strand.trapRollback cause).v = _
      rw [this]; exact hk.v.trans (by rw [hr]; rfl)
  have e10 : (u.strand.trapRollback cause).endWait.sync.held = false := rfl
  have hme : (s.takeSync cause val flags).me = s.me := by rw [h1]; exact hk.me
  have hmem : (s.takeSync cause val flags).mem = s.mem := by rw [h1]; exact hk.mem
  generalize (u.strand.trapRollback cause).endWait = q at hs e1 e2 e3 e4 e5 e6 e7 e8 e9 e10
  have htm : (q.syncToM cause = true) ↔ GoesToM s cause := by
    unfold Strand.syncToM GoesToM
    rw [e2, e3]
    cases s.strand.mode <;> cases s.strand.sBank.status.getLsbD 0 <;> simp
  refine ⟨⟨hme, ?_, ?_, ?_, ?_, ?_, ?_, ?_, hmem⟩, ?_⟩
  · intro h
    rw [hs, htm.2 h, ← e1, ← e2, ← e4]
    exact ⟨entered_enter .., rfl, rfl, e3⟩
  · intro h
    have hf : q.syncToM cause = false := by
      cases g : q.syncToM cause
      · rfl
      · exact absurd (htm.1 g) h
    rw [hs, hf, ← e1, ← e2, ← e3]
    exact ⟨entered_enter .., rfl, rfl, e4⟩
  · rw [hs, ← e5]; unfold Strand.enterTrap; split <;> rfl
  · rw [hs, ← e10]; unfold Strand.enterTrap; split <;> rfl
  · intro md; rw [hs, ← e7 md]; unfold Strand.enterTrap; split <;> cases md <;> rfl
  · intro h
    obtain ⟨hx, hv⟩ := e9 h
    have gx : (s.takeSync cause val flags).strand.x = s.strand.x := by
      rw [hs, ← hx]; unfold Strand.enterTrap; split <;> rfl
    have gv : (s.takeSync cause val flags).strand.v = s.strand.v := by
      rw [hs, ← hv]; unfold Strand.enterTrap; split <;> rfl
    exact ⟨fun r => by unfold State.x; rw [gx], fun r => by unfold State.v; rw [gv]⟩
  · intro r
    have gb : (s.takeSync cause val flags).strand.b = s.strand.b := by
      rw [hs, ← e8]; unfold Strand.enterTrap; split <;> rfl
    unfold State.b; rw [gb]
  · rw [hs, ← e6]; unfold Strand.enterTrap; split <;> rfl

/-- A meaning that traps. -/
theorem traps_of_exec (i : Instr) (s : State) (cause : Nat) (val flags : Word)
    (h : exec i s = .next (s.takeSync cause val flags)) : Traps i s cause val flags :=
  ⟨_, h, trapped_takeSync s cause val flags⟩

end Sys2Proof.Machine
end

