-- ==== Sys2Proof/Tests/Slice0.lean ====
section
/-! SUPPORT. Tests: terms that each check of `Instr.wf` refuses, words written out from the spec's encodings (R81 to R104 and
the worked parcels of the instruction rules), small runs whose results are the spec's own examples, and, for every statement
that has hypotheses, states and operands that meet them. -/

open Sys2Proof Sys2Proof.Machine
namespace Sys2Proof.Tests

set_option Elab.async false

/-! ## Terms that are not well formed -/

def refused (l : List Instr) : Bool := l.all fun i => !i.wf

theorem test_wf_shift_and_count : refused [.mort3 5 6 21, .skipZ 5 0, .skipNz 5 0, .skipLt 5 0, .skipGe 5 0, .loop 5 0,
    .rep 5 0 1, .rep 5 9 1, .rep 5 8 0] = true := by decide

/-- R88: order plain names scope 0, a load takes no release, a store no acquire; R83: five prefix parcels do not fit. -/
theorem test_wf_memory : refused [.lb 5 6 0 ⟨1, .plain, 0⟩, .lbu 5 6 0 ⟨0, .release, 0⟩, .lh 5 6 0 ⟨0, .acqRel, 0⟩,
    .lhu 5 6 0 ⟨2, .plain, 0⟩, .lw 5 6 0 ⟨0, .release, 0⟩, .lwu 5 6 0 ⟨0, .release, 0⟩, .ld 5 6 0 ⟨0, .release, 0⟩,
    .ldf 5 6 0 ⟨0, .release, 0⟩, .ldfe 5 6 0 ⟨0, .release, 0⟩, .sb 5 6 0 ⟨0, .acquire, 0⟩, .sh 5 6 0 ⟨0, .acqRel, 0⟩,
    .sw 5 6 0 ⟨1, .plain, 0⟩, .sd 5 6 0 ⟨0, .acquire, 0⟩, .sdf 5 6 0 ⟨0, .acquire, 0⟩, .sfe 6 0 ⟨0, .acquire, 0⟩,
    .tld 1 21 7 0x12345 ⟨0, .acquire, 0⟩, .tldt 1 6 7 0 ⟨0, .release, 0⟩, .tst 1 6 7 0 ⟨0, .acquire, 0⟩,
    .tldm 1 6 7 8 0x12345 ⟨0, .acquire, 0⟩, .btLd 1 6 0 ⟨0, .release, 0⟩, .btSt 1 6 0 ⟨0, .acquire, 0⟩,
    .btLd 1 21 0x12345 ⟨0, .acquire, 0⟩, .amoadd false 5 6 7 0x12345 ⟨0, .acquire, 0⟩, .amoswap true 5 6 5 0 ⟨1, .plain, 0⟩,
    .amocas true 5 6 5 0 ⟨1, .plain, 0⟩, .amoand true 5 6 5 0 ⟨1, .plain, 0⟩, .amoor true 5 6 5 0 ⟨1, .plain, 0⟩,
    .amoxor true 5 6 5 0 ⟨1, .plain, 0⟩, .amomin true 5 6 5 0 ⟨1, .plain, 0⟩, .amomax true 5 6 5 0 ⟨1, .plain, 0⟩,
    .amominu true 5 6 5 0 ⟨1, .plain, 0⟩, .amomaxu true 5 6 5 0 ⟨1, .plain, 0⟩, .amofadd true 5 6 5 0 ⟨1, .plain, 0⟩,
    .wait 5 6 6 0 MemMod.none, .wait 5 6 0 0 ⟨0, .release, 0⟩, .sqenq 5 6 0 ⟨1, .plain, 0⟩, .sqdeq 5 6 0 ⟨1, .plain, 0⟩] = true := by
  decide

/-- R100, R437: each vector form takes the types that its rule names; R89: a merging mask is none of a selection. -/
theorem test_wf_vector : refused [.vadd .e4 1 2 3 .all, .vsub .cb4 1 2 3 .all, .vmul .e5 1 2 3 .all, .vmin .e4 1 2 3 .all,
    .vmax .e4 1 2 3 .all, .vand .cb4 1 2 3 .all, .vor .cb4 1 2 3 .all, .vxor .cb4 1 2 3 .all, .vshl .f32 1 2 3 .all,
    .vshr .bf 1 2 3 .all, .vsra .hf 1 2 3 .all, .vmulh .f64 1 2 3 .all, .vabs .n8 1 2 .all, .vneg .n64 1 2 .all,
    .vfma .i32 1 2 3 .all, .vdiv .e4 1 2 3 .all, .vceq .cb4 1 2 3 .all, .vcne .cb4 1 2 3 .all, .vclt .cb4 1 2 3 .all,
    .vcle .cb4 1 2 3 .all, .vld .f32 1 21 0x12345 (.lanes 7 true), .vst .f32 17 6 0x12345 (.lanes 7 true),
    .vldsr .cb4 1 6 0 .all, .vstsr .cb4 1 6 0 .all, .vlds .cb4 1 6 7 0 .all, .vsts .f32 1 6 7 0x12345 (.lanes 7 true),
    .vldx .cb4 1 6 7 0 .all, .vstx .cb4 1 6 7 0 .all, .vperm .cb4 1 2 3 .all, .vsel .cb4 1 2 3 .all,
    .vsel .f32 1 2 3 (.lanes 7 true), .vcompress .cb4 1 2 .all, .vexpand .cb4 1 2 .all, .vslideup .cb4 1 2 3 .all,
    .vslidedn .cb4 1 2 3 .all, .vxchg .cb4 1 2 3 .all, .vbcast .cb4 1 2 .all, .vmvxv .f32 1 2 8 .all, .vmvvx .i64 1 2 4 .all,
    .vredAdd .e4 1 2 .all, .vredMax .f32 1 2 (.lanes 7 true), .vredMin .cb4 1 2 .all, .vcvt .cb4 .f32 1 2 .all,
    .vcvt .f32 .cb4 1 2 .all, .vexp2 .f64 1 2 .all, .vlog2 .i32 1 2 .all, .vrcp .e4 1 2 .all, .vrsq .f64 1 2 .all,
    .vtanh .f64 1 2 .all, .vlgst .f64 1 2 .all, .vrng .f32 1 6 .all, .vrng .i32 1 7 .all] = true := by decide

theorem test_wf_matrix : refused [.trel 12, .tsv 12 6 0, .trs 15 6 0, .mmaE4e4 0 1 2 6, .mmaE4e5 0 1 2 1, .mmaE5e4 0 1 2 2,
    .mmaE5e5 0 1 2 3, .mmaI8i8 0 1 2 5, .mmaI8n8 0 1 2 9, .mmaMx8 0 1 2 0, .mmaMx6 0 1 2 0, .mmaMx4 0 1 2 5, .mmaMxi8 0 1 2 0,
    .mmaCbe4 0 1 3 0, .mmaCbbf 0 1 2 0, .smmaE4e4 0 1 2 4, .smmaE4e4 0 2 3 4, .smmaI8i8 0 2 4 5, .smmaBfbf 0 1 2,
    .smmaCbcb 0 2 3 0 0, .mdrain .f64 1 0, .mdrain .i16 1 0, .mdraint 3 1 0 2 8, .mdraint 0 1 0 2 0, .mdraint 0 1 0 2 5,
    .mdrainMx 1 0 0, .mdrainMx 1 0 6, .rng 5 7, .rng 6 6, .rng 7 6] = true := by decide

/-- R12, R11: an event names parts that the module has. -/
theorem test_wf_events : refused [.instructionFetch ⟨8192, 0⟩ 0, .preemptionRequest ⟨0, 4⟩ true, .heldCountWrite ⟨0, 0⟩ 4 0,
    .carouselPull 8192 0, .sliceRead 8192 0, .queueRefill 8192 0, .burstSend 512, .clusterFuse 512, .clusterRetirement 512,
    .hostWake ⟨131072, 0, false⟩, .hostCopy ⟨0, 2 ^ 32, false⟩ 0 0 0 0 0, .portLinkDown 16, .portLinkUp 16,
    .strandResume 0 [⟨0, 0, ⟨8192, 0⟩⟩]] = true := by decide

/-! ## Words written out from the spec's encodings -/

/-- The parcels are those of the instruction: the decoder reads it from them, the encoder gives them, and it is well formed. -/
noncomputable def reads (l : List (List Parcel × Instr)) : Bool :=
  l.all fun p => decodeParcels p.1 == some (p.2, p.1.length) && encode p.2 == p.1 && p.2.wf


theorem test_decode_alu : reads [
    ([0xF61C, 0x0560], .add 21 6 7),
    ([0xF61C, 0x0561], .sub 21 6 7),
    ([0xF61C, 0x0562], .and 21 6 7),
    ([0xF61C, 0x0563], .or 21 6 7),
    ([0xF61C, 0x0564], .xor 21 6 7),
    ([0xF61C, 0x0565], .sll 21 6 7),
    ([0xF61C, 0x0566], .srl 21 6 7),
    ([0xF61C, 0x0567], .sra 21 6 7),
    ([0xF61C, 0x0568], .mul 21 6 7),
    ([0xF61C, 0x0569], .mulh 21 6 7),
    ([0xF61C, 0x056A], .mulhu 21 6 7),
    ([0xF61C, 0x056B], .div 21 6 7),
    ([0xF61C, 0x056C], .divu 21 6 7),
    ([0xF61C, 0x056D], .rem 21 6 7),
    ([0xF61C, 0x056E], .remu 21 6 7),
    ([0x0000], .nop)] = true := by decide +kernel

theorem test_decode_cmpx : reads [
    ([0xF61C, 0x1560], .slt 21 6 7),
    ([0xF61C, 0x1561], .sltu 21 6 7),
    ([0xF61C, 0x1562], .seq 21 6 7),
    ([0xF61C, 0x1563], .sne 21 6 7),
    ([0xF61C, 0x1564], .min 21 6 7),
    ([0xF61C, 0x1565], .max 21 6 7),
    ([0xF61C, 0x1566], .minu 21 6 7),
    ([0xF61C, 0x1567], .maxu 21 6 7),
    ([0xF61C, 0x1568], .cselZ 21 6 7),
    ([0xF61C, 0x1569], .cselNz 21 6 7),
    ([0x156A], .clz 5 6),
    ([0x156B], .ctz 5 6),
    ([0x156C], .popc 5 6),
    ([0x156D], .rev8 5 6),
    ([0x156E], .sextW 5 6),
    ([0x156F], .zextW 5 6)] = true := by decide +kernel

theorem test_decode_alui : reads [
    ([0xF41C, 0xF006, 0x2504], .addi 5 7 100),
    ([0xF41C, 0xF006, 0x2514], .andi 5 7 100),
    ([0xF41C, 0xF006, 0x2524], .ori 5 7 100),
    ([0xF41C, 0xF006, 0x2534], .xori 5 7 100),
    ([0xF41C, 0xF002, 0x2548], .slli 5 7 40),
    ([0xF41C, 0xF002, 0x2558], .srli 5 7 40),
    ([0xF41C, 0xF002, 0x2568], .srai 5 7 40),
    ([0xF41C, 0xF006, 0x2574], .slti 5 7 100),
    ([0xF41C, 0xF006, 0x2584], .sltiu 5 7 100),
    ([0xF41C, 0xF006, 0x2594], .muli 5 7 100),
    ([0xF048, 0xF345, 0x25A6], .li 5 0x123456),
    ([0xF41C, 0xF006, 0x25B4], .lsi 5 7 100),
    ([0xF41C, 0xF006, 0x25C4], .seqi 5 7 100),
    ([0xF41C, 0xF006, 0x25D4], .mini 5 7 100),
    ([0xF41C, 0xF006, 0x25E4], .maxi 5 7 100),
    ([0xF41C, 0xF001, 0x25F4], .mort3 5 7 20)] = true := by decide +kernel

theorem test_decode_load_store : reads [
    ([0xF654, 0xFEA0, 0xF008, 0x3560], .lb 21 6 8 ⟨5, .acquire, 0⟩),
    ([0xF654, 0xFEA0, 0xF008, 0x3561], .lbu 21 6 8 ⟨5, .acquire, 0⟩),
    ([0xF654, 0xFEA0, 0xF008, 0x3562], .lh 21 6 8 ⟨5, .acquire, 0⟩),
    ([0xF654, 0xFEA0, 0xF008, 0x3563], .lhu 21 6 8 ⟨5, .acquire, 0⟩),
    ([0xF654, 0xFEA0, 0xF008, 0x3564], .lw 21 6 8 ⟨5, .acquire, 0⟩),
    ([0xF654, 0xFEA0, 0xF008, 0x3565], .lwu 21 6 8 ⟨5, .acquire, 0⟩),
    ([0xF654, 0xFEA0, 0xF008, 0x3566], .ld 21 6 8 ⟨5, .acquire, 0⟩),
    ([0xF654, 0xFEA0, 0xF008, 0x3567], .ldf 21 6 8 ⟨5, .acquire, 0⟩),
    ([0xF654, 0xFEA0, 0xF008, 0x3568], .ldfe 21 6 8 ⟨5, .acquire, 0⟩),
    ([0xF654, 0xFDC0, 0xF008, 0x4560], .sb 21 6 8 ⟨3, .release, 0⟩),
    ([0xF654, 0xFDC0, 0xF008, 0x4561], .sh 21 6 8 ⟨3, .release, 0⟩),
    ([0xF654, 0xFDC0, 0xF008, 0x4562], .sw 21 6 8 ⟨3, .release, 0⟩),
    ([0xF654, 0xFDC0, 0xF008, 0x4563], .sd 21 6 8 ⟨3, .release, 0⟩),
    ([0xF654, 0xFDC0, 0xF008, 0x4564], .sdf 21 6 8 ⟨3, .release, 0⟩),
    ([0xFDC0, 0xF008, 0x4065], .sfe 6 8 ⟨3, .release, 0⟩)] = true := by decide +kernel

theorem test_decode_control : reads [
    ([0xF3FE, 0x55D4], .bz 5 (-300)),
    ([0xF3FE, 0x65D4], .bnz 5 (-300)),
    ([0xF3FE, 0x7560], .beq 5 6 (-2)),
    ([0xF3FE, 0x7561], .bne 5 6 (-2)),
    ([0xF3FE, 0x7562], .blt 5 6 (-2)),
    ([0xF3FE, 0x7563], .bge 5 6 (-2)),
    ([0xF3FE, 0x7564], .bltu 5 6 (-2)),
    ([0xF3FE, 0x7565], .bgeu 5 6 (-2)),
    ([0xF3FE, 0x85D4], .jal 5 (-300)),
    ([0xF3FE, 0x9564], .jalr 5 6 (-28)),
    ([0xA503], .skipZ 5 3),
    ([0xA513], .skipNz 5 3),
    ([0xA523], .skipLt 5 3),
    ([0xA533], .skipGe 5 3),
    ([0xB530], .loop 5 3),
    ([0xB532], .rep 5 3 2)] = true := by decide +kernel

theorem test_decode_system : reads [
    ([0xF100, 0xC505], .csrr 5 0x1005),
    ([0xF100, 0xC515], .csrw 5 0x1005),
    ([0xF100, 0xC525], .csrs 5 0x1005),
    ([0xF100, 0xC535], .csrc 5 0x1005),
    ([0xF41C, 0xF100, 0xC545], .csrx 5 7 0x1005),
    ([0xF001, 0xD02C], .trap 300),
    ([0xD100], .rti),
    ([0xD200], .yield),
    ([0xD300], .halt),
    ([0xF001, 0xD42C], .brk 300),
    ([0xD503], .fence 3),
    ([0xD600], .fenceI),
    ([0xD700], .idle),
    ([0xF001, 0xD82C], .safe 300),
    ([0xF3FE, 0xE5D4], .la 5 (-300))] = true := by decide +kernel

theorem test_decode_fp_scalar : reads [
    ([0xF810, 0xF61C, 0x0560], .faddS 21 6 7),
    ([0xF810, 0xF61C, 0x0561], .fsubS 21 6 7),
    ([0xF810, 0xF61C, 0x0562], .fmulS 21 6 7),
    ([0xF810, 0xF61C, 0x0563], .fdivS 21 6 7),
    ([0xF810, 0xF61C, 0x0564], .fminS 21 6 7),
    ([0xF810, 0xF61C, 0x0565], .fmaxS 21 6 7),
    ([0xF810, 0x0566], .fsqrtS 5 6),
    ([0xF810, 0xF61C, 0x0567], .fmaS 21 6 7),
    ([0xF810, 0xF61C, 0x1560], .faddD 21 6 7),
    ([0xF810, 0xF61C, 0x1561], .fsubD 21 6 7),
    ([0xF810, 0xF61C, 0x1562], .fmulD 21 6 7),
    ([0xF810, 0xF61C, 0x1563], .fdivD 21 6 7),
    ([0xF810, 0xF61C, 0x1564], .fminD 21 6 7),
    ([0xF810, 0xF61C, 0x1565], .fmaxD 21 6 7),
    ([0xF810, 0x1566], .fsqrtD 5 6),
    ([0xF810, 0xF61C, 0x1567], .fmaD 21 6 7),
    ([0xF810, 0xF61C, 0x2560], .feqS 21 6 7),
    ([0xF810, 0xF61C, 0x2561], .fltS 21 6 7),
    ([0xF810, 0xF61C, 0x2562], .fleS 21 6 7),
    ([0xF810, 0xF61C, 0x2563], .feqD 21 6 7),
    ([0xF810, 0xF61C, 0x2564], .fltD 21 6 7),
    ([0xF810, 0xF61C, 0x2565], .fleD 21 6 7),
    ([0xF810, 0x2566], .fclassS 5 6),
    ([0xF810, 0x2567], .fclassD 5 6)] = true := by decide +kernel

theorem test_decode_fp_convert : reads [
    ([0xF810, 0x3560], .fcvtSD 5 6),
    ([0xF810, 0x3561], .fcvtDS 5 6),
    ([0xF810, 0x3562], .fcvtSL 5 6),
    ([0xF810, 0x3563], .fcvtLS 5 6),
    ([0xF810, 0x3564], .fcvtDL 5 6),
    ([0xF810, 0x3565], .fcvtLD 5 6),
    ([0xF810, 0x3566], .fcvtSBf 5 6),
    ([0xF810, 0x3567], .fcvtBfS 5 6),
    ([0xF810, 0x3568], .fcvtSHf 5 6),
    ([0xF810, 0x3569], .fcvtHfS 5 6),
    ([0xF810, 0x356A], .fcvtSE4 5 6),
    ([0xF810, 0x356B], .fcvtE4S 5 6),
    ([0xF810, 0x356C], .fcvtSE5 5 6),
    ([0xF810, 0x356D], .fcvtE5S 5 6),
    ([0xF810, 0x356E], .fcvtSW 5 6),
    ([0xF810, 0x356F], .fcvtWS 5 6),
    ([0xF810, 0x4560], .fexp2 5 6),
    ([0xF810, 0x4561], .flog2 5 6),
    ([0xF810, 0x4562], .frcp 5 6),
    ([0xF810, 0x4563], .frsq 5 6),
    ([0xF810, 0x4564], .fsin 5 6),
    ([0xF810, 0x4565], .fcos 5 6),
    ([0xF810, 0x4566], .ftanh 5 6),
    ([0xF810, 0x4567], .flgst 5 6)] = true := by decide +kernel

theorem test_decode_vector : reads [
    ([0xF822, 0xF624, 0xFC27, 0x0560], .vadd .i32 21 6 9 (.lanes 7 true)),
    ([0xF822, 0xF624, 0xFC27, 0x0561], .vsub .i32 21 6 9 (.lanes 7 true)),
    ([0xF822, 0xF624, 0xFC27, 0x0562], .vmul .i32 21 6 9 (.lanes 7 true)),
    ([0xF822, 0xF624, 0xFC27, 0x0563], .vmin .i32 21 6 9 (.lanes 7 true)),
    ([0xF822, 0xF624, 0xFC27, 0x0564], .vmax .i32 21 6 9 (.lanes 7 true)),
    ([0xF822, 0xF624, 0xFC27, 0x0565], .vand .i32 21 6 9 (.lanes 7 true)),
    ([0xF822, 0xF624, 0xFC27, 0x0566], .vor .i32 21 6 9 (.lanes 7 true)),
    ([0xF822, 0xF624, 0xFC27, 0x0567], .vxor .i32 21 6 9 (.lanes 7 true)),
    ([0xF822, 0xF624, 0xFC27, 0x0568], .vshl .i32 21 6 9 (.lanes 7 true)),
    ([0xF822, 0xF624, 0xFC27, 0x0569], .vshr .i32 21 6 9 (.lanes 7 true)),
    ([0xF822, 0xF624, 0xFC27, 0x056A], .vsra .i32 21 6 9 (.lanes 7 true)),
    ([0xF822, 0xFC27, 0x056B], .vabs .i32 5 6 (.lanes 7 true)),
    ([0xF822, 0xFC27, 0x056C], .vneg .i32 5 6 (.lanes 7 true)),
    ([0xF82C, 0xF624, 0xFC27, 0x056D], .vfma .f32 21 6 9 (.lanes 7 true)),
    ([0xF822, 0xF624, 0xFC27, 0x056E], .vmulh .i32 21 6 9 (.lanes 7 true)),
    ([0xF82C, 0xF624, 0xFC27, 0x056F], .vdiv .f32 21 6 9 (.lanes 7 true)),
    ([0xF822, 0xFC27, 0x1569], .vceq .i32 5 6 9 (.lanes 7 true)),
    ([0xF822, 0xFC27, 0x2569], .vcne .i32 5 6 9 (.lanes 7 true)),
    ([0xF822, 0xFC27, 0x3569], .vclt .i32 5 6 9 (.lanes 7 true)),
    ([0xF822, 0xFC27, 0x4569], .vcle .i32 5 6 9 (.lanes 7 true)),
    ([0xF822, 0xFC27, 0xF008, 0x5560], .vld .i32 5 6 8 (.lanes 7 true)),
    ([0xF822, 0xFC27, 0xF008, 0x5561], .vst .i32 5 6 8 (.lanes 7 true)),
    ([0xF822, 0xF624, 0xFC27, 0xF008, 0x5562], .vlds .i32 21 6 9 8 (.lanes 7 true)),
    ([0xF822, 0xF624, 0xFC27, 0xF008, 0x5563], .vsts .i32 21 6 9 8 (.lanes 7 true)),
    ([0xF822, 0xF624, 0xFC27, 0xF008, 0x5564], .vldx .i32 21 6 9 8 (.lanes 7 true)),
    ([0xF822, 0xF624, 0xFC27, 0xF008, 0x5565], .vstx .i32 21 6 9 8 (.lanes 7 true)),
    ([0xF822, 0xFC27, 0xF008, 0x5566], .vldsr .i32 5 6 8 (.lanes 7 true)),
    ([0xF822, 0xFC27, 0xF008, 0x5567], .vstsr .i32 5 6 8 (.lanes 7 true))] = true := by decide +kernel

theorem test_decode_vector_moves : reads [
    ([0xF822, 0xF624, 0xFC27, 0x6560], .vperm .i32 21 6 9 (.lanes 7 true)),
    ([0xF822, 0xFC27, 0x6561], .vcompress .i32 5 6 (.lanes 7 true)),
    ([0xF822, 0xFC27, 0x6562], .vexpand .i32 5 6 (.lanes 7 true)),
    ([0xF822, 0xF624, 0xFC27, 0x6563], .vslideup .i32 21 6 9 (.lanes 7 true)),
    ([0xF822, 0xF624, 0xFC27, 0x6564], .vslidedn .i32 21 6 9 (.lanes 7 true)),
    ([0xF822, 0xF624, 0xFC07, 0x6565], .vsel .i32 21 6 9 (.lanes 7 false)),
    ([0xF822, 0xFC27, 0x6566], .vbcast .i32 5 6 (.lanes 7 true)),
    ([0xF822, 0xF624, 0xFC27, 0x6567], .vxchg .i32 21 6 9 (.lanes 7 true)),
    ([0xF822, 0xFC27, 0xF003, 0x7560], .vmvxv .i32 5 6 3 (.lanes 7 true)),
    ([0xF822, 0xFC27, 0xF003, 0x7561], .vmvvx .i32 5 6 3 (.lanes 7 true)),
    ([0xF822, 0xFC07, 0x7562], .vredAdd .i32 5 6 (.lanes 7 false)),
    ([0xF822, 0xFC07, 0x7563], .vredMax .i32 5 6 (.lanes 7 false)),
    ([0xF822, 0xFC07, 0x7564], .vredMin .i32 5 6 (.lanes 7 false)),
    ([0xF822, 0xFC27, 0xF00C, 0x7565], .vcvt .i32 .f32 5 6 (.lanes 7 true)),
    ([0xF82C, 0xFC27, 0x8560], .vexp2 .f32 5 6 (.lanes 7 true)),
    ([0xF82C, 0xFC27, 0x8561], .vlog2 .f32 5 6 (.lanes 7 true)),
    ([0xF82C, 0xFC27, 0x8562], .vrcp .f32 5 6 (.lanes 7 true)),
    ([0xF82C, 0xFC27, 0x8563], .vrsq .f32 5 6 (.lanes 7 true)),
    ([0xF82C, 0xFC27, 0x8564], .vtanh .f32 5 6 (.lanes 7 true)),
    ([0xF82C, 0xFC27, 0x8565], .vlgst .f32 5 6 (.lanes 7 true)),
    ([0xF826, 0xFC27, 0x9560], .vrng .n32 5 6 (.lanes 7 true))] = true := by decide +kernel

theorem test_decode_tiles : reads [
    ([0xF830, 0x0539], .tcfg 5 3 9),
    ([0xF830, 0x1539], .tcfgr 5 3 9),
    ([0xF830, 0x2090], .trel 9),
    ([0xF830, 0xF48C, 0xFEA0, 0xF008, 0x3369], .tld 3 6 25 8 ⟨5, .acquire, 0⟩),
    ([0xF831, 0xF48C, 0xFDC0, 0xF008, 0x3369], .tst 3 6 25 8 ⟨3, .release, 0⟩),
    ([0xF832, 0xF48C, 0xFEA0, 0xF008, 0x3369], .tldt 3 6 25 8 ⟨5, .acquire, 0⟩),
    ([0xF833, 0xF51C, 0xFEA0, 0xF008, 0x3369], .tldm 3 22 9 7 8 ⟨5, .acquire, 0⟩),
    ([0xF830, 0xFC27, 0x4369], .tmvVr 3 6 9 (.lanes 7 true)),
    ([0xF830, 0xFC27, 0x5369], .tmvRv 3 6 9 (.lanes 7 true)),
    ([0xF830, 0xFC27, 0x6369], .tmvVc 3 6 9 (.lanes 7 true)),
    ([0xF830, 0xFC27, 0x7369], .tmvCv 3 6 9 (.lanes 7 true)),
    ([0xF830, 0x8500], .tzero 5),
    ([0xF831, 0x8560], .tcomp24 5 6),
    ([0xF833, 0x8560], .tcomp48 5 6),
    ([0xF830, 0x9563], .ocmpEq 5 6 3),
    ([0xF831, 0x9563], .ocmpNe 5 6 3),
    ([0xF832, 0x9563], .ocmpLt 5 6 3),
    ([0xF833, 0x9563], .ocmpLe 5 6 3),
    ([0xF834, 0x9563], .ocmpGt 5 6 3),
    ([0xF835, 0x9563], .ocmpGe 5 6 3),
    ([0xF836, 0x9563], .ocmpUnord 5 6 3),
    ([0xF837, 0x9563], .ocmpOrd 5 6 3),
    ([0xF838, 0x9563], .ocmpTeq 5 6 3),
    ([0xF839, 0x9563], .ocmpTlt 5 6 3),
    ([0xF83A, 0x9563], .ocmpTle 5 6 3),
    ([0xF83B, 0x9563], .ocmpTltx 5 6 3),
    ([0xF83C, 0x9563], .ocmpTgtx 5 6 3)] = true := by decide +kernel

theorem test_decode_bit_tiles : reads [
    ([0xF830, 0xA563], .btAnd 5 6 3),
    ([0xF831, 0xA563], .btOr 5 6 3),
    ([0xF832, 0xA563], .btXor 5 6 3),
    ([0xF833, 0xA563], .btAndn 5 6 3),
    ([0xF834, 0xA563], .btComp 5 6 3),
    ([0xF830, 0xB560], .btNot 5 6),
    ([0xF831, 0xB560], .btTr 5 6),
    ([0xF832, 0xB560], .btClos 5 6),
    ([0xF833, 0xB560], .btClosr 5 6),
    ([0xF834, 0xB500], .btId 5),
    ([0xF835, 0xB500], .btZero 5),
    ([0xF830, 0xC560], .btPopr 5 6),
    ([0xF831, 0xC560], .btPopc 5 6),
    ([0xF832, 0xC560], .btMvbv 5 6),
    ([0xF833, 0xC560], .btMvvb 5 6),
    ([0xF834, 0xFEA0, 0xF008, 0xC360], .btLd 3 6 8 ⟨5, .acquire, 0⟩),
    ([0xF835, 0xFDC0, 0xF008, 0xC360], .btSt 3 6 8 ⟨3, .release, 0⟩),
    ([0xF830, 0xF008, 0xD960], .tsv 9 6 8),
    ([0xF831, 0xF008, 0xD960], .trs 9 6 8)] = true := by decide +kernel

theorem test_decode_matrix : reads [
    ([0xF840, 0xF420, 0x0123], .mmaE4e4 1 2 3 8),
    ([0xF841, 0xF420, 0x0123], .mmaE4e5 1 2 3 8),
    ([0xF842, 0xF420, 0x0123], .mmaE5e4 1 2 3 8),
    ([0xF843, 0xF420, 0x0123], .mmaE5e5 1 2 3 8),
    ([0xF844, 0x0123], .mmaBfbf 1 2 3),
    ([0xF845, 0x0123], .mmaHfhf 1 2 3),
    ([0xF846, 0x0123], .mmaF32 1 2 3),
    ([0xF847, 0xF420, 0x0123], .mmaI8i8 1 2 3 8),
    ([0xF848, 0xF420, 0x0123], .mmaI8n8 1 2 3 8),
    ([0xF849, 0xF40C, 0x0923], .mmaCbcb 1 2 3 2 3),
    ([0xF84A, 0x0924], .mmaCbe4 1 2 4 2),
    ([0xF84B, 0x0924], .mmaCbbf 1 2 4 2),
    ([0xF84C, 0xF420, 0x0123], .mmaMx8 1 2 3 8),
    ([0xF84D, 0xF420, 0x0123], .mmaMx6 1 2 3 8),
    ([0xF84E, 0xF420, 0x0123], .mmaMx4 1 2 3 8),
    ([0xF84F, 0xF420, 0x0123], .mmaMxi8 1 2 3 8),
    ([0xF840, 0xF420, 0x1126], .smmaE4e4 1 2 6 8),
    ([0xF841, 0x1126], .smmaBfbf 1 2 6),
    ([0xF842, 0xF420, 0x1126], .smmaI8i8 1 2 6 8),
    ([0xF843, 0xF40C, 0x1926], .smmaCbcb 1 2 6 2 3),
    ([0xF840, 0x2100], .mzero 1),
    ([0xF841, 0x231A], .mdrain .bf 3 1),
    ([0xF842, 0xF420, 0x2395], .mdraint 2 3 1 5 8),
    ([0xF843, 0x2160], .mcb 1 6),
    ([0xF844, 0x2000], .msync),
    ([0xF845, 0x2500], .mqs 5),
    ([0xF846, 0x2500], .mpush 5),
    ([0xF840, 0xF420, 0x3320], .mdrainMx 3 2 8)] = true := by decide +kernel

theorem test_decode_synchronisation : reads [
    ([0xF851, 0xF41C, 0xFEE0, 0xF008, 0x0560], .amoadd true 5 6 7 8 ⟨5, .acqRel, 0⟩),
    ([0xF851, 0xF41C, 0xFEE0, 0xF008, 0x0561], .amoswap true 5 6 7 8 ⟨5, .acqRel, 0⟩),
    ([0xF851, 0xF41C, 0xFEE0, 0xF008, 0x0562], .amocas true 5 6 7 8 ⟨5, .acqRel, 0⟩),
    ([0xF851, 0xF41C, 0xFEE0, 0xF008, 0x0563], .amoand true 5 6 7 8 ⟨5, .acqRel, 0⟩),
    ([0xF851, 0xF41C, 0xFEE0, 0xF008, 0x0564], .amoor true 5 6 7 8 ⟨5, .acqRel, 0⟩),
    ([0xF851, 0xF41C, 0xFEE0, 0xF008, 0x0565], .amoxor true 5 6 7 8 ⟨5, .acqRel, 0⟩),
    ([0xF851, 0xF41C, 0xFEE0, 0xF008, 0x0566], .amomin true 5 6 7 8 ⟨5, .acqRel, 0⟩),
    ([0xF851, 0xF41C, 0xFEE0, 0xF008, 0x0567], .amomax true 5 6 7 8 ⟨5, .acqRel, 0⟩),
    ([0xF851, 0xF41C, 0xFEE0, 0xF008, 0x0568], .amominu true 5 6 7 8 ⟨5, .acqRel, 0⟩),
    ([0xF851, 0xF41C, 0xFEE0, 0xF008, 0x0569], .amomaxu true 5 6 7 8 ⟨5, .acqRel, 0⟩),
    ([0xF851, 0xF41C, 0xFEE0, 0xF008, 0x056A], .amofadd true 5 6 7 8 ⟨5, .acqRel, 0⟩),
    ([0xF850, 0xFEA0, 0xF008, 0x1563], .wait 5 6 3 8 ⟨5, .acquire, 0⟩),
    ([0xF850, 0x2500], .barArr 5),
    ([0xF850, 0x2501], .barWait 5),
    ([0xF850, 0x2502], .barSync 5),
    ([0xF850, 0x2563], .barCfg 5 6),
    ([0xF850, 0x3000], .wbarRow),
    ([0xF850, 0x3001], .wbarCol),
    ([0xF850, 0x3002], .wbarRc),
    ([0xF850, 0x4560], .send 5 6),
    ([0xF850, 0x4561], .recv 5 6),
    ([0xF850, 0x4562], .sendv 5 6),
    ([0xF850, 0x4563], .recvv 5 6),
    ([0xF850, 0xF41C, 0x4564], .recvt 5 6 7),
    ([0xF850, 0x5560], .qw 5 6),
    ([0xF850, 0x5561], .qr 5 6),
    ([0xF850, 0xF41C, 0x5562], .qtr 5 6 7),
    ([0xF850, 0xFEE0, 0xF008, 0x6560], .sqenq 5 6 8 ⟨5, .acqRel, 0⟩),
    ([0xF850, 0xFEE0, 0xF008, 0x6561], .sqdeq 5 6 8 ⟨5, .acqRel, 0⟩)] = true := by decide +kernel

theorem test_decode_regions_and_engines : reads [
    ([0xF850, 0x7000], .propBegin),
    ([0xF850, 0x7561], .propEnd 5 6),
    ([0xF850, 0x7002], .propPass),
    ([0xF850, 0x7003], .propSerial),
    ([0xF850, 0x7504], .propStat 5),
    ([0xF850, 0x8560], .rng 5 6),
    ([0xF850, 0x9000], .sstep),
    ([0xF850, 0xA560], .troupeJoin 5 6),
    ([0xF850, 0xA001], .troupeSplit),
    ([0xF860, 0x0560], .ceW 5 6),
    ([0xF860, 0x0561], .ceArm 5 6),
    ([0xF860, 0x0502], .ceStat 5),
    ([0xF860, 0x0003], .ceStop),
    ([0xF860, 0x1560], .launch 5 6),
    ([0xF860, 0x1561], .shape 5 6),
    ([0xF860, 0x1002], .pieceEnd)] = true := by decide +kernel

/-- The illegal chains of R92's table, a reserved field of each prefix, and a legal base parcel that a branch reaches. -/
theorem test_decode_illegal :
    [[0xF006, 0xF006, 0xF006, 0x2504], [0xF414, 0xF414, 0x0670], [0xF82F, 0x0340], [0xFDC0, 0x0560], [0xF80C, 0x0560],
      [0xF415, 0x0670], [0xF840, 0xF420, 0xF006, 0xF006, 0xF006, 0x0123], [0xFFFF]].all
      (fun ps => (decodeParcels ps).isNone) = true ∧
    decodeParcels [0x0340] = some (.add 3 4 3, 1) := by decide +kernel

/-- The words of the opcode table are little-endian in the first parcel up: `ld x5, [x6 + 8]`. -/
theorem test_decodeTableWord : decodeTableWord 32 0x3566F008 = some (.ld 5 6 8 MemMod.none) := by decide +kernel


/-- The parcels printed beside source forms in the spec (R92, and the examples of the instruction rules), part 1. -/
theorem test_decode_examples_1 : reads [
    ([0x0000], .nop), ([0x0560], .add 5 6 5), ([0xF414, 0x0670], .add 6 7 5), ([0xF644, 0x0130], .add 17 3 17),
    ([0x250F], .addi 5 5 (-1)), ([0xF006, 0x2504], .addi 5 5 100), ([0xF3F9, 0x250C], .addi 5 5 (-100)),
    ([0xF048, 0xF345, 0x29A6], .li 9 1193046), ([0xF008, 0x3566], .ld 5 6 8 MemMod.none),
    ([0xFDC0, 0xF008, 0x4563], .sd 5 6 8 ⟨3, .release, 0⟩), ([0xF82C, 0xFC27, 0x0340], .vadd .f32 3 4 3 (.lanes 7 true)),
    ([0xF83C, 0x9201], .ocmpTgtx 2 0 1), ([0xF840, 0xF420, 0x0123], .mmaE4e4 1 2 3 8), ([0x65FA], .bnz 5 (-6)),
    ([0xF3FE, 0x65D4], .bnz 5 (-300)), ([0xC502], .csrr 5 2), ([0xF100, 0xC500], .csrr 5 4096), ([0xD503], .fence 3),
    ([0xF844, 0x2000], .msync), ([0xF830, 0x4011], .tmvVr 0 1 1 .all), ([0xF841, 0x241A], .mdrain .bf 4 1),
    ([0xF834, 0xF514, 0xFDA0, 0xF040, 0xC540], .btLd 5 20 64 ⟨3, .acquire, 0⟩), ([0xF83C, 0x9000], .ocmpTgtx 0 0 0),
    ([0xF831, 0xC200], .btPopc 2 0), ([0xF830, 0xC600], .btPopr 6 0), ([0xF833, 0xC340], .btMvvb 3 4),
    ([0xF830, 0x9112], .ocmpEq 1 1 2), ([0xF831, 0xB210], .btTr 2 1), ([0xF834, 0xA423], .btComp 4 2 3),
    ([0xF832, 0xC840], .btMvbv 8 4), ([0xF850, 0x3002], .wbarRc), ([0xF850, 0xF010, 0x18A0], .wait 8 10 0 16 MemMod.none),
    ([0xF850, 0xF41C, 0x4564], .recvt 5 6 7), ([0xF850, 0xFEA0, 0x6561], .sqdeq 5 6 0 ⟨5, .acquire, 0⟩),
    ([0xF850, 0x7000], .propBegin), ([0xF850, 0x7002], .propPass), ([0xF850, 0x7003], .propSerial),
    ([0xF850, 0x7731], .propEnd 7 3), ([0xF850, 0xF644, 0x7131], .propEnd 17 3), ([0xF850, 0x9000], .sstep),
    ([0xF850, 0x85A0], .rng 5 10), ([0xF850, 0xF644, 0x81A0], .rng 17 10), ([0xF826, 0x90A0], .vrng .n32 0 10 .all),
    ([0xF826, 0xFC34, 0x92A0], .vrng .n32 2 10 (.lanes 20 true)), ([0xF860, 0x1002], .pieceEnd), ([0xD200], .yield),
    ([0xF860, 0x1560], .launch 5 6), ([0xF860, 0x1781], .shape 7 8), ([0xF650, 0x2508], .addi 21 20 (-8)),
    ([0xF850, 0xF41C, 0xFEE0, 0x0560], .amoadd false 5 6 7 0 ⟨5, .acqRel, 0⟩),
    ([0xF851, 0xF424, 0xF010, 0x0562], .amocas true 5 6 9 16 MemMod.none),
    ([0xF850, 0xF400, 0xFDA0, 0x02B0], .amoadd false 2 11 0 0 ⟨3, .acquire, 0⟩)] = true := by decide +kernel

/-- The parcels printed beside source forms in the spec (R92, and the examples of the instruction rules), part 2. -/
theorem test_decode_examples_2 : reads [
    ([0x0562], .and 5 6 5), ([0xF00F, 0x251F], .andi 5 5 255), ([0xF3FF, 0x2510], .andi 5 5 (-16)),
    ([0xF3FC, 0x7560], .beq 5 6 (-4)), ([0xF000, 0xF3E8, 0x7565], .bgeu 5 6 1000), ([0xD405], .brk 5),
    ([0xF001, 0xD42C], .brk 300), ([0xF654, 0x550C], .bz 21 12), ([0xF860, 0x0003], .ceStop), ([0xF860, 0x0780], .ceW 7 8),
    ([0xF860, 0x0501], .ceArm 5 0), ([0x156A], .clz 5 6), ([0x156C], .popc 5 6), ([0xF414, 0x1678], .cselZ 6 7 5),
    ([0xF001, 0xC605], .csrr 6 21), ([0xF654, 0xF100, 0xC511], .csrw 21 4097), ([0xF414, 0xC640], .csrx 6 5 0),
    ([0x056B], .div 5 6 5), ([0xF414, 0x067E], .remu 6 7 5), ([0xF810, 0x0560], .faddS 5 6 5),
    ([0xF810, 0xF41C, 0x0567], .fmaS 5 6 7), ([0xF810, 0xF650, 0x1436], .fsqrtD 20 3), ([0xF810, 0x2566], .fclassS 5 6),
    ([0xF810, 0x3332], .fcvtSL 3 3), ([0xD600], .fenceI), ([0xD507], .fence 7), ([0xF810, 0x4320], .fexp2 3 2),
    ([0xD300], .halt), ([0xD700], .idle), ([0x8128], .jal 1 40), ([0xF3FF, 0x8038], .jal 0 (-200)), ([0x9010], .jalr 0 1 0),
    ([0x9154], .jalr 1 5 4), ([0xEA64], .la 10 100), ([0xF010, 0xEA00], .la 10 4096),
    ([0xF3FC, 0x3564], .lw 5 6 (-4) MemMod.none), ([0xFDA0, 0x32B6], .ld 2 11 0 ⟨3, .acquire, 0⟩),
    ([0xF644, 0xF000, 0xF3E8, 0x3131], .lbu 17 3 1000 MemMod.none), ([0xF012, 0x25A3], .li 5 291),
    ([0xF115, 0xF278, 0x25B9], .lsi 5 5 4548489), ([0xF2AF, 0xF0DE, 0x25BF], .lsi 5 5 11259375), ([0xB720], .loop 7 2),
    ([0xF843, 0x2160], .mcb 1 6), ([0xF842, 0xF420, 0x2203], .mdraint 0 2 0 3 8), ([0x1564], .min 5 6 5),
    ([0xF414, 0x1677], .maxu 6 7 5), ([0x25DD], .mini 5 5 (-3)), ([0xF006, 0x25E4], .maxi 5 5 100),
    ([0xF844, 0x0012], .mmaBfbf 0 1 2), ([0xF84A, 0x0012], .mmaCbe4 0 1 2 0), ([0xF849, 0xF40C, 0x0645], .mmaCbcb 2 4 5 1 3),
    ([0xF84C, 0xF410, 0x0001], .mmaMx8 0 0 1 4)] = true := by decide +kernel

/-- The parcels printed beside source forms in the spec (R92, and the examples of the instruction rules), part 3. -/
theorem test_decode_examples_3 : reads [
    ([0xF418, 0x25F1], .mort3 5 6 1), ([0xF846, 0x2200], .mpush 2), ([0xF845, 0x2500], .mqs 5), ([0x0568], .mul 5 6 5),
    ([0xF414, 0x0679], .mulh 6 7 5), ([0xF000, 0x259A], .muli 5 5 10), ([0xF840, 0x2200], .mzero 2), ([0x0563], .or 5 6 5),
    ([0xF010, 0x2520], .ori 5 5 256), ([0xF850, 0x5521], .qr 5 2), ([0xF850, 0xF424, 0x5532], .qtr 5 3 9),
    ([0xF850, 0x4561], .recv 5 6), ([0xF850, 0x4463], .recvv 4 6), ([0xB721], .rep 7 2 1), ([0xB912], .rep 9 1 2),
    ([0xF82C, 0xF500, 0x0000], .vadd .f32 0 16 0 .all), ([0xD100], .rti), ([0xD800], .safe 0),
    ([0xF003, 0xD8E8], .safe 1000), ([0x4560], .sb 5 6 0 MemMod.none), ([0xF644, 0xF3FC, 0x4132], .sw 17 3 (-4) MemMod.none),
    ([0x41C4], .sdf 1 12 0 MemMod.none), ([0x40C5], .sfe 12 0 MemMod.none), ([0xF850, 0x4560], .send 5 6),
    ([0xF850, 0x4262], .sendv 2 6), ([0xF414, 0x1670], .slt 6 7 5), ([0x25C3], .seqi 5 5 3), ([0x156E], .sextW 5 6),
    ([0x156F], .zextW 5 6), ([0xA503], .skipZ 5 3), ([0xA931], .skipGe 9 1), ([0x0565], .sll 5 6 5),
    ([0xF414, 0x0677], .sra 6 7 5), ([0x2543], .slli 5 5 3), ([0xF002, 0x2568], .srai 5 5 40),
    ([0xF840, 0x1024], .smmaE4e4 0 2 4 0), ([0xF841, 0x1102], .smmaBfbf 1 0 2),
    ([0xF842, 0xF430, 0x1246], .smmaI8i8 2 4 6 12), ([0xF843, 0xF408, 0x1102], .smmaCbcb 1 0 2 0 2),
    ([0xF850, 0xFEC0, 0xF020, 0x6560], .sqenq 5 6 32 ⟨5, .release, 0⟩), ([0x0561], .sub 5 6 5),
    ([0xF404, 0x00C1], .sub 0 12 1), ([0xF830, 0x0908], .tcfg 9 0 8), ([0xF830, 0x1918], .tcfgr 9 1 8),
    ([0xF831, 0x8100], .tcomp24 1 0), ([0xF830, 0x3150], .tld 1 5 0 0 MemMod.none),
    ([0xF831, 0xFDC0, 0xF040, 0x3360], .tst 3 6 0 64 ⟨3, .release, 0⟩),
    ([0xF833, 0xF41C, 0x3050], .tldm 0 5 0 7 0 MemMod.none), ([0xF830, 0x5000], .tmvRv 0 0 0 .all),
    ([0xF830, 0x7004], .tmvCv 0 0 4 .all), ([0xF830, 0xFC27, 0x4000], .tmvVr 0 0 0 (.lanes 7 true)), ([0xD007], .trap 7)] = true := by decide +kernel

/-- The parcels printed beside source forms in the spec (R92, and the examples of the instruction rules), part 4. -/
theorem test_decode_examples_4 : reads [
    ([0xF003, 0xD0E8], .trap 1000), ([0xF830, 0x2030], .trel 3), ([0xF830, 0x2090], .trel 9),
    ([0xF850, 0xA001], .troupeSplit), ([0xF850, 0xA560], .troupeJoin 5 6), ([0xF830, 0xF500, 0xD060], .tsv 0 22 0),
    ([0xF831, 0xD950], .trs 9 5 0), ([0xF830, 0x8200], .tzero 2), ([0xF82C, 0x012B], .vabs .f32 1 2 .all),
    ([0xF82C, 0x0340], .vadd .f32 3 4 3 .all), ([0xF823, 0x0125], .vand .i64 1 2 1 .all),
    ([0xF821, 0x6AA6], .vbcast .i16 10 10 .all), ([0xF821, 0xF654, 0x1565], .vceq .i16 21 6 5 .all),
    ([0xF821, 0x3BA6], .vclt .i16 11 10 6 .all), ([0xF822, 0xFC07, 0x6341], .vcompress .i32 3 4 (.lanes 7 false)),
    ([0xF822, 0xFC07, 0x6532], .vexpand .i32 5 3 (.lanes 7 false)), ([0xF82C, 0xF00A, 0x7205], .vcvt .f32 .bf 2 0 .all),
    ([0xF82D, 0x012F], .vdiv .f64 1 2 1 .all), ([0xF82C, 0x8120], .vexp2 .f32 1 2 .all),
    ([0xF82A, 0x8125], .vlgst .bf 1 2 .all), ([0xF82C, 0xF40C, 0x012D], .vfma .f32 1 2 3 .all),
    ([0xF82C, 0x5060], .vld .f32 0 6 0 .all), ([0xF82C, 0xFC23, 0xF020, 0x5060], .vld .f32 0 6 32 (.lanes 3 true)),
    ([0xF821, 0xF040, 0x5861], .vst .i16 8 6 64 .all), ([0xF82C, 0xF424, 0x5252], .vlds .f32 2 5 9 0 .all),
    ([0xF822, 0xF41C, 0x5254], .vldx .i32 2 5 7 0 .all), ([0xF82C, 0xF010, 0x5066], .vldsr .f32 0 6 16 .all),
    ([0xF824, 0x0124], .vmax .n8 1 2 1 .all), ([0xF821, 0x0123], .vmin .i16 1 2 1 .all),
    ([0xF82A, 0x0122], .vmul .bf 1 2 1 .all), ([0xF821, 0x012E], .vmulh .i16 1 2 1 .all),
    ([0xF822, 0xF003, 0x7520], .vmvxv .i32 5 2 3 .all), ([0xF82C, 0xF007, 0x7251], .vmvvx .f32 2 5 7 .all),
    ([0xF82B, 0x012C], .vneg .hf 1 2 .all), ([0xF822, 0x0126], .vor .i32 1 2 1 .all),
    ([0xF822, 0xF414, 0x6340], .vperm .i32 3 4 5 .all), ([0xF82C, 0x7522], .vredAdd .f32 5 2 .all),
    ([0xF82C, 0xF40C, 0xFC07, 0x6125], .vsel .f32 1 2 3 (.lanes 7 false)), ([0xF822, 0x0128], .vshl .i32 1 2 1 .all),
    ([0xF825, 0x0129], .vshr .n16 1 2 1 .all), ([0xF821, 0xF424, 0x6124], .vslidedn .i16 1 2 9 .all),
    ([0xF820, 0x012A], .vsra .i8 1 2 1 .all), ([0xF822, 0xF414, 0x0671], .vsub .i32 6 7 5 .all),
    ([0xF822, 0xF420, 0x6127], .vxchg .i32 1 2 8 .all), ([0xF827, 0x0127], .vxor .n64 1 2 1 .all),
    ([0xF850, 0xFCA0, 0x10C1], .wait 0 12 1 0 ⟨1, .acquire, 0⟩), ([0x0874], .xor 8 7 8), ([0x2731], .xori 7 7 1),
    ([0x253F], .xori 5 5 (-1))] = true := by decide +kernel

/-! ## States that meet the hypotheses of the statements

`one` is a strand in U on core 0, slot 0, alone in its launch, at code that its device maps onto itself; the other states are
it with something changed. A witness theorem lists, for each case of its statement, the case's hypotheses on such a state, at the ends
of the range where the case has one. -/

def one : State := State.reset.placeCode [0]
def me0 : Sid := ⟨0, 0⟩
/-- The rank of the strand of `one`, and that of another strand of its launch. -/
def rank0 : Rank := ⟨1, 0, 0⟩
def rank1 : Rank := ⟨1, 0, 1⟩
/-- `one` with a second core, that holds no strand. -/
def two : State := { one with cores := setK 1 { Core.reset with order := [] } one.cores }
def withX (r : XReg) (w : Word) : State := one.setX r w
def inMode (s : State) (m : Mode) : State := s.withStrand fun p => { p with mode := m }
def withCsr (f : Csrs → Csrs) : State := one.modCsr f
def withSync (s : State) (f : Sync → Sync) : State := s.withStrand fun p => { p with sync := f p.sync }
def stepped (s : State) : State := { s with launches := s.launches.map fun l => { l with lrec := { l.lrec with step := true } } }
def framed (s : State) : State := s.withStrand fun p => p.setFrame p.mode ⟨true, false, 5, 0, 0, p.pc, p.pc + 2⟩
def inRegion (s : State) : State := s.modCsr fun c => { c with rgs := 1 }
/-- A piece of `w` members on cores 0 to w − 1, slot 0, each changed by `f`. -/
def team (w : Nat) (f : Nat → Strand → Strand) : State :=
  let p : Strand := { one.strand with ident := { one.strand.ident with width := w } }
  { one with
    strands := (List.range w).map fun i => (4 * i, f i { p with ident := { p.ident with member := i, rank := i } })
    cores := (List.range w).map fun i => (i, { one.core with order := [0] })
    launches := one.launches.map fun l => { l with
      pieces := [⟨0, 0, .running, (List.range w).map fun i => ⟨i, 0⟩, (List.range w).map fun _ => 0, []⟩] } }

/-- An access, or a check, goes on with a value and a state that meet `p`. -/
def brings (e : Eff α) (p : α → State → Bool) : Bool := match e with | .ok a t => p a t | _ => false
def stops (e : Eff α) : Bool := match e with | .trap .. => true | _ => false
/-- The same of a place of memory. -/
def bringsLoc (e : Eff Machine.Place) (p : Loc → State → Bool) : Bool := match e with | .ok (.glob l) t => p l t | _ => false
def gets (e : Except ε α) (p : α → Bool) : Bool := match e with | .ok a => p a | _ => false
def canonical (s : State) : Bool := s.mem.wf && s.host.mem.wf && s.cores.all fun p => p.2.lm.wf

theorem brings_some {e : Eff α} {p : α → State → Bool} (h : brings e p = true) : ∃ a t, e = .ok a t ∧ p a t = true := by
  cases e with
  | ok a t => exact ⟨a, t, rfl, h⟩
  | trap => cases h
  | hold => cases h

theorem stops_some {e : Eff α} (h : stops e = true) : ∃ c v f, e = .trap c v f := by
  cases e with
  | ok => cases h
  | trap c v f => exact ⟨c, v, f, rfl⟩
  | hold => cases h

theorem bringsLoc_some {e : Eff Machine.Place} {p : Loc → State → Bool} (h : bringsLoc e p = true) :
    ∃ l t, e = .ok (.glob l) t ∧ p l t = true := by
  unfold bringsLoc at h
  split at h
  · exact ⟨_, _, rfl, h⟩
  · cases h

theorem canonical_iff (s : State) : canonical s = true ↔ Canonical s := by
  simp [canonical, Canonical, and_assoc]

theorem witness_DivisionForms :
    let s := (withX 5 (BitVec.intMin 64)).setX 6 (BitVec.allOnes 64)
    one.x 6 = 0 ∧ (s.x 5 = BitVec.intMin 64 ∧ s.x 6 = BitVec.allOnes 64) ∧
    ((withX 6 (-7)).x 6 ≠ 0 ∧ ¬ ((withX 6 (-7)).x 5 = BitVec.intMin 64 ∧ (withX 6 (-7)).x 6 = BitVec.allOnes 64)) ∧
    (withX 6 3).x 6 ≠ 0 := by decide +kernel

theorem witness_BitCountingForms :
    (withX 6 0x0000_0000_00F0_0100).x 6 = 0x0000_0000_00F0_0100 ∧ (0 : BitVec 5).toNat ≤ 20 ∧ (20 : BitVec 5).toNat ≤ 20 := by
  decide +kernel

theorem witness_SextAndZext : (withX 6 0x0000_0000_8000_0001).x 6 = 0x0000_0000_8000_0001 := by decide +kernel

/-- The strand at the last parcel of its mapped code. -/
def atEdge : State := one.withStrand fun p => { p with pc := 0x3_FFFF_FFFE }

theorem witness_SkipAndLoopForms :
    (one.x 5 = 0 ∧ brings (spanFrom one one.after [] 1) (fun _ _ => true) = true ∧
      brings (spanFrom one one.after [] 15) (fun _ _ => true) = true ∧ stops (spanFrom atEdge (atEdge.pcf + 2) [] 15) = true) ∧
    (withX 5 1).x 5 ≠ 0 ∧ (withX 5 (-1)).x 5 ≠ 0 ∧ ((withX 5 (-1)).x 5).toInt < 0 ∧ ¬ (one.x 5).toInt < 0 ∧
    ((framed one).strand.frame (framed one).strand.mode).act = true ∧ (one.strand.frame one.strand.mode).act = false ∧
    brings (one.repBody one.after [] 1) (fun _ _ => true) = true ∧
    brings ((withX 5 3).repBody (withX 5 3).after [] 8) (fun _ _ => true) = true := by decide +kernel

theorem witness_CsrForms :
    (csrRead one 0 = some 0 ∧ 0 / 4096 ≤ one.strand.mode.code ∧ one.computePhase = false ∧ csrRo one.strand.mode 0 = false) ∧
    ((csrRead one 2).isSome = true ∧ csrRo one.strand.mode 2 = true) ∧
    (let s := inMode one .M
     (csrRead s 0x2001).isSome = true ∧ 0x2001 / 4096 ≤ s.strand.mode.code ∧ s.computePhase = false ∧
      csrRo s.strand.mode 0x2001 = false) ∧
    (one.strand.mode.code < 0x1000 / 4096 ∧ csrRead one 0x3FFF = none ∧ (inMode one .S).strand.mode.code < 0x2000 / 4096) := by
  decide +kernel

theorem witness_CsrValues :
    (csrRead one 0x1004).isSome = true ∧ (4 : Word).toNat % 8 ≤ 4 ∧ (0 : Word).toNat % 8 ≤ 4 ∧ rgsState 4 ≤ 4 ∧ 0xFFF < 0x1000 := by
  decide +kernel

/-- The strand in a handler, with a status of that mode. -/
def inHandler (m : Mode) (status : Word) : State := (inMode one m).withStrand fun p => { p with
  sBank := { p.sBank with status := status, epc := 0x1234 }, mBank := { p.mBank with status := status, epc := 0x1234 } }

theorem witness_ReturnFromTrap :
    one.strand.mode = .U ∧
    (∀ m ∈ [Mode.U, .S], let s := inHandler .S (BitVec.ofNat 64 (4 * m.code))
      s.strand.mode = .S ∧ field s.strand.sBank.status 2 1 = m.code) ∧
    (∀ m ∈ [Mode.U, .S, .M], let s := inHandler .M (BitVec.ofNat 64 (4 * m.code))
      s.strand.mode = .M ∧ field s.strand.mBank.status 2 2 = m.code) ∧
    (let s := (inHandler .S 0).withStrand fun p => { p with region := { p.region with opened := true }, preq := some ⟨false, 3, false⟩ }
     s.strand.mode = .S ∧ field s.strand.sBank.status 2 1 = Mode.U.code ∧ s.strand.region.opened = true ∧ s.strand.preq.isSome = true) ∧
    ((inHandler .M 12).strand.mode = .M ∧ field (inHandler .M 12).strand.mBank.status 2 2 = 3) := by decide +kernel

/-- The strand with a pre-emption request. -/
def asked : State := one.withStrand fun p => { p with preq := some ⟨false, 3, false⟩ }

theorem witness_SystemForms :
    one.strand.inRegion = false ∧
    (∀ sc ∈ [0, 5, 7], brings (one.fenceAt sc) (fun _ _ => true) = true) ∧
    brings (((one.drainW one.me.core fun l => l.who == one.me.slot).writeBackAll one.me.core).releaseAction 3) (fun _ _ => true) = true ∧
    (one.strand.causes = [] ∧ one.strand.sPend = [] ∧ one.strand.preq = none ∧ (one.leads && one.troupeAsked) = false) ∧
    (asked.strand.inRegion = false ∧ asked.strand.preq.isSome = true ∧ asked.strand.mode = .U ∧ asked.stepMode = false ∧
      asked.strand.troupe.size = 0 ∧ asked.strand.causes = []) ∧
    ((inMode asked .S).strand.mode ≠ .U ∧ (stepped asked).stepMode = true) := by decide +kernel

/-- LM at 0x100 is the strand's own; `glob` stands for a mapped address of memory, `last` for the last word of the LM. -/
def glob : Word := 0x1_0000_4000
def rel : MemMod := ⟨5, .release, 0⟩

theorem witness_LoadsAndStores :
    ([(0x100 : Word), 0xFFF8, glob].all fun va => [1, 2, 4, 8].all fun n => !isWindow va &&
      brings ((withX 6 va).loadAt va n MemMod.none) (fun bs _ => bs.length = n) &&
      brings ((withX 6 va).storeAt va (bytesOfNat n 5) rel) (fun _ _ => true)) = true ∧
    ([(0x101 : Word), 0xFFFF, 0x200_2001, glob + 1].all fun va => !one.regionPage va && va.toNat % 2 != 0) = true ∧
    ([(0x102 : Word), glob + 2].all fun va => !one.regionPage va && va.toNat % 4 != 0) = true ∧
    ([(0x104 : Word), glob + 4].all fun va => !one.regionPage va && va.toNat % 8 != 0) = true := by
  decide +kernel

/-- The strand in a mode of the handlers, in slot 0 of a core with one held record of slot 3. -/
def windowed (m : Mode) : State := (inMode one m).withCore fun c => { c with matrix := { c.matrix with held := vsetN c.matrix.held 3 [77] } }

theorem witness_LoadsAndStores_window :
    ([Mode.S, .M].all fun m => let s := windowed m
      ([0x100, 0x118, 0x1000, 0x1FF8, 0x2000, 0x2050, 0x20C8, 0x3000, 0x3100, 0x31F8].all fun off =>
        (State.imageAt m off).any fun im => brings (s.acquireAfter MemMod.none) (fun _ _ => true) &&
          brings (s.releaseFirst MemMod.none) fun _ t => brings (t.setImage im 5) fun _ _ => true) &&
      [0xF8, 0x120, 0x2100, 0x3008, 0x3280].all fun off => (State.imageAt m off).isNone) = true ∧
    ((State.imageAt .S 0x3200).isNone && (State.imageAt .M 0x3200).isSome && (State.imageAt .U 0x100).isNone) = true ∧
    ((windowed .S).strand.mode ≠ .U ∧ (windowed .M).strand.mode = .M ∧
      (vgetN (windowed .S).core.matrix.held 3)[(7 : Nat) / 8]? = some 77 ∧ (vgetN (windowed .S).core.matrix.held 3).length ≤ 8 / 8 ∧
      (withX 6 0x200_1C00).x 6 = 0x200_1C00) := by decide +kernel

/-- Two of the window's images as a load and a store see them (R75, R381): a record's second word, and a frame's first. -/
theorem test_window_images :
    (let s := ((windowed .S).setX 6 0x200_1C08).setX 7 0x200_3100
     (match exec (.sd 6 6 0 MemMod.none) s with
      | .next t => vgetN t.core.matrix.held 3 == [77 + (0x200_1C08 <<< 64 : Rec512)] | _ => false) &&
     (match exec (.ld 5 7 0 MemMod.none) (s.withStrand fun p => p.setFrame .U ⟨true, false, 5, 3, 2, 0, 0⟩) with
      | .next t => t.x 5 == 1 + 4 * 5 + 128 * 3 + 2048 * 2 | _ => false)) = true := by decide +kernel

theorem witness_OwnLmAccesses :
    ∀ off ∈ [0, 0x100, 0xFFF8], ∀ s ∈ [withX 6 (BitVec.ofNat 64 off), stepped (withX 6 (BitVec.ofNat 64 off))],
      Memory.wf s.mem = true ∧ canonical s = true ∧ (s.x 6 + BitVec.ofInt 64 (0 : BitVec 20).toInt).toNat = off ∧ off < 65536 ∧
      MemMod.none.order = .plain ∧ (∀ w, s.blockedBy (.lm s.me.core (off / 8 * 8)) w = false) ∧ off % 8 = 0 ∧
      (s.computePhase = false ∨ (s.strand.ident.lmBase ≤ off ∧ off + 8 ≤ s.strand.ident.lmBase + s.strand.ident.lmSize)) := by
  decide +kernel

/-- The strand whose device maps the code and data with pages of a type: 0 N, 1 W, 2 D, 3 S. -/
def paged (ty : Nat) : State := { withX 6 glob with mem := one.mem.writeN 0x2000 (bytesOfNat 8 (0x3F + 64 * ty)) }
/-- The same, with lines in the core's L1 and in its combining buffer. -/
def holdingLines (ty : Nat) (l1 : List Line) (wbuf : List WLine) : State := (paged ty).withCore fun c => { c with l1 := l1, wbuf := wbuf }

/-- What both an 8-byte store and an 8-byte load at `glob` meet, and `p` of the place and the state that the checks give. -/
def accessed (s : State) (ty : Nat) (p : Loc → State → Bool) : Bool :=
  let same (l : Loc) (t : State) : Bool := l.ty == ty && l.pa % 8 == 0 && t.isOwn l && !t.lineBad (l.pa / 32) &&
    t.strand == s.strand && !t.strand.inRegion && t.me == s.me && t.mem == s.mem && t.turn == s.turn &&
    t.latch == s.latch && t.flights.all fun f => f.done
  canonical s && !isWindow (s.x 6 + BitVec.ofInt 64 (0 : BitVec 20).toInt) && !s.turn.post &&
  bringsLoc (s.element .store false glob 8) (fun l t => same l t && !t.provisional t.me &&
    !t.blockedBy (.line (l.pa / 32 * 32)) true && p l t) &&
  bringsLoc (s.element .load false glob 8) (fun l t => same l t && !t.blockedBy (.line (l.pa / 32 * 32)) false && p l t)
def empties (t : State) : Bool := t.flights == [] && t.core.wbuf == [] && t.core.l1 == [] && t.fused == []

theorem witness_StoreAndLoadByPage :
    accessed (paged 2) 2 (fun l t => (t.l1Find t.me.core (l.pa / 32)).isNone) = true ∧
    accessed (paged 3) 3 (fun l t => empties t && (t.l1Find t.me.core (l.pa / 32)).isNone) = true ∧
    accessed (paged 0) 0 (fun _ t => empties t) = true ∧
    accessed (holdingLines 0 [⟨glob.toNat / 32, 99, 1, 0, [rank0]⟩] []) 0
      (fun l t => t.l1Find t.me.core (l.pa / 32) == some ⟨glob.toNat / 32, 99, 1, 0, [rank0]⟩) = true ∧
    accessed (holdingLines 1 [] [⟨7, 99, 1, 0, rank0⟩, ⟨glob.toNat / 32, 99, 1, 1, rank1⟩, ⟨8, 99, 1, 0, rank0⟩]) 1 (fun l t =>
      decide (t.core.wbuf.length < 4) && t.core.wbuf.all fun e => e.line != l.pa / 32 || e.by_ != t.rankAt t.me) = true ∧
    accessed (holdingLines 1 [] [⟨7, 99, 1, 0, rank0⟩, ⟨glob.toNat / 32, 99, 1, 0, rank0⟩]) 1 (fun l t =>
      (t.core.wbuf.filter fun e => e.line == l.pa / 32 && e.by_ == t.rankAt t.me) == [⟨glob.toNat / 32, 99, 1, 0, rank0⟩]) = true := by
  decide +kernel

theorem witness_StoreAndLoadByPage_window :
    ([(0, 0), (1, 0xFFF8)].all fun p =>
      let s := two.setX 6 (BitVec.ofNat 64 (0x100_0000 + 65536 * p.1 + p.2))
      let va := s.x 6 + BitVec.ofInt 64 (0 : BitVec 20).toInt
      canonical s && s.flights == [] && !s.turn.post && isFieldLm va && !s.provisional s.me && s.blocked == [] &&
      (match s.element .store false va 8, s.element .load false va 8 with
       | .ok (.lm c off) t, .ok (.lm c' off') t' => c == p.1 && off == p.2 && c' == c && off' == off && t == s && t' == s
       | _, _ => false)) = true := by decide +kernel

/-- The LM word at an offset stands empty. -/
def emptied (off : Nat) : State := (withX 6 (BitVec.ofNat 64 off)).withCore fun c => { c with empty := [off / 8] }

theorem witness_FullEmptyForms :
    ∀ off ∈ [0, 0x100, 0xFFF8],
      (∀ s ∈ [withX 6 (BitVec.ofNat 64 off), emptied off], canonical s = true ∧
        (s.x 6 + BitVec.ofInt 64 (0 : BitVec 20).toInt).toNat = off ∧ off < 65536 ∧ off % 8 = 0 ∧ s.computePhase = false ∧
        s.strand.sync.reply = none ∧ s.tagAt (.lm s.me.core off) = none ∧ s.unacked s.me = false ∧
        (∀ w, s.blockedBy (.lm s.me.core off) w = false) ∧ s.core.port = []) ∧
      ¬ off / 8 ∈ (withX 6 (BitVec.ofNat 64 off)).core.empty ∧ off / 8 ∈ (emptied off).core.empty := by decide +kernel


/-! ## The spec's worked examples -/

/-- `i` runs to a next state of which `p` holds. -/
def ran (i : Instr) (s : State) (p : State → Bool) : Bool := match exec i s with | .next t => p t | _ => false
def given (l : List (XReg × Word)) : State := l.foldl (fun s p => s.setX p.1 p.2) one
def withFpc (s : State) (w : Word) : State := s.modCsr fun c => { c with fpc := w }
/-- `i` writes `w` to X[5] and raises `fl`, and no other flag. -/
def writes5 (i : Instr) (s : State) (w fl : Word) : Bool := ran i s fun t => t.x 5 == w && t.strand.csr.fflags == fl

/-- R359's table. -/
theorem test_div_table : ([((7 : Word), (2 : Word), (3 : Word), (3 : Word), (1 : Word), (1 : Word)),
      (-7, 2, -3, 0x7FFF_FFFF_FFFF_FFFC, -1, 1), (7, -2, -3, 0, 1, 7),
      (5, 0, BitVec.allOnes 64, BitVec.allOnes 64, 5, 5), (BitVec.intMin 64, -1, BitVec.intMin 64, 0, 0, BitVec.intMin 64)].all fun r =>
    let s := given [(6, r.1), (7, r.2.1)]
    writes5 (.div 6 7 5) s r.2.2.1 0 && writes5 (.divu 6 7 5) s r.2.2.2.1 0 && writes5 (.rem 6 7 5) s r.2.2.2.2.1 0 &&
      writes5 (.remu 6 7 5) s r.2.2.2.2.2 0) = true := by decide +kernel

/-- R331, R336, R479, R394, R423: wraps, and a negative immediate. -/
theorem test_alu_wraps : (let s := given [(6, BitVec.allOnes 64), (7, 1)]
    writes5 (.add 6 7 5) s 0 0 && writes5 (.sub 7 6 5) s 2 0 && writes5 (.addi 7 5 (-2)) s (-1) 0 && writes5 (.andi 6 5 (-16)) s (-16) 0 &&
      writes5 (.mulhu 6 6 5) s (-2) 0 && writes5 (.mulh 6 6 5) s 0 0 && writes5 (.sltiu 7 5 (-1)) s 1 0) = true := by decide +kernel

/-- R378, R386, R418, R354, R414, R363: the values beside the encodings. -/
theorem test_integer_examples :
    (writes5 (.li 5 0x123) one 0x123 0 && writes5 (.lsi 5 5 0x45_6789) (given [(5, 0x123)]) 0x0000_0001_2345_6789 0 &&
     writes5 (.lsi 5 5 0xAB_CDEF) (given [(5, 0x1_2345_6789)]) 0x0123_4567_89AB_CDEF 0 &&
     writes5 (.mort3 6 5 1) (given [(6, 0x0000_1800_0060_0005)]) 0x2E 0 &&
     writes5 (.srai 6 5 40) (given [(6, 0x8000_0000_0000_0010)]) 0xFFFF_FFFF_FF80_0000 0 &&
     writes5 (.srli 6 5 40) (given [(6, 0x8000_0000_0000_0010)]) 0x0000_0000_0080_0000 0 &&
     writes5 (.rev8 5 6) (given [(6, 0x00F0_0100)]) 0x0001_F000_0000_0000 0 &&
     writes5 (.fclassS 5 6) (given [(6, 0x8000_0000)]) 8 0) = true := by decide +kernel

/-- R362, R364, R368: with RM = RNE; NX is 1, UF 2, OF 4, NV 16. -/
theorem test_fp_examples :
    (let s := given [(5, 0x3F80_0001), (6, 0x3F80_0001), (7, 0x3F7F_FFFE), (8, 0xBF80_0000)]
     writes5 (.fmaS 5 7 8) s 0xA880_0000 0 && writes5 (.fmulS 6 7 5) s 0x3F80_0000 1 &&
     writes5 (.faddS 5 8 5) (given [(5, 0x3F80_0000), (8, 0xBF80_0000)]) 0 0 &&
     writes5 (.fcvtSL 5 6) (given [(6, 1)]) 0x3F80_0000 0 && writes5 (.fcvtBfS 5 6) (given [(6, 0x3F80_8000)]) 0x3F80 1 &&
     writes5 (.fcvtBfS 5 6) (withFpc (given [(6, 0x3F80_8000)]) 4) 0x3F81 1 &&
     writes5 (.fcvtLS 5 6) (given [(6, 0xC020_0000)]) (-2) 1 && writes5 (.fcvtWS 5 6) (given [(6, 0x4F80_0000)]) 0x7FFF_FFFF 16 &&
     writes5 (.fcvtSE4 5 6) (given [(6, 0x7E)]) 0x43E0_0000 0) = true := by decide +kernel

theorem test_fexp2 : (writes5 (.fexp2 5 6) (given [(6, 0xC000_0000)]) 0x3E80_0000 0 &&
    writes5 (.fexp2 5 6) (given [(6, 0x4300_0000)]) 0x7F80_0000 5) = true := by decide +kernel

/-- R130's table: FPC.SUB is bit 3, SAT bit 4. -/
theorem test_narrowing_table : ([((0x43E0_0000 : Word), (0x7E : Word), (0 : Word), (0x7E : Word), (0 : Word), (0x7E : Word), (0 : Word)),
      (0x43E8_0000, 0x7E, 1, 0x7E, 1, 0x7E, 1), (0x43EB_0000, 0x7F, 5, 0x7E, 5, 0x7F, 5), (0x7F80_0000, 0x7F, 16, 0x7E, 0, 0x7F, 16),
      (0x3C00_0000, 4, 0, 4, 0, 0, 3), (0xBA80_0000, 0x80, 3, 0x80, 3, 0x80, 3), (0xFFC0_0001, 0x7F, 0, 0x7F, 0, 0x7F, 0)].all fun r =>
    let s := given [(6, r.1)]
    writes5 (.fcvtE4S 5 6) s r.2.1 r.2.2.1 && writes5 (.fcvtE4S 5 6) (withFpc s 16) r.2.2.2.1 r.2.2.2.2.1 &&
      writes5 (.fcvtE4S 5 6) (withFpc s 8) r.2.2.2.2.2.1 r.2.2.2.2.2.2) = true := by decide +kernel

/-- A vector of 32-bit lanes, lane 0 first. -/
def lanes32 (l : List Nat) : V256 := BitVec.ofNat 256 (l.foldr (fun w acc => w % 2 ^ 32 + 2 ^ 32 * acc) 0)
/-- R445, R450: the masked examples. -/
theorem test_compress_expand :
    (let s := ((given [(7, 0xA6)]).setV 4 (lanes32 [10, 11, 12, 13, 14, 15, 16, 17])).setV 5 (lanes32 (List.replicate 8 9))
     ran (.vcompress .i32 3 4 (.lanes 7 false)) s (fun t => t.v 3 == lanes32 [11, 12, 15, 17, 0, 0, 0, 0]) &&
     ran (.vexpand .i32 5 3 (.lanes 7 false)) (s.setV 3 (lanes32 [11, 12, 15, 17]))
       fun t => t.v 5 == lanes32 [9, 11, 12, 9, 9, 15, 9, 17]) = true := by decide +kernel

/-- R464: the fixed tree. -/
theorem test_vred_tree : writes5 (.vredAdd .f32 5 2 .all)
    (one.setV 2 (lanes32 [0x4B80_0000, 0x3F80_0000, 0xCB80_0000, 0x3F80_0000])) 0x3F80_0000 1 = true := by decide +kernel

/-- R454: the entry at LM 0x10 before and after. -/
def entryAt10 (s : State) : Nat × Nat × Nat :=
  (Memory.nat s.core.lm 0x10 8, Memory.nat s.core.lm 0x18 4, Memory.nat s.core.lm 0x1C 4)
theorem test_walk :
    (let e (base cnt : Nat) : State := one.withCore fun c => { c with
       lm := Memory.writeN c.lm 0x10 (bytesOfNat 8 base ++ bytesOfNat 4 cnt ++ bytesOfNat 4 4) }
     [((0x100, 11), (0x120, 3)), ((0x120, 3), (0x12C, 0)), ((0x12C, 0), (0x12C, 0))].all fun p =>
       ran (.vldsr .f32 0 6 16 .all) (e p.1.1 p.1.2) fun t => entryAt10 t == (p.2.1, p.2.2, 4)) = true := by decide +kernel

/-- R167's table for BF16 pairs: eq, ne, lt, gt, unord, ord, teq, tlt, tltx, tgtx. -/
theorem test_ocmp_table :
    let env := envOf 0
    let rels : List State.ORel := [.rel .eq, .rel .ne, .rel .lt, .rel .gt, .unord, .ord, .teq, .tlt, .tltx, .tgtx]
    ([(0x0000, 0x8000, 0, 1, [1, 0, 0, 0, 0, 1, 0, 0, 0, 1]), (0x8000, 0x0000, 0, 1, [1, 0, 0, 0, 0, 1, 0, 1, 1, 0]),
      (0x3F80, 0x3F80, 2, 5, [1, 0, 0, 0, 0, 1, 1, 0, 1, 1]), (0x3F80, 0x3F80, 5, 2, [1, 0, 0, 0, 0, 1, 1, 0, 0, 0]),
      (0x7FC0, 0x3F80, 0, 1, [0, 1, 0, 0, 1, 0, 0, 0, 0, 1]), (0xFFC0, 0xFF80, 0, 1, [0, 1, 0, 0, 1, 0, 0, 1, 1, 0]),
      (0x7F81, 0x0000, 0, 1, [0, 1, 0, 0, 1, 0, 0, 0, 0, 1]), (0x0001, 0x0000, 0, 1, [0, 1, 0, 1, 0, 1, 0, 0, 0, 1])].all fun q =>
      rels.map (fun r => if State.orel r .bf env q.1 q.2.1 q.2.2.1 q.2.2.2.1 then 1 else 0) == q.2.2.2.2) = true ∧
    rels.map (fun r => if State.orel r .bf (envOf 8) 1 0 0 1 then 1 else 0) = [1, 0, 0, 0, 0, 1, 0, 0, 0, 1] := by decide +kernel

/-- R139, R140: the request of the worked tile example, and the trap that comes before it (R61, R63). -/
theorem test_tcfg_example :
    (ran (.tmvRv 0 0 4 .all) one (fun t => t.strand.mode == .S && t.strand.sBank.cause == 8 && t.strand.sBank.tval == 0 &&
       t.strand.sBank.epc == codeBase && t.strand.pc == 0) &&
     ran (.tcfg 8 0 8) (given [(8, 0xC_1014)]) fun t => t.x 8 == 0x1_C210 && t.core.town == 4) = true := by decide +kernel

/-- R254: element 13 of tensor 5 is word 1 of the block with counter (3, 0, 5, 0), so the pair from 12 on is words 0 and 1. -/
theorem test_rng_example :
    (ran (.rng 5 10) (given [(10, 13), (11, 5)]) fun t =>
      t.x 10 == 14 && t.x 5 == BitVec.ofNat 64 ((philox 0 0 [3, 0, 5, 0]).getD 0 0 + 2 ^ 32 * (philox 0 0 [3, 0, 5, 0]).getD 1 0)) = true := by
  decide +kernel

/-- R176, R7: a word is stored with its lowest byte first; X[0] stays 0. -/
theorem test_byte_order :
    (ran (.sd 5 6 0 MemMod.none) (given [(5, 0x0807_0605_0403_0201), (6, 0x100)]) (fun t =>
       (List.range 8).all fun i => Memory.read t.core.lm (0x100 + i) == BitVec.ofNat 8 (i + 1)) &&
     ran (.addi 5 0 7) one fun t => t.x 0 == 0) = true := by decide +kernel

/-- R429, R406: `trap 1000` enters the handler with its value, and `rti` comes back. -/
theorem test_trap_and_return :
    (ran (.trap 1000) (one.withStrand fun p => { p with sBank := { p.sBank with tvec := 0x2_0000_0001, status := 1 } }) fun t =>
      t.strand.pc == 0x2_0000_0000 && t.strand.sBank.cause == 18 && t.strand.sBank.tval == 1000 && t.strand.sBank.epc == codeBase &&
      t.strand.sBank.status == 2 && ran .rti t fun u => u.strand.mode == .U && u.strand.pc == codeBase && u.strand.sBank.status == 3) = true := by
  decide +kernel

/-- R332, R333: the old word comes back sign-extended. -/
theorem test_amo_word :
    (let s := (given [(6, 0x100), (7, 1)]).withCore fun c => { c with lm := Memory.writeN c.lm 0x100 (bytesOfNat 4 0xFFFF_FFFF) }
     ran (.amoadd true 5 6 7 0 MemMod.none) s fun t => t.x 5 == -1 && Memory.nat t.core.lm 0x100 8 == 0) = true := by decide +kernel


/-- FPC.TE enables every flag. -/
def enabled : State := withCsr fun c => { c with fpc := 0x7C0 }

/-- The premise of `FpArithmeticForms` and `FpConversions`: a division by zero with its trap off, and with its trap on. -/
theorem witness_WritesX :
    (Fmt.f32.div one.env (Fmt.f32.read one.env 0x3F800000) (Fmt.f32.read one.env 0)).2 &&& one.te = 0 ∧
    (Fmt.f32.div enabled.env (Fmt.f32.read enabled.env 0x3F800000) (Fmt.f32.read enabled.env 0)).2 &&& enabled.te ≠ 0 := by
  decide +kernel

theorem witness_FpCompareAndClassify : one.te = 0 ∧ (withX 6 0x8000_0000).x 6 = 0x8000_0000 := by decide +kernel

theorem witness_CanonicalNaNs :
    (envOf 0).nan = false ∧ (Fmt.f32.read (envOf 0) 0x7FC0_0001).isNaN = true ∧ (Fmt.f64.read (envOf 0) 0x7FF8_0000_0000_0001).isNaN = true ∧
    (Fmt.e4.read (envOf 0) 0x7F).isNaN = true ∧ (Fmt.hf.read (envOf 0) 0x7C01).isNaN = true := by decide +kernel

theorem witness_SpecialFunctions :
    let s := one.withCore fun c => { c with sfu := [1, 2, 3, 1, 2, 3, 1] }
    (one.strand.sync.reply = none ∧ one.core.sfu = [] ∧ one.turn.post = false) ∧
    (s.strand.sync.reply = none ∧ s.core.sfu ≠ [] ∧ s.me.slot ∉ s.core.sfu ∧ s.core.sfu.length < 8) := by decide +kernel

/-- A mask register with lanes 0, 2, 4, … active, and the two masks over it. -/
def evens : State := withX 7 0x5555_5555
def merge : MaskMod := .lanes 7 false
def zero : MaskMod := .lanes 7 true

theorem witness_VectorIntegerLanes : ETy.isInt .n8 = true ∧ ETy.isInt .i64 = true ∧ ETy.isSigned .i64 = true := by decide

theorem witness_VectorFpLanes :
    ETy.isFp .bf = true ∧ ETy.isFp .f64 = true ∧
    (let g (s : State) (k : Nat) : Word := (Fmt.f64.div s.env (Fmt.f64.read s.env 0x3FF0_0000_0000_0000) (Fmt.f64.read s.env (k % 1))).2
     flagsOver (one.active .all) 4 (g one) &&& one.te = 0 ∧ flagsOver (enabled.active .all) 4 (g enabled) &&& enabled.te ≠ 0) := by
  decide +kernel

theorem witness_VectorCompares :
    ETy.isInt .n64 = true ∧ (ETy.isInt .e4 = false ∧ ETy.notCb .e4 = true) ∧
    (let g (s : State) (_ : Nat) : Word := (fpRel .lt (Fmt.f32.read s.env 0x7FC0_0000) (Fmt.f32.read s.env 0)).2
     flagsOver (one.active .all) 8 (g one) &&& one.te = 0 ∧ flagsOver (enabled.active .all) 8 (g enabled) &&& enabled.te ≠ 0) := by
  decide +kernel

theorem witness_VectorMoves :
    ((0 : BitVec 10).toNat < ETy.lanes .i8 ∧ (31 : BitVec 10).toNat < ETy.lanes .i8) ∧
    (evens.active merge (30 : BitVec 10).toNat = true ∧ evens.active merge (31 : BitVec 10).toNat = false ∧ zeroing merge = false) ∧
    (evens.active zero (31 : BitVec 10).toNat = false ∧ zeroing zero = true) := by decide +kernel

theorem witness_VectorConvertReduceSfu :
    ETy.isInt .n8 = true ∧ ETy.isFp .f64 = true ∧ (one.core.sfu = [] ∧ one.turn.post = false ∧ one.strand.sync.reply = none) := by
  decide +kernel

/-- The addresses of the active lanes of a vector of FP32, from a base on. -/
def lanesFrom (s : State) (m : MaskMod) (base : Word) : List Word :=
  ((List.range 8).filter (s.active m)).map fun i => base + BitVec.ofNat 64 (4 * i)

theorem witness_VectorMemoryForms :
    ([(0x100 : Word), 0xFFE0, glob].all fun va => [MaskMod.all, merge, zero].all fun m =>
      let s := evens.setX 6 va
      brings (s.loadElems 4 MemMod.none (lanesFrom s m va)) (fun bs _ => bs.length = (lanesFrom s m va).length) &&
      brings (s.storeElems 4 MemMod.none ((lanesFrom s m va).map fun p => (p, bytesOfNat 4 9))) fun _ _ => true) = true := by
  decide +kernel

/-- A walk entry at 0x300 of the strand's LM: BASE, CNT and STR. -/
def walk (cnt : Nat) : State := (withX 6 0x300).withCore fun c => { c with
  lm := Memory.writeN c.lm 0x300 (bytesOfNat 8 0x100 ++ bytesOfNat 4 cnt ++ bytesOfNat 4 4) }

theorem witness_VectorWalkForms :
    ([0, 3, 20].all fun cnt =>
      let s := walk cnt
      let at_ := (List.range (min cnt 8)).map fun i => (0x100 : Word) + BitVec.ofNat 64 (4 * i)
      Memory.nat s.core.lm 0x300 8 == 0x100 && Memory.nat s.core.lm 0x308 4 == cnt && Memory.nat s.core.lm 0x30C 4 == 4 &&
      (s.x 6).toNat % 16 == 0 && (s.x 6).toNat < 65536 && !s.computePhase && 0x100 % 4 == 0 && at_.isEmpty == (cnt == 0) &&
      at_.all (fun a => !s.regionPage a) && !s.blockedBy (.lm s.me.core 0x300) true && !s.blockedBy (.lm s.me.core 0x308) true &&
      brings (s.loadElems 4 MemMod.none at_) (fun bs _ => bs.length == at_.length) &&
      brings (s.storeElems 4 MemMod.none (at_.map fun p => (p, bytesOfNat 4 0))) fun _ _ => true) = true := by decide +kernel

theorem witness_BitTileForms :
    (isGlobal 0x110 = false ∧ (0x110 : Word).toNat % 32 ≠ 0) ∧
    ([(0 : Word), 0xFFE0, glob].all fun va => let s := withX 6 va
      va.toNat % 32 == 0 && !s.regionPage va &&
      brings (s.loadElems 8 MemMod.none [va, va + 8, va + 16, va + 24]) (fun _ _ => true) &&
      brings (s.storeElems 8 MemMod.none ([va, va + 8, va + 16, va + 24].map fun p => (p, bytesOfNat 8 0))) fun _ _ => true) = true := by
  decide +kernel

/-! Tiles: t0 has 4 rows of 8 FP32, t1 one row of 64 bytes of e4, t2 16 rows of 32 bf16, t3 3 rows of 5 e4, t4 16 rows of
64 i8, t5 the same of n8, t6 is not configured. -/

def conf (rows cols code : Nat) : BitVec 17 := BitVec.ofNat 17 (rows + 32 * cols + 4096 * code + 65536)
def confs : Vector (BitVec 17) 8 :=
  #v[conf 4 8 12, conf 1 64 8, conf 16 32 10, conf 3 5 8, conf 16 64 0, conf 16 64 4, 0, conf 16 16 12]
def tiled (s : State) : State := s.withCore fun c => { c with tcfg := confs }
/-- t0 is another slot's, t1 and a0 the strand's own, and t2 the strand's own but parked. -/
def owned : State := (tiled one).withCore fun c => { c with
  town := 5 + (4 <<< 5) + (12 <<< 10) + (4 <<< 40) }

theorem witness_TileConfigure :
    mayTouch (tiled one).core.town 0 (tiled one).me.slot = true ∧ (tiled one).core.owesUse (.tile 0) = false ∧
    mayTouch (tiled one).core.town 7 (tiled one).me.slot = true ∧ (tiled one).core.owesUse (.tile 7) = false := by decide +kernel


theorem witness_TileOwnership :
    let c := owned.core
    let k := owned.me.slot
    cfgOn (c.cfg 6) = false ∧
    (townOwn c.town 0 = true ∧ townSlot c.town 0 ≠ k ∧ cfgOn (c.cfg 0) = true) ∧
    (townOwn c.town 2 = true ∧ townSlot c.town 2 = k ∧ townPark c.town 2 = true ∧ cfgOn (c.cfg 2) = true) ∧
    ((11 : BitVec 4).toNat ≤ 11 ∧ townOwn c.town 11 = false) ∧
    ([(1 : BitVec 4), 8].all fun r => townOwn c.town r.toNat && townSlot c.town r.toNat == k && !townPark c.town r.toNat &&
      !c.owesUse (State.namedReg r)) = true ∧
    (cfgOn (c.cfg 1) = true ∧ mayTouch c.town 1 k = true ∧ c.owesUse (.tile 1) = false) ∧
    (cfgOn (c.cfg 7) = true ∧ mayTouch c.town 7 k = true ∧ c.owesUse (.tile 7) = false) := by decide +kernel

/-- The element addresses of a tile access from a base on with a stride, rows first or, with `tr`, columns first. -/
def elemAddrs (s : State) (t : TReg) (base stride : Word) (tr : Bool) : List Word :=
  let g := s.core.cfg t
  (List.range (cfgRows g)).flatMap fun i => (List.range (cfgCols g)).map fun j =>
    if tr then base + BitVec.ofNat 64 j * stride + BitVec.ofNat 64 (i * cfgSize g)
    else base + BitVec.ofNat 64 i * stride + BitVec.ofNat 64 (j * cfgSize g)

/-- `t` may be loaded, or stored, from `base` with `stride`. -/
def tileReady (s : State) (t : TReg) (base stride : Word) (tr : Bool) : Bool :=
  let g := s.core.cfg t
  cfgRows g ≤ 16 && cfgCols g * cfgSize g ≤ 64 && !s.core.owesUse (.tile t) &&
  brings (s.tileChecks t base stride tr) (fun _ u => u = s) &&
  brings (s.loadElems (cfgSize g) MemMod.none (elemAddrs s t base stride tr)) fun bs u =>
    bs.length = cfgRows g * cfgCols g ∧ u.me = s.me ∧ u.core.cfg t = g

/-- Four members on cores 0 to 3, every core with the tiles of `confs`, and X[31] a mask. -/
def castTeam (mask : Word) : State :=
  let s := (team 4 fun _ p => p).setX 31 mask
  { s with cores := s.cores.map fun p => (p.1, { p.2 with tcfg := confs }) }

theorem witness_TileLoadsAndStores_cast :
    ([(0x100 : Word), 0x101_0100].all fun base =>
      let s := castTeam 0xB
      let at_ := elemAddrs s 0 base 32 false
      s.x 31 != 0 && !s.strand.inRegion && !s.computePhase && tileReady s 0 base 32 false && at_.all s.castSource &&
      ((List.range 64).filter fun k => (s.x 31).getLsbD k).all fun k => (s.memberAt k).any fun w =>
        clusterOf w.core == clusterOf s.me.core && (s.coreAt w.core).cfg 0 == s.core.cfg 0 &&
        mayTouch (s.coreAt w.core).town 0 w.slot && !(s.coreAt w.core).owesUse (.tile 0) &&
        brings (s.loadElems 4 MemMod.none at_) fun _ t => (t.coreAt w.core).cfg 0 = s.core.cfg 0) = true := by decide +kernel

theorem witness_TileLoadsAndStores :
    (tileReady (tiled one) 0 0x100 32 false && tileReady (tiled one) 0 glob 64 false && tileReady (tiled one) 0 0x100 16 true) = true ∧
    (one.x 0 = 0 ∧ one.strand.inRegion = false ∧ one.computePhase = false) ∧
    (let s := tiled one
     brings (s.tileChecks 0 0x100 32 false) (fun _ u => u = s) = true ∧ s.core.owesWrite (.tile 0) = false ∧
     ¬ ((0x100 : Word) = 0x0200_0000 ∧ cfgRows (s.core.cfg 0) = 1 ∧ cfgCols (s.core.cfg 0) * cfgSize (s.core.cfg 0) = 64) ∧
     brings (s.storeElems 4 MemMod.none ((elemAddrs s 0 0x100 32 false).map fun a => (a, bytesOfNat 4 0))) (fun _ _ => true) = true) ∧
    (let s := tiled one
     brings (s.tileChecks 1 0x0200_0000 64 false) (fun _ u => u = s) = true ∧ s.core.owesWrite (.tile 1) = false ∧
     cfgRows (s.core.cfg 1) = 1 ∧ cfgCols (s.core.cfg 1) * cfgSize (s.core.cfg 1) = 64 ∧
     s.core.matrix.queue.length + (if s.core.matrix.run.isSome then 1 else 0) < 16) := by decide +kernel

theorem witness_TileMovesAndCompress :
    let s := tiled one
    let k := s.me.slot
    (cfgOn (s.core.cfg 0) = true ∧ mayTouch s.core.town 0 k = true ∧ cfgRows (s.core.cfg 0) ≤ 16 ∧
      cfgCols (s.core.cfg 0) * cfgSize (s.core.cfg 0) ≤ 64 ∧ s.core.owesUse (.tile 0) = false ∧ s.core.owesWrite (.tile 0) = false) ∧
    (cfgOn (s.core.cfg 4) = true ∧ cfgRows (s.core.cfg 4) ≤ 16 ∧ cfgCols (s.core.cfg 4) * cfgSize (s.core.cfg 4) ≤ 64) ∧
    (cfgOn (s.core.cfg 1) = true ∧ State.compTypes.contains (cfgTy (s.core.cfg 1)) = true ∧ mayTouch s.core.town 6 k = true ∧
      mayTouch s.core.town 1 k = true ∧ s.core.owesUse (.tile 6) = false ∧ s.core.owesUse (.tile 1) = false ∧
      s.core.owesWrite (.book 0) = false ∧ cfgRows (s.core.cfg 1) ≤ 16 ∧ cfgCols (s.core.cfg 1) * cfgSize (s.core.cfg 1) ≤ 64) := by
  decide +kernel

/-- Two tiles of FP32, the second one's storage all ones, so that its elements are NaNs. -/
def comparable (s : State) : State := s.withCore fun c => { c with
  tcfg := Vector.replicate 8 (conf 16 16 12), tiles := c.tiles.set 1 (BitVec.ofNat 8192 0xFF80_0001) }

theorem witness_OuterComparisons :
    let s := comparable one
    (cfgOn (s.core.cfg 0) = true ∧ cfgOn (s.core.cfg 1) = true ∧ cfgTy (s.core.cfg 1) = cfgTy (s.core.cfg 0) ∧
      cfgTy (s.core.cfg 0) ≠ .cb4 ∧ mayTouch s.core.town 0 s.me.slot = true ∧ mayTouch s.core.town 1 s.me.slot = true ∧
      s.core.owesWrite (.tile 0) = false ∧ s.core.owesWrite (.tile 1) = false) ∧
    (Fmt.f32.decode (s.core.elem 1 0 0)).isSNaN = true ∧ fNV &&& s.te = 0 ∧ fNV &&& (comparable enabled).te ≠ 0 := by
  decide +kernel

/-- The images are all zeros, so each of their words is `List.replicate 8 0`. -/
theorem witness_SaveAndRestoreRegister :
    one.strand.mode = .U ∧ ((inMode one .S).strand.mode ≠ .U ∧ (0x104 : Word).toNat % 8 ≠ 0) ∧
    ([(Mode.S, (7 : BitVec 4)), (.M, 11)].all fun p =>
      let r := p.2
      let ea : Word := 0x400
      let s := inMode (withX 6 ea) p.1
      let n := if r.toNat < 8 then 129 else 256
      let at_ := (List.range n).map fun i => ea + BitVec.ofNat 64 (8 * i)
      s.strand.mode != .U && ea.toNat % 8 == 0 &&
      State.imageBytes s.core r == List.replicate (8 * n) 0 &&
      brings (s.checkEach .store 8 at_) (fun ps u => !u.core.owesWrite (State.namedReg r) && u.core == s.core &&
        brings (u.storeEach MemMod.none (ps.zip (List.replicate n (List.replicate 8 0)))) fun _ _ => true) &&
      brings (s.checkEach .load 8 at_) fun ps u => !u.core.owesUse (State.namedReg r) &&
        brings (u.loadEach 8 MemMod.none ps) fun _ _ => true) = true := by decide +kernel

theorem witness_RandomForms :
    let trapping := withCsr fun c => { c with rngmode := 4 }
    let table := withCsr fun c => { c with rngmode := 1 }
    (one.strand.csr.rngmode.getLsbD 0 = false ∧ table.computePhase = false ∧ table.strand.csr.rngmode.getLsbD 0 = true) ∧
    (0 : Word).toNat / 2 * 2 + 2 ≠ 2 ^ 64 ∧ (BitVec.allOnes 64).toNat / 2 * 2 + 2 = 2 ^ 64 ∧
    (0 : Word).toNat / 8 * 8 + 8 ≠ 2 ^ 64 ∧ (BitVec.allOnes 64).toNat / 8 * 8 + 8 = 2 ^ 64 ∧
    one.strand.csr.rngmode.getLsbD 2 = false ∧
    (trapping.strand.csr.rngmode.getLsbD 2 = true ∧ trapping.strand.csr.rngmode.getLsbD 0 = false) := by decide +kernel

/-- Every tile configured with one type, and `n` records of the slot in the queue. -/
def queued (code : Nat) (n : Nat) : State := one.withCore fun c => { c with
  tcfg := Vector.replicate 8 (conf 16 (if code = 12 then 16 else if code = 10 ∨ code = 11 then 32 else 64) code)
  matrix := { c.matrix with queue := List.replicate n ⟨0, true⟩ } }
def tilesReady (s : State) (l : List (TReg × ETy)) : Bool := l.all fun r =>
  cfgOn (s.core.cfg r.1) && cfgTy (s.core.cfg r.1) == r.2 && mayTouch s.core.town r.1.toNat s.me.slot

/-- Two tiles of one type and two of another: t0 to t3 of the first. -/
def mixed (first second : Nat) : State := one.withCore fun c => { c with
  tcfg := #v[conf 16 16 first, conf 16 16 first, conf 16 16 first, conf 16 16 first,
    conf 16 16 second, conf 16 16 second, conf 16 16 second, conf 16 16 second] }

theorem witness_MatrixRecords :
    ([(8, ETy.e4), (10, .bf), (11, .hf), (12, .f32), (0, .i8), (14, .cb4), (4, .n8)].all fun p =>
      (queued p.1 15).core.matrix.queue.length + 0 < 16 && tilesReady (queued p.1 15) [(0, p.2), (1, p.2), (2, p.2), (3, p.2)]) = true ∧
    ([(8, 9, ETy.e4, ETy.e5), (9, 8, .e5, .e4), (0, 4, .i8, .n8), (14, 8, .cb4, .e4), (14, 10, .cb4, .bf)].all fun p =>
      tilesReady (mixed p.1 p.2.1) [(0, p.2.2.1), (4, p.2.2.2), (5, p.2.2.2), (6, p.2.2.2), (7, p.2.2.2)]) = true ∧
    ([0, 1, 2, 3].all fun a => mayTouch one.core.town (8 + a) one.me.slot) = true ∧
    ((inMode one .M).strand.mode = .M ∧ one.strand.mode ≠ .M) ∧
    (one.core.matrix.queue.length = 0 ∧ one.core.matrix.run = none ∧ 16 ≤ (queued 8 16).core.matrix.queue.length) ∧
    (((queued 8 1).core.matrix.queue.map MRec.bits).filter fun r => Rec.slot r == (queued 8 1).me.slot) ≠ [] ∧
    (stepped one).computePhase = true ∧ one.computePhase = false := by decide +kernel


/-- What the word `m` at a `wait`'s address must be for condition `c` to hold, with X[A] = 5. -/
def waitCase (c : Nat) (m : Word) : Bool :=
  match c with
  | 0 => m == 5 | 1 => m != 5 | 2 => decide (m.toInt < 5) | 3 => decide (5 ≤ m.toInt)
  | 4 => decide (m.toNat < 5) | _ => decide (5 ≤ m.toNat)

/-- A strand whose LM word at 0x100 and memory word at `glob` hold `m`. -/
def holding (va m : Word) : State :=
  let s := ((withX 6 va).setX 5 5).withCore fun c => { c with lm := Memory.writeN c.lm 0x100 (bytesOfNat 8 m.toNat) }
  { s with mem := s.mem.writeN glob.toNat (bytesOfNat 8 m.toNat) }

theorem witness_AtomicAndWaitForms :
    ([(0 : Word), 0x100, 0xFFF8].all fun va => [true, false].all fun w32 =>
      let s := withX 6 va
      canonical s && MemMod.none.order == .plain && va.toNat % (if w32 then 4 else 8) == 0 && !s.strand.inRegion &&
      !s.computePhase && !s.provisional s.me && va.toNat < 65536 && !s.blockedBy (.lm s.me.core (va.toNat / 8 * 8)) true) = true ∧
    ([true, false].all fun w32 =>
      let s := withX 6 glob
      isGlobal glob && bringsLoc (s.element .store true glob (if w32 then 4 else 8)) fun l t => l.ty ≠ 3 ∧ t.isOwn l ∧
        t.me = s.me ∧ t.mem = s.mem ∧ t.strand = s.strand ∧ t.latch = s.latch ∧ t.provisional t.me = false ∧
        t.lineBad (l.pa / 32) = false ∧ (t.flights.all fun f => f.done) ∧ t.blockedBy (.line (l.pa / 32 * 32)) true = false ∧
        t.l1Find t.me.core (l.pa / 32) = none ∧ (t.core.wbuf.all fun e => e.line != l.pa / 32)) = true ∧
    ([(0, 5, 6), (1, 6, 5), (2, -1, 5), (3, 5, -1), (4, 4, 5), (5, -1, 4)].all fun p =>
      let yes : Word := p.2.1
      let no : Word := p.2.2
      [(yes, true), (no, false)].all fun q =>
        let s := holding 0x100 q.1
        s.x 5 == 5 && waitCase p.1 (BitVec.ofNat 64 (Memory.nat s.core.lm 0x100 8)) == q.2 &&
        waitCase p.1 (BitVec.ofNat 64 (s.mem.nat glob.toNat 8)) == q.2) = true ∧
    (let s := holding 0x100 5
     (0x100 : Word).toNat % 8 = 0 ∧ s.strand.inRegion = false ∧ s.computePhase = false ∧ s.unacked s.me = false ∧
     s.strand.sync.watch = none ∧ s.blockedBy (.lm s.me.core 0x100) false = false ∧ s.tagAt (.lm s.me.core 0x100) = none) ∧
    (let s := holding glob 5
     bringsLoc (place s .load false glob 8) (fun l t => l.ty ≠ 3 ∧ t.isOwn l ∧ t.me = s.me ∧ t.mem = s.mem ∧ t.strand = s.strand ∧
      t.latch = s.latch ∧ t.lineBad (l.pa / 32) = false ∧ t.unacked t.me = false ∧
      t.blockedBy (.line (l.pa / 32 * 32)) false = false ∧ t.tagAt (.line (l.pa / 32 * 32)) = none ∧
      t.l1Find t.me.core (l.pa / 32) = none ∧ (t.core.wbuf.all fun e => e.line != l.pa / 32)) = true) := by decide +kernel

/-- The barrier 3 of core 0, of the strand's launch, with its counts, and a token of the strand. -/
def barrier (n arr : Nat) (t : Option Token) : State :=
  withSync ((withX 5 3).setBar 0 3 ⟨n, n, arr, false, 1, []⟩) fun y => { y with token := t }

theorem witness_BarrierForms :
    (let s := barrier 2 0 none
     (s.x 5).toNat < 65536 ∧ (0xFFFF : Word).toNat < 65536 ∧ s.reachable 0 = true ∧ s.strand.live = true ∧
      s.strand.inRegion = false ∧ s.turn.post = false ∧ s.barInFlight = false ∧ s.flights = [] ∧ s.strand.sync.reply = none ∧ s.me.slot < 4 ∧ s.strand.sync.began = false) ∧
    ((256 : Word).toNat ≤ 256 ∧ 256 < (257 : Word).toNat ∧ (511 : Word).toNat < 512) ∧
    ([(2, 0), (2, 1), (256, 255)].all fun p =>
      let k := (barrier p.1 p.2 none).barAt 0 3
      k.n != 0 && k.lnum == one.strand.ident.lnum && (k.arr + 1 == k.n) == (p.1 == p.2 + 1)) = true ∧
    ((barrier 2 0 (some ⟨3, false, true, 0, true⟩)).strand.sync.token = some ⟨3, false, true, 0, true⟩) ∧
    (((barrier 0 0 none).barAt 0 3).n = 0 ∧ (barrier 0 0 none).strand.sync.token = none) ∧
    ((barrier 2 0 (some ⟨3, false, false, 0, false⟩)).strand.sync.token = some ⟨3, false, false, 0, false⟩ ∧ (withX 5 3).x 5 = 3) ∧
    ((barrier 2 0 (some ⟨4, false, false, 0, false⟩)).strand.sync.token = some ⟨4, false, false, 0, false⟩ ∧ (4 : Word) ≠ 3) := by decide +kernel

def arrived (kind : Nat) (p : Strand) : Strand := { p with sync := { p.sync with wire := kind, began := true, held := true } }
/-- All members but core 0's, or but core 0's and core 3's, have done `f`. -/
def others (f : Strand → Strand) (i : Nat) (p : Strand) : Strand := if i = 0 then p else f p
def most (f : Strand → Strand) (i : Nat) (p : Strand) : Strand := if i = 0 ∨ i = 3 ∨ i = 16 then p else f p

/-- The state in which the barrier of a kind completes, or waits for a member. -/
def wireReady (s : State) (kind : Nat) : Bool :=
  let i := s.strand.ident
  let y := s.strand.sync
  !s.strand.inRegion && State.wireAdmits kind i.width && !y.began && !y.wireRel && y.wire == 0 && !s.turn.post &&
  s.claimWires.isSome && !s.wireBusy kind && s.memberOn i s.me.core == some (s.me.key, s.strand)
def wireAll (s : State) (kind : Nat) : Bool :=
  (State.extentCores s.strand.ident.width s.me.core kind).all fun c => c == s.me.core || s.arrivedOn s.strand.ident kind c

theorem witness_WireForms_barriers :
    ([1, 2, 3].all fun k => !one.strand.inRegion && !State.wireAdmits k one.strand.ident.width) = true ∧
    ([(1, 16), (2, 64), (3, 64)].all fun p => wireReady (team p.2 (others (arrived p.1))) p.1 &&
      wireAll (team p.2 (others (arrived p.1))) p.1) = true ∧
    ([(1, 16), (2, 64), (3, 64)].all fun p => let s := team p.2 (most (arrived p.1))
      wireReady s p.1 && !wireAll s p.1 && (State.extentCores s.strand.ident.width s.me.core p.1).contains s.me.core) = true := by
  decide +kernel

def exchanging (p : Strand) : Strand := { p with sync := { p.sync with xIn := some (0, 7), began := true, held := true } }
theorem witness_WireForms_exchange :
    (one.computePhase = false ∧ 32 ≤ (32 : Word).toNat ∧ 32 ≤ (BitVec.allOnes 64).toNat) ∧
    (let s := team 16 (others exchanging)
     let i := s.strand.ident
     (s.computePhase = false ∧ (s.x 6).toNat < 32 ∧ s.strand.sync.began = false ∧ s.strand.sync.xIn = none ∧
      s.memberOn i s.me.core = some (s.me.key, s.strand)) ∧
     ([1, 2, 3, 4, 5, 6, 7].all fun p => (s.memberOn i p).any fun q => q.2.sync.xIn == some (0, 7)) = true) ∧
    (let s := team 16 (most exchanging)
     ([0, 1, 2, 3, 4, 5, 6, 7].all fun p => (s.memberOn s.strand.ident p).isSome) = true ∧
     ((s.memberOn s.strand.ident 3).any fun q => q.2.sync.xIn == none) = true) := by decide +kernel

/-- A launch that declares channel 3 with `n` slots, and the strand's inbound messages; X[6] names channel 3 of the strand
itself, X[7] the last channel of another rank. -/
def channels (n : Nat) (wide : Bool) (l : List Inbound) : State :=
  let s := (withX 6 3).setX 7 (63 + 1024 * 0xFFFF_FFFF)
  { s.withStrand fun p => { p with inbound := l } with
    launches := s.launches.map fun l => { l with kd := { l.kd with chans := List.replicate 4 (n, wide) } } }

theorem witness_ChannelForms :
    ([(false : Bool), true].all fun wide =>
      let s := channels 1 wide []
      let dest : Rank := ⟨s.strand.ident.lnum, 0, 0⟩
      !s.strand.inRegion && !s.computePhase && s.channel s.strand.ident.lnum 3 == some (1, wide) && !(s.x 6).getLsbD 9 &&
      (s.x 6).toNat < 2 ^ 42 && s.strand.live && !s.strand.sync.began && !s.strand.sync.sendOut && !s.turn.post &&
      (s.ofRank dest).isSome && s.slotFree dest 3 && s.flights == [] &&
      (s.strand.inbound.find? fun e => e.chan == 3).isNone) = true ∧
    ([(false : Bool), true].all fun wide =>
      let s := channels 1 wide [⟨3, 77, false⟩]
      !s.slotFree ⟨s.strand.ident.lnum, 0, 0⟩ 3 && (s.strand.inbound.find? fun e => e.chan == 3) == some ⟨3, 77, false⟩) = true ∧
    (let s := channels 1 false []
     s.channel s.strand.ident.lnum ((s.x 7).toNat % 64) = none ∧ (s.x 7).getLsbD 9 = false ∧ (s.x 7).toNat < 2 ^ 42) := by
  decide +kernel

/-- Queue register 3 holds `l`; a slice queue of capacity 4 stands at `glob` with `n` entries. -/
def queues (l : List Word) (n : Nat) : State :=
  let s := (withX 6 glob).withCore fun c => { c with q := vsetN c.q 3 l }
  { s with mem := s.mem.writeN glob.toNat (bytesOfNat 8 2 ++ bytesOfNat 8 0 ++ bytesOfNat 8 7 ++ bytesOfNat 8 (7 + n)) }

theorem witness_QueueForms_registers :
    (one.strand.inRegion = false ∧ one.computePhase = false) ∧
    ([[], [1], [1, 2, 3]].all fun l => let s := queues l 0
      (vgetN s.core.q 3).length < 4 && ((vgetN s.core.qWait 3).find? fun p => p.2 == true).isNone &&
      ((vgetN s.core.qWait 3).find? fun p => p.2 == false).isNone) = true ∧
    4 ≤ (vgetN (queues [1, 2, 3, 4] 0).core.q 3).length ∧ vgetN (queues [1, 2] 0).core.q 3 = [1, 2] ∧
    vgetN (queues [] 0).core.q 3 = [] := by decide +kernel

theorem witness_QueueForms_slices :
    ([(0, true, false), (3, true, true), (4, false, true)].all fun p =>
      let s := queues [] p.1
      canonical s && s.turn.post == false && s.strand.sync.sqHeld == [] &&
      brings (s.sqPlace (s.x 6 + BitVec.ofInt 64 (0 : BitVec 20).toInt)) fun q t => t.me = s.me ∧ t.mem = s.mem ∧ t.strand = s.strand ∧
        t.latch = s.latch ∧ t.turn = s.turn ∧ t.provisional t.me = false ∧ t.isOwn q.1 ∧ q.1.ty ≠ 3 ∧
        t.blocked = [] ∧ t.parked = [] ∧ t.core.wbuf = [] ∧ t.core.l1 = [] ∧
        (sqDesc s.mem q.1.pa q.2).any fun e => ([q.1.pa, ringAt q.1.pa e e.tail] ++
            (List.range 4).map fun i => ringAt q.1.pa e (e.head + i)).all (fun p => !t.lineBad (p / 32)) && decide (e.count = p.1) && decide (e.count < 2 ^ e.lcap) == p.2.1 &&
          decide (e.count ≠ 0) == p.2.2) = true := by decide +kernel


/-- A strand of a launch with regions at strand scope, with an RGS and, in states 1 and 4, its region open. -/
def region (scope : Nat) (g : Word) : State :=
  { one.withStrand fun p => { p with
      csr := { p.csr with rgs := g }
      region := { p.region with opened := g.toNat % 8 == 1 || g.toNat % 8 == 4, reads := [⟨glob.toNat / 32, 0, false, false⟩] } } with
    launches := one.launches.map fun l => { l with lrec := { l.lrec with rscope := scope } } }
/-- A pre-emption request of the strand is pending. -/
def pressed (s : State) : State := s.withStrand fun p => { p with preq := some ⟨false, 0, false⟩ }
def stale (s : State) : State := s.withStrand fun p => { p with region := { p.region with
  reads := p.region.reads.map fun r => { r with marked := true } } }
/-- The strand's launch waits for a shape. -/
def shapeSource (s : State) : State := { s with launches := s.launches.map fun l => { l with lrec := { l.lrec with shp := true } } }
def good (s : State) : Bool := s.strand.mode == .U && !s.stepMode && 0 < s.regionScope && s.regionScope ≤ 5
def calm (s : State) : Bool := !s.unacked s.me && s.core.l1 == [] && !s.fused.contains (clusterOf s.me.core) && !s.turn.post &&
  s.strand.live && (s.groupOf s.strand).length == 1

theorem witness_RegionForms :
    ([1, 2, 3].all fun scope =>
      let s := region scope 0
      good s && calm s && !s.provisional s.me && s.strand.region.opened == false && rgsState s.strand.csr.rgs == 0 &&
      rgsRound s.strand.csr.rgs != 2 ^ 24 - 1 && !s.fifthRound && s.strand.sync.reply.isNone &&
      s.strand.preq.isNone) = true ∧
    ([region 1 0, region 1 2].all fun s =>
      let t := pressed s
      good t && calm t && !t.provisional t.me && t.strand.preq.isSome && t.strand.causes == [] && !t.fifthRound) = true ∧
    (good (region 1 0xFFFF_FE00) = true ∧ rgsRound (region 1 0xFFFF_FE00).strand.csr.rgs = 2 ^ 24 - 2 ∧
      (region 1 0xFFFF_FE00).fifthRound = false) ∧
    ((inMode one .S).strand.mode ≠ .U ∧ (inMode one .S).strand.sync.reply = none) ∧
    (good (region 1 2) = true ∧ (region 1 2).strand.preq = none ∧ (shapeSource (region 1 0)).strand.preq = none ∧ rgsState (region 1 2).strand.csr.rgs = 2) ∧
    (good (region 1 1) = true ∧ rgsState (region 1 1).strand.csr.rgs = 1 ∧ rgsState (region 1 4).strand.csr.rgs = 4) ∧
    ([region 1 1, stale (region 1 1)].all fun s => good s && calm s && !rgsHeavy s.strand.csr.rgs && s.strand.region.opened &&
      !s.strand.region.atEnd && s.strand.sync.reply.isNone && s.blocked == [] && s.tags == [] && !s.provisional s.me &&
      !(Fmt.f32.decode 0x3F80_0000).isNaN) = true ∧
    (let s := shapeSource (region 1 0)
     good s && s.provisional s.me) = true ∧
    (∀ r ∈ (region 1 1).strand.region.reads, r.marked = false) ∧
    (∃ r ∈ (stale (region 1 1)).strand.region.reads, r.marked = true) ∧
    ((inRegion one).strand.inRegion = true ∧ (inRegion one).strand.mode = .U) ∧
    ((inMode (inRegion one) .S).strand.inRegion = true ∧ (inMode (inRegion one) .S).strand.mode ≠ .U) := by decide +kernel

/-- R247: a request that is pending in U when `prop.begin` opens its region again is taken at once. -/
theorem test_region_takes_request : ran .propBegin (pressed (region 1 2)) (fun t =>
    t.strand.causes == [(1, BitVec.allOnes 64)] && rgsState t.strand.csr.rgs == 1) = true := by decide +kernel

/-- R195, R284: `shape` leaves a release tag of module scope on the line of the word. -/
theorem test_shape_releases : ran (.shape 5 6) ((withX 6 glob).setX 5 9) (fun t =>
    (t.tagAt (.line glob.toNat)).any (fun u => u.scope == 5) && t.mem.nat glob.toNat 8 == 2 ^ 63 + 9) = true := by decide +kernel

/-- A member that waits at the strand's `troupe.join` with size `n`. -/
def joining (n : Nat) (p : Strand) : Strand := { p with sync := { p.sync with joinN := some (p.pc, BitVec.ofNat 64 n), held := true } }
def inTroupe (n lead : Nat) : State := one.withStrand fun p => { p with troupe := { p.troupe with size := n, lead := lead } }
def mayJoin (s : State) (n : Nat) : Bool :=
  let i := s.strand.ident
  s.strand.mode == .U && s.strand.sync.reply.isNone && s.strand.sync.joinN.isNone && s.strand.troupe.size == 0 &&
  [2, 4, 8, 16].contains n && !s.strand.inRegion && s.memberOn i s.me.core == some (s.me.key, s.strand) &&
  ((s.joinPeers n).all fun q => q.2.sync.joinN == some (s.strand.pc, BitVec.ofNat 64 n)) &&
  (State.segment s.me.core n).all fun c => (s.memberOn i c).any fun q => q.2.troupe.size == 0
def allJoin (s : State) (n : Nat) : Bool := (State.segment s.me.core n).all fun c => c == s.me.core ||
  (s.memberOn s.strand.ident c).all fun q => (s.strandAt (Sid.ofKey q.1)).sync.joinN == some (s.strand.pc, BitVec.ofNat 64 n) &&
    (s.strandAt (Sid.ofKey q.1)).sync.reply.isNone

/-- A member of the segment of `n` cores waits at the join with another size, or a core of the segment holds none to join. -/
def failsJoin (s : State) (n : Nat) : Bool :=
  s.strand.mode == .U && s.strand.sync.reply.isNone && s.strand.sync.joinN.isNone && s.strand.troupe.size == 0 &&
  !s.strand.inRegion && [2, 4, 8, 16].contains n &&
  ((s.joinPeers n).any (fun q => q.2.sync.joinN != some (s.strand.pc, BitVec.ofNat 64 n)) ||
    (State.segment s.me.core n).any fun c => match s.memberOn s.strand.ident c with | some q => q.2.troupe.size != 0 | none => true)

theorem witness_TroupeAndStepForms_troupes :
    ([team 16 (others (joining 4)), team 16 (others fun p => { p with troupe := { p.troupe with size := 2 } }), one].all
      fun s => failsJoin s 2) = true ∧
    (one.strand.inRegion = false ∧ (inMode one .S).strand.mode ≠ .U) ∧
    (one.strand.mode = .U ∧ one.strand.sync.reply = none ∧ one.strand.sync.joinN = none ∧ one.strand.troupe.size = 0) ∧
    ((inTroupe 4 0).strand.troupe.size ≠ 0 ∧ 3 ∉ [2, 4, 8, 16] ∧ 0 ∉ [2, 4, 8, 16]) ∧
    ([2, 16].all fun n => mayJoin (team 16 (others (joining n))) n && allJoin (team 16 (others (joining n))) n) = true ∧
    (mayJoin (team 16 fun _ p => p) 4 = true ∧ allJoin (team 16 fun _ p => p) 4 = false) ∧
    (let s := team 16 (others fun p => { joining 4 p with sync := { (joining 4 p).sync with reply := some 0 } })
     mayJoin s 4 = true ∧ allJoin s 4 = false) ∧
    (one.leads = false ∧ (inTroupe 4 0).leads = true ∧ (inTroupe 4 0).strand.mode = .U) := by decide +kernel

theorem witness_TroupeAndStepForms_steps :
    (let s := team 16 (others fun p => { p with ident := { p.ident with ssArr := 1 } })
     [(stepped one, 1), (stepped s, 1), (stepped (team 16 fun _ p => p), 16)].all fun q =>
      let s := q.1
      (s.launchOf s.me).any fun l =>
        s.stepMode && s.strand.mode == .U && s.strand.live && !s.strand.sync.began && !s.unacked s.me && !s.turn.post &&
        s.strand.preq.isNone && l.lrec.step && l.exch.isNone && decide (s.strand.ident.ssArr ≤ l.superstep) && l.kd.xfer == [] &&
        ((s.strandsOf l.num).filter fun t => decide (t.ident.ssArr ≤ l.superstep)).length == q.2) = true ∧
    (one.strand.mode = .U ∧ one.stepMode = false ∧ (one.launchOf one.me).all (fun l => l.exch.isNone) = true) := by decide +kernel

/-- A launch record at `glob` with a delivery class. -/
def record (dclass : Nat) : State := { withX 6 glob with mem := one.mem.writeN glob.toNat (bytesOfNat 8 (2 ^ 11 * dclass)) }

theorem witness_LaunchForms :
    (one.strand.inRegion = false ∧ (0x104 : Word).toNat % 8 ≠ 0) ∧
    ((0x100 : Word).toNat % 8 = 0 ∧ isGlobal 0x100 = false) ∧
    (let last : Word := 0xFFFF_FFFF_FFF8
     last.toNat % 8 = 0 ∧ isGlobal last = true ∧ isGlobal (last + BitVec.ofNat 64 (8 * 1)) = false ∧
     isGlobal (last - 112 + BitVec.ofNat 64 (8 * 14)) = true ∧ isGlobal (last - 112 + BitVec.ofNat 64 (8 * 15)) = false) ∧
    (∀ i, i < 16 → isGlobal (glob + BitVec.ofNat 64 (8 * i)) = true) ∧
    (glob.toNat % 8 = 0 ∧ isGlobal glob = true ∧ (stepped one).computePhase = true ∧ (stepped one).strand.inRegion = false) ∧
    ([(0 : Nat), 1].all fun dc =>
      let s := record dc
      !s.strand.inRegion && !s.computePhase && !s.provisional s.me && s.strand.sync.reply.isNone && s.submits == [] &&
      brings (s.releaseAction 5) fun _ t1 => brings (t1.recordBytes glob 16) fun bytes t2 =>
        t2.turn.post = false ∧ (recWord bytes 0 / 2 ^ 11 % 4 = dc) ∧ (t2.vdevOf t2.me).isSome = true) = true ∧
    brings (one.storeAt glob (bytesOfNat 8 (2 ^ 63 + min 3 (2 ^ 25 - 1))) ⟨5, .release, 0⟩) (fun _ _ => true) = true ∧
    rgsState (region 1 2).strand.csr.rgs ≠ 0 ∧
    (let s := owned
     rgsState s.strand.csr.rgs = 0 ∧ s.strand.sync.sendOut = false ∧ ¬ (s.core.ce.stat = 2 ∧ s.core.ce.owner = s.me.slot) ∧
     s.matrixBusy s.me = false ∧ s.me.slot < 4 ∧ s.core.wbuf = [] ∧ s.core.l1 = [] ∧
     s.fused.contains (clusterOf s.me.core) = false ∧ s.unacked s.me = false ∧ s.core.parked = [] ∧ owns s.core.town 1 s.me.slot = true ∧
     owns s.core.town 11 s.me.slot = false) := by decide +kernel

/-- The copy engine in a state, with a well-formed set of 256 bytes from `glob` to 0x200, or with one of no length. -/
def engine (owner stat len : Nat) : State := one.withCore fun c => { c with ce := { c.ce with
  owner := owner, stat := stat, prog := #v[77, 0, 0, 0]
  active := #v[glob, 0x200, BitVec.ofNat 64 len, 1, 0, 0, 0x300, 9, 1, 0] } }

theorem witness_CopyEngineForms :
    (one.computePhase = false ∧ one.strand.inRegion = false ∧ (engine 0 0 256).core.ce.exch = [] ∧
      (engine 0 0 256).core.ce.stat = 0 ∧ ((engine 0 1 256).core.ce.stat = 1 ∧ (engine 0 1 256).core.ce.owner = one.me.slot)) ∧
    ((0 : Word).toNat < 10 ∧ (9 : Word).toNat < 10 ∧ 10 ≤ (10 : Word).toNat) ∧
    (ceGood (engine 0 1 3).core.ce.active = false ∧ ceGood (engine 0 1 256).core.ce.active = true ∧
      (engine 0 1 256).provisional one.me = false) ∧
    (vgetN (engine 0 2 256).core.ce.prog 0 < 2 ^ 48 ∧ (engine 0 2 256).core.ce.stat ≤ 2) ∧
    ((engine 1 1 256).core.ce.owner ≠ one.me.slot ∧ (engine 0 0 256).core.ce.stat = 0) ∧
    ((engine 0 2 256).core.ce.owner = one.me.slot ∧ (engine 0 2 256).core.ce.stat = 2) ∧
    ([(0 : Nat), 256].all fun len =>
      let words : List Nat := [glob.toNat, 0x200, len, 1, 0, 0, 0x300, 9, 1, 0, 0, 0, 0, 0, 0, 0]
      let s := (engine 0 0 0).withCore fun c => { c with lm := Memory.writeN c.lm 0x400 (words.flatMap (bytesOfNat 8)) }
      let claimed := s.withCore fun c => { c with ce := { c.ce with owner := 0, stat := 1, pre := vsetN c.ce.pre 0 0 } }
      ((List.range 16).all fun j => !s.offMap (0x400 + BitVec.ofNat 64 (8 * j))) &&
      brings (claimed.ceSet 0x400 16) fun l t =>
        ceGood (Vector.ofFn fun j : Fin 10 => l.getD j.val 0 &&& State.ceMask j.val) == (len == 256) && !t.provisional t.me) = true ∧
    ((0x404 : Word).toNat % 8 ≠ 0 ∧ (0xFFF8 : Word).toNat % 8 = 0 ∧ one.offMap 0xFFF8 = false ∧ one.offMap (0xFFF8 + 8) = true) := by
  decide +kernel


/-! Events: `launched` changes the launch of `two`. -/

def launched (f : Launch → Launch) : State := { two with launches := two.launches.map f }
def saved : State := { launched (fun l => { l with pieces := [⟨0, 0, .saved, [⟨0, 0⟩], [0], []⟩], open_ := false }) with
  strands := [], saved := [⟨one.strand, ⟨0, 0⟩, none⟩] }
/-- A device of one cluster, which is retired, a piece that still runs there, and a second launch with a piece to place. -/
def crowded : State :=
  let l := one.launches.headD placedLaunch
  { two with
    launches := [l, { l with num := 2, pieces := [], runAt := some 1, carousels := [⟨0, 0, [(0, 5)]⟩] }]
    retired := [0]
    vdevs := [{ placedVdev with level := 4 }] }

theorem witness_EventsOfCores_placement :
    gets (two.parcelAt codeBase) (fun _ => true) = true ∧
    ((launched fun l => { l with carousels := [⟨0, 0, [(1, 5)]⟩] }).request 1 1).any (fun p => p.1 == false) = true ∧
    ((launched fun l => { l with carousels := [⟨0, 1, [(1, 5)]⟩] }).request 1 1).any (fun p => p.1 == true) = true ∧
    (let s := launched fun l => { l with pieces := l.pieces ++ [⟨0, 1, .placed, [⟨1, 0⟩], [0], []⟩] }
     ((s.launchNo 1).any fun l => (s.vdevNo l.vdev).isSome &&
       (l.pieces.find? fun (p : Piece) => p.stage == 0 && p.idx == 1 && p.st == .placed).any fun p => p.lm.length == p.at_.length) = true) ∧
    ((launched fun l => { l with pieces := l.pieces ++ [⟨0, 1, .placed, [⟨1, 0⟩], [0], []⟩] }).launchNo 1).any (fun l =>
      (l.pieces.find? fun (p : Piece) => p.stage == 0 && p.idx == 1 && p.st == .placed).any fun p =>
        (launched fun l => { l with pieces := l.pieces ++ [⟨0, 1, .placed, [⟨1, 0⟩], [0], []⟩] }).canStart l p) = true ∧
    ((one.launchNo 1).isSome = true) ∧
    ([saved].all fun s => (s.launchNo 1).any fun l => (s.vdevNo l.vdev).isSome && l.runAt.isSome && !s.leaving 1 &&
      s.namesWhole l [⟨0, 0, ⟨0, 0⟩⟩] && s.resumed 1 [⟨0, 0, ⟨0, 0⟩⟩] != [] &&
      (s.vdevNo l.vdev).any fun d => let ps := s.resumed 1 [⟨0, 0, ⟨0, 0⟩⟩]
        State.mayPlace d l && ps.length == 1 && (s.returnAll d 1 [⟨0, 0, ⟨0, 0⟩⟩]).any fun t => t.keepsPromises d 1) = true ∧
    ([crowded].all fun s => (s.launchNo 2).any fun l => (s.vdevNo l.vdev).any fun d => l.runAt.isSome &&
      ((State.lacking l).any fun w => !s.wouldFit d l w []) &&
      ((State.youngest ((s.launches.flatMap (s.victimsOf d)).filter fun v => v.prio == l.lrec.prio)).getLast?).isSome) = true := by
  decide +kernel

def caused (m : Mode) (c : Nat) (ie : Word) : State := (inMode one m).withStrand fun p => { p with
  causes := [(c, 77)], sBank := { p.sBank with status := ie } }
def waiting (bounded : Bool) (n : Nat) : State := withSync one fun y => { y with held := true, bounded := bounded, waited := n, sval := 99 }
def provisional : State := shapeSource (waiting false 0x400_0000)
def onWire (l : List Fwd) (owed : Nat) : State := one.withStrand fun p => { p with troupe := { p.troupe with onWire := l, owed := owed } }

theorem witness_EventsOfCores_strands :
    (one.strand.live = true ∧ one.strand.inRegion = false ∧ one.strand.region.opened = false ∧ one.strand.sync.halted = false ∧
      (one.launchOf me0).all (fun l => !l.lrec.cores) = true) ∧
    ([region 1 1, withSync one fun y => { y with halted := true }].all fun s => s.strand.live && s.strand.mode == .U &&
      (s.strand.inRegion || s.strand.sync.halted && !s.inStep me0) && s.strand.causes.all (fun c => c.1 != 1) &&
      (s.launchOf me0).all fun l => !l.lrec.cores) = true ∧
    ((launched fun l => { l with lrec := { l.lrec with cores := true } }).launchOf me0).any (fun l => l.lrec.cores) = true ∧
    ((one.withStrand fun p => { p with preq := some ⟨true, 2 ^ 20, false⟩ }).preemptDue me0 = true) ∧
    ([caused .U 2 0, caused .S 3 1, caused .U 1 0].all fun s => s.strand.live && s.asyncDue.isSome) = true ∧
    (waiting true 0x20_0000).waitedOut = true ∧ provisional.stalledOut = true ∧
    (let s := one.withCore fun c => { c with recent := some 0, run := 64, order := [0, 1] }
     s.core.recent = some 0 ∧ 64 ≤ s.core.run ∧ s.core.order.contains 0 = true) ∧
    (onWire [.insn 4 [1, 2] none] 0).strand.troupe.onWire = [.insn 4 [1, 2] none] ∧
    (onWire [.dissolve 8] 1).strand.troupe.onWire = [.dissolve 8] ∧ (onWire [] 1).strand.troupe.owed ≠ 0 := by decide +kernel

def engineRuns (src : Word) (due : Bool) : State := one.withCore fun c => { c with ce := { c.ce with
  owner := 0, stat := 2, due := due, active := #v[src, 0x200, 256, 1, 0, 0, 0x300, 9, 1, 0] } }

theorem witness_EventsOfCores_engines :
    (one.withCore fun c => { c with sfu := [0, 1] }).core.sfu = [0, 1] ∧
    (let s := one.withCore fun c => { c with matrix := { c.matrix with queue := [⟨77, true⟩] } }
     s.core.matrix.run = none ∧ s.core.matrix.queue = [⟨77, true⟩]) ∧
    (let m : MRun := ⟨⟨0, true⟩, [.acc 2 5 6], 3, some 9⟩
     let s := one.withCore fun c => { c with matrix := { c.matrix with run := some m } }
     s.core.matrix.run = some m ∧ m.bad = some 9 ∧ (s.strandAt ⟨0, Rec.slot m.cmd.bits⟩).live = true) ∧
    (one.strand.live = true ∧ (queued 8 15).core.matrix.queue.length + (if (queued 8 15).core.matrix.run.isSome then 1 else 0) < 16) ∧
    ((inMode one .S).strand.live = true ∧ (inMode one .S).strand.mode ≠ .U ∧ (3 : Nat) < 4) ∧
    brings ((inMode one .S).releaseAction 5) (fun _ t => t.flights.all fun f => !t.sentBy t.strand.ident.vdev f) = true ∧
    (one.parked = [] ∧
      (one.modStrand me0 fun t => { t with csr := { t.csr with qbind := vsetN t.csr.qbind 0 0 } }).binding 0 0 = none ∧
      ((one.modStrand me0 fun t => { t with csr := { t.csr with qbind := vsetN t.csr.qbind 0 (glob + 3) } }).binding 0 0).any
        (fun b => b.2.getLsbD 1) = true) ∧
    (csrMode one.strand.mode 0 = true ∧ csrRo one.strand.mode 0 = false) ∧
    ([engineRuns 0x9_0000_4000 false].all fun s => s.core.ce.stat == 2 && !s.core.ce.due &&
      match s.ceGather me0 s.core.ce.active 256 0 [] 34 with | .error _ => true | _ => false) = true ∧
    ([engineRuns glob false].all fun s => gets (s.ceGather me0 s.core.ce.active 256 0 [] 34) fun p => p.2.core.ce == s.core.ce &&
      (p.2.engineClear me0 p.1).1 && (p.2.engineClear me0 p.1).2.core.ce == s.core.ce) = true ∧
    (ceProg (engineRuns glob false).core.ce.active = 0 ∧ min ((0 / 256 + 1) * 256) (ceTotal (engineRuns glob false).core.ce.active) = 256) ∧
    (canonical (engineRuns glob true) = true ∧ (engineRuns glob true).core.ce.due = true ∧ (engineRuns glob true).blocked = []) ∧
    (isGlobal codeBase = true ∧ (one.vdevOf me0).isSome = true) := by decide +kernel


/-! Messages: `flying` has messages in flight, channels, and a slice queue of two entries at `glob`. -/

def flying (l : List Flight) : State := { launched (fun l => { l with kd := { l.kd with chans := List.replicate 4 (1, false) } }) with
  flights := l
  mem := two.mem.writeN glob.toNat (bytesOfNat 8 2 ++ bytesOfNat 8 0 ++ bytesOfNat 8 7 ++ bytesOfNat 8 9) }
def isAt (s : State) (n : Nat) (src : Sid) (m : Msg) (done : Bool) : Bool := s.flights[n]? == some ⟨src, m, done⟩

/-- A write of the strand to the line at `glob`, and the line found uncorrectable. -/
def write : Msg := .write [(glob.toNat, 5)] none true [rank0]
def uncorrectable (l : List Flight) : State := { flying l with turn := { two.turn with err := some (glob.toNat / 32) } }

theorem witness_EventsOfMessages_memory :
    (let s := flying [⟨me0, write, false⟩, ⟨me0, write, false⟩]
     isAt s 0 me0 write false = true ∧ s.writeBehind 0 ⟨me0, write, false⟩ = false ∧ s.lineBad (glob.toNat / 32) = false ∧
     isAt s 1 me0 write false = true ∧ s.writeBehind 1 ⟨me0, write, false⟩ = true) ∧
    (let s := uncorrectable [⟨me0, write, false⟩]
     isAt s 0 me0 write false = true ∧ s.writeBehind 0 ⟨me0, write, false⟩ = false ∧ s.lineBad (glob.toNat / 32) = true ∧
     s.sidOfRank rank0 = some me0 ∧ State.ofRankIn rank0 (s.strandAt me0) = true) ∧
    (let l1 : List Flight := [⟨⟨1, 0⟩, .widen (.line 64) ⟨0, me0, 1, 3⟩ 3, false⟩]
     let s := flying (l1 ++ [⟨me0, .read (glob.toNat / 32) none [] [], false⟩])
     s.flights = l1 ++ ⟨me0, .read (glob.toNat / 32) none [] [], false⟩ :: [] ∧ me0.core = 0 ∧ (∀ f ∈ l1, f.src.core ≠ 0) ∧
     s.heldWhole (.line glob.toNat) = false ∧ ({ s with blocked := [(.line glob.toNat, ⟨1, 0⟩, true)] } : State).heldWhole (.line glob.toNat) = true) ∧
    isAt (flying [⟨me0, .read 64 (some 77) [] [], false⟩]) 0 me0 (.read 64 (some 77) [] []) false = true ∧
    isAt (flying [⟨me0, write, true⟩]) 0 me0 write true = true ∧
    isAt (flying [⟨me0, .lmWrite 0 [(0x10, 5)] [] none, true⟩]) 0 me0 (.lmWrite 0 [(0x10, 5)] [] none) true = true ∧
    (let m : Msg := .lmWrite 1 [(0x10, 5)] [(2, true)] none
     isAt (flying [⟨me0, m, false⟩]) 0 me0 m false = true ∧ (flying [⟨me0, m, false⟩]).writeBehind 0 ⟨me0, m, false⟩ = false) ∧
    ([0, 1].all fun module =>
      let m : Miss := ⟨.line 64, me0, ⟨module, me0, 1, 3⟩, 5, 65536⟩
      isAt (flying [⟨me0, .scopeMiss m, false⟩]) 0 me0 (.scopeMiss m) false && (two.mp.module == module) == (module == 0) &&
      ((one.withCore fun c => { c with miss := [m] }).coreAt 0).miss[0]? == some m &&
        two.missDue m && two.missDue { m with tag := { m.tag with lnum := 2 }, age := 0 } && !two.missDue { m with age := 65535 }) = true ∧
    (let s := flying [⟨me0, .widen (.line 64) ⟨0, me0, 1, 3⟩ 3, false⟩]
     isAt s 0 me0 (.widen (.line 64) ⟨0, me0, 1, 3⟩ 3) false = true ∧ s.backInFlight 0 (.line 64) = false) ∧
    (let s := flying [⟨me0, .widen (.line 64) ⟨0, me0, 1, 3⟩ 3, false⟩, ⟨me0, .write [(glob.toNat, 5)] none false [rank0], false⟩]
     isAt s 0 me0 (.widen (.line 64) ⟨0, me0, 1, 3⟩ 3) false = true ∧ s.backInFlight 0 (.line 64) = true) := by decide +kernel

/-- A message is the first on its way, and waits for none of the mesh. -/
def firstOn (s : State) (src : Sid) (m : Msg) (done : Bool) : Bool := isAt s 0 src m done && !s.meshWaits 0

theorem witness_EventsOfMessages_barriers :
    one.strand.ident.born = 0 ∧ one.strand.ident.lnum = 1 ∧ two.isBorn me0 0 = true ∧ two.isBorn me0 5 = false ∧
    firstOn (flying [⟨me0, .barCfg 0 3 5 1 0, false⟩]) me0 (.barCfg 0 3 5 1 0) false = true ∧
    (let m : Msg := .barArr 0 3 1 0
     let s := flying [⟨me0, m, false⟩]
     let t := s.setBar 0 3 ⟨3, 3, 1, false, 1, [1]⟩
     let u := s.setBar 0 3 ⟨4, 6, 3, false, 1, [1]⟩
     firstOn s me0 m false = true ∧ (s.barAt 0 3).n = 0 ∧
     firstOn t me0 m false = true ∧ (t.barAt 0 3).lnum = 1 ∧ (t.barAt 0 3).arr + 1 < (t.barAt 0 3).n ∧
     firstOn u me0 m false = true ∧ (u.barAt 0 3).n ≠ 0 ∧ (u.barAt 0 3).lnum = 1 ∧ (u.barAt 0 3).arr + 1 = (u.barAt 0 3).n) ∧
    ([Msg.barArr 0 3 1 0, .barCfg 0 3 5 1 0].all fun m =>
      let s := flying [⟨me0, .lmWrite 0 [(0x10, 5)] [] none, false⟩, ⟨me0, m, false⟩]
      isAt s 1 me0 m false && s.meshWaits 1) = true ∧
    (let s := withSync (flying [⟨⟨1, 0⟩, .barRel 0 3 false 0, false⟩]) fun y => { y with token := some ⟨3, false, false, 0, true⟩ }
     firstOn s ⟨1, 0⟩ (.barRel 0 3 false 0) false = true ∧ me0.slot < 4 ∧ me0.core = 0 ∧
     (s.strandAt me0).sync.token = some ⟨3, false, false, 0, true⟩ ∧ State.barId 0 3 = 3) ∧
    isAt (flying [⟨me0, .barArr 0 3 1 0, true⟩]) 0 me0 (.barArr 0 3 1 0) true = true ∧
    isAt (flying [⟨me0, .barCfg 0 3 5 1 0, true⟩]) 0 me0 (.barCfg 0 3 5 1 0) true = true ∧
    (let s := team 16 fun _ p => arrived 1 p
     s.strand.sync.wire ≠ 0 ∧ ((State.extentCores s.strand.ident.width 0 1).all fun c => s.arrivedOn s.strand.ident 1 c) = true) := by
  decide +kernel

/-- Queue register 2 of the strand bound to the queue at `glob`, in a mode, in the state that its descriptor's access leaves. -/
def bound (mode : Word) (l : List Word) (n : Nat) : State :=
  let s := queues [] n
  let s := (s.modCsr fun c => { c with qbind := vsetN c.qbind 2 (glob + mode) }).withCore fun c => { c with q := vsetN c.q 2 l }
  match s.binding 0 2 with
  | none => s
  | some b => match s.boundDesc b.1 b.2 with | .at_ _ _ _ t => t | _ => s
/-- What stands at the descriptor that the core finds for queue register 2. -/
def boundAt (s : State) (p : Sid → Word → Nat → Nat → SqDesc → State → Bool) : Bool :=
  (s.binding 0 2).any fun b => match s.boundDesc b.1 b.2 with | .at_ pa room e t => p b.1 b.2 pa room e t | _ => false

theorem witness_EventsOfMessages_channels :
    (let m : Msg := .chan ⟨1, 0, 0⟩ ⟨1, 0, 0⟩ 3 77
     firstOn (flying [⟨me0, m, false⟩]) me0 m false = true ∧ isAt (flying [⟨me0, m, true⟩]) 0 me0 m true = true) ∧
    ((one.withStrand fun p => { p with inbound := [⟨2, 5, true⟩, ⟨3, 6, false⟩, ⟨3, 7, true⟩] }).strandAt me0).inbound =
      [⟨2, 5, true⟩, ⟨3, 6, false⟩] ++ ⟨3, 7, true⟩ :: [] ∧
    ([(bound 1 [] 1, false), (bound 1 [] 4, false), (bound 3 [5, 6] 3, true)].all fun p =>
      let s := p.1
      boundAt s fun w b pa _ e t =>
        w.core == 0 && b.getLsbD 1 == p.2 &&
        canonical s && t.mem == s.mem && t.coreAt 0 == s.coreAt 0 && !t.turn.post && t.tags == [] && t.fused == [] &&
        (s.coreAt 0).l1 == [] && (s.coreAt 0).wbuf == [] && t.parked == [] && (t.flights.all fun f => f.done) && !t.unacked w &&
        s.parked == [] && t.blocked == [] && ([pa, ringAt pa e e.tail] ++ (List.range 4).map fun i => ringAt pa e (e.head + i)).all
          (fun p => !t.lineBad (p / 32)) &&
        (if p.2 then vgetN (s.coreAt 0).q 2 == [5, 6] && decide (e.count < 2 ^ e.lcap)
          else vgetN (s.coreAt 0).q 2 == [] && !vgetN (s.coreAt 0).qBusy 2 && e.count != 0)) = true ∧
    ([[], [1, 2, 3]].all fun l =>
      let s := (flying [⟨me0, .refill 2 [7, 8], false⟩]).withCore fun c => { c with q := vsetN c.q 2 l }
      isAt s 0 me0 (.refill 2 [7, 8]) false && decide (4 - (vgetN (s.coreAt 0).q 2).length < 2) == (l != [])) = true ∧
    (let at_ := glob.toNat
     let s := flying [⟨me0, .requeue 1 at_ 4096 99, false⟩, ⟨me0, .requeue 1 (at_ + 0x200) 4096 99, false⟩]
     isAt s 1 me0 (.requeue 1 (at_ + 0x200) 4096 99) false = true ∧ sqDesc s.mem (at_ + 0x200) 4096 = none ∧
     isAt s 0 me0 (.requeue 1 at_ 4096 99) false = true ∧ canonical s = true ∧ s.parked = [] ∧
     (sqDesc s.mem at_ 4096).any (fun e => decide (e.count < 2 ^ e.lcap) && !s.requeueHeld at_ e && !s.lineBad (at_ / 32) &&
       !s.lineBad (ringAt at_ e e.tail / 32)) = true) ∧
    (let at_ := glob.toNat
     let l : List Flight := [⟨me0, .requeue 1 at_ 4096 99, false⟩]
     let full : State := { flying l with
       mem := two.mem.writeN at_ (bytesOfNat 8 2 ++ bytesOfNat 8 0 ++ bytesOfNat 8 7 ++ bytesOfNat 8 11) }
     let kept : State := { flying l with blocked := [(.line at_, ⟨1, 0⟩, false)] }
     isAt full 0 me0 (.requeue 1 at_ 4096 99) false = true ∧
     (sqDesc full.mem at_ 4096).any (fun e => decide (e.count = 2 ^ e.lcap)) = true ∧
     (sqDesc kept.mem at_ 4096).any (kept.requeueHeld at_) = true ∧
     (sqDesc (uncorrectable l).mem at_ 4096).any (fun e => decide (e.count < 2 ^ e.lcap) && !(uncorrectable l).requeueHeld at_ e &&
       (uncorrectable l).lineBad (at_ / 32)) = true) := by decide +kernel

/-- A region that has reached its end with its round's barrier complete, stale or not; and a superstep with its records. -/
def ending (marked : Bool) : State := (region 1 0x501).withStrand fun p => { p with
  region := { p.region with atEnd := true, next := 6, barrier := 6, alpha := 0x3F80_0000, reads := [⟨glob.toNat / 32, 0, true, marked⟩] }
  sync := { p.sync with held := true } }
/-- The same, with a byte to commit and a value that its draw accepts, or one that it does not. -/
def ended (accepted : Bool) : State := (ending false).withStrand fun p => { p with
  region := { p.region with writes := [(glob.toNat + 256, 9)], alpha := if accepted then 0x3F80_0000 else 0 } }
def exchange (x : List Xfer) (e : Option Exchange) : State :=
  { launched (fun l => { l with lrec := { l.lrec with step := true }, kd := { l.kd with xfer := x }, exch := e }) with
    strands := one.strands.map fun p => (p.1, { p.2 with ident := { p.2.ident with ssArr := 1 } }) }

theorem witness_EventsOfMessages_rounds :
    (let s := one.withStrand fun p => { p with csr := { p.csr with rgs := 0x501 }, region := { p.region with next := 6, barrier := 5 } }
     (s.strandAt me0).live = true ∧ ((s.groupOf (s.strandAt me0)).all fun u => decide (State.roundOf (s.strandAt me0) < u.region.next)) = true) ∧
    ([true, false].all fun m => (ending m).resolvable ((ending m).strandAt me0) && (ending m).stale ((ending m).strandAt me0) == m) = true ∧
    ([true, false].all fun acc =>
      let s := ended acc
      let x := s.strandAt me0
      s.resolvable x && !s.stale x && State.accepts x.csr.fpc x.region.alpha (rgsK x.csr.rgs) == acc && x.region.writes != [] &&
      brings (s.commitReady me0 (State.writeLines x)) fun _ k => !k.stale (k.strandAt me0)) = true ∧
    ([exchange [] none, exchange [⟨0, 0, 0, 1, 0, 0, 0, 0x100, 64, 0, 0⟩] none].all fun s => (s.launchNo 1).any fun l =>
      l.lrec.step && l.exch.isNone && s.allArrived l && s.strandsOf 1 != []) = true ∧
    ([(exchange [⟨1, 0, 0, 1, 0, 0, 0, 0x100, 64, 0, glob⟩] (some ⟨[0], []⟩), true),
      (exchange [⟨2, 0, 0, 1, 0, 0, 0, 0x100, 64, 0, 0x9_0000_0000⟩] (some ⟨[0], []⟩), false)].all fun p => (p.1.launchNo 1).any fun l =>
      l.exch.any fun e => (l.kd.xfer[0]?).any fun x => e.todo.contains 0 && !p.1.xferHeld l e 0 &&
        !((p.1.coreOfRank (State.xferRank l x)).any fun n => (p.1.coreAt n).ce.stat == 2) &&
        (match p.1.moveXfer l x with | .ok (d, _) => d | .error _ => false) == p.2) = true ∧
    (let s : State := { exchange [⟨2, 0, 0, 1, 0, 0, 0, 0x100, 64, 0, glob⟩] (some ⟨[0], []⟩) with
       blocked := [(.line glob.toNat, ⟨1, 0⟩, false)] }
     (s.launchNo 1).any fun l => (l.kd.xfer[0]?).any fun x => match s.moveXfer l x with | .ok (d, _) => !d | .error _ => false) = true ∧
    (let s := exchange [⟨2, 0, 0, 1, 0, 0, 0, 0x100, 64, 0, 0x9_0000_0000⟩] (some ⟨[0], []⟩)
     (s.launchNo 1).any fun l => (l.kd.xfer[0]?).any fun x => match s.moveXfer l x with | .ok _ => false | .error _ => true) = true ∧
    ((exchange [] (some ⟨[], []⟩)).launchNo 1).any (fun l => l.exch == some ⟨[], []⟩) = true := by decide +kernel


def device (f : VDev → VDev) : State := { two with vdevs := two.vdevs.map f }
def manager (f : Mp → Mp) : State := { two with mp := f two.mp }
def journal (digest : V256) : Journal :=
  { seq := 4, nodes := [⟨13, 0, some 3⟩], devs := [], gone := [2], digest := digest, done := false, head := ⟨0, 9, false⟩, val := 3, serial := 1 }

theorem witness_EventsOfTheModule_launches :
    (let w : Submit := ⟨some me0, none, 1, glob, List.replicate 128 0⟩
     let o : Submit := ⟨none, some ⟨1, 9, 1⟩, 1, glob, List.replicate 128 0⟩
     let s : State := { two with submits := [w, o, o] }
     s.submits[0]? = some w ∧ w.who = some me0 ∧ s.submits[1]? = some o ∧ s.submits[2]? = some o ∧ o.who = none ∧
     o.origin = some ⟨1, 9, 1⟩ ∧ s.passes 1 ⟨1, 9, 1⟩ = false ∧ s.passes 2 ⟨1, 9, 1⟩ = true ∧ (s.vdevNo o.vdev).isSome = true) ∧
    two.blocked = [] ∧ two.linked = true ∧
    ((launched fun l => { l with runAt := none, deps := [⟨true, glob, 5, glob.toNat, true⟩] }).launchNo 1).any (fun l =>
      (two.vdevNo l.vdev).isSome && (l.deps.all fun p => (two.tagAt (.line (p.pa / 32 * 32))).isNone) &&
      (l.deps.all fun q => q.sat) && l.runAt.isNone && !two.looksFar l) = true ∧
    ([1, 3, 5].all fun k => ((launched fun l => { l with
        seen := some k, lrec := { l.lrec with shp := true, g := 2 }, p := 4
        allocs := [⟨0x1_0000_8000, 0x8000, 2, true, 0x8000, 65536⟩] }).launchNo 1).any fun l =>
      l.seen == some k && l.delivered.isNone && (two.vdevNo l.vdev).isSome && !two.looksFar l && l.lrec.g == 2 &&
      decide (k < l.lrec.g) == (k == 1) && decide (State.mostPieces l.allocs < k) == (k != 1)) = true ∧
    ((launched fun l => { l with
        delivered := some 1, lrec := { l.lrec with shp := true, g := 1 }, p := 4
        pieces := l.pieces ++ [⟨0, 1, .placed, [⟨1, 0⟩], [0], []⟩] }).launchNo 1).any (fun l =>
      State.surplus l 1 && (l.pieces.find? fun (p : Piece) => p.stage == 0 && p.idx == 1).any fun p => p.st != .squashed) = true ∧
    ((launched fun l => { l with pieces := [⟨0, 0, .ended, [], [], [0]⟩], carousels := [], origin := some ⟨1, 9, 1⟩ }).launchNo 1).any
      (fun l => State.hasEnded l && !two.writesLeft l && (two.doneLine l).isEmpty && l.origin == some ⟨1, 9, 1⟩ && l.lrec.done == 0) = true ∧
    (two.vdevNo 1).any (fun d => gets (two.countUp d glob) (fun _ => true) &&
      (match (uncorrectable []).countUp d glob with | .error b => b | .ok _ => false)) = true ∧
    ((launched fun l => { l with pieces := [⟨0, 0, .ended, [], [], [0]⟩], carousels := [], origin := some ⟨1, 9, 1⟩
                                 lrec := { l.lrec with done := glob } }).launchNo 1).any
      (fun l => State.hasEnded l && !two.writesLeft l && two.blocked == [] && two.tags == [] && l.lrec.done == glob) = true ∧
    (let s := { launched (fun l => { l with pieces := [], carousels := [⟨0, 0, [(0, 1)]⟩], lrec := { l.lrec with fuse := true } }) with
       strands := [] }
     511 ∉ s.fused ∧ s.clusterFree 511 = true ∧ s.wantsKind 511 true = true) ∧
    (let s := { launched (fun l => { l with pieces := [], carousels := [⟨0, 0, [(0, 1)]⟩] }) with strands := [], fused := [511] }
     511 ∈ s.fused ∧ s.clusterFree 511 = true ∧ s.wantsKind 511 false = true) := by decide +kernel

theorem witness_EventsOfTheModule_rest :
    ([true, false].all fun boxing => [true, false].all fun post =>
      let s := device fun d => { d with power := .idle, wclass := 1, idlet := 100, boxing := boxing }
      let s : State := { s with turn := { s.turn with post := post } }
      (s.vdevNo 1).any fun d => d.power == .idle && d.boxing == boxing && d.wclass != 0 && d.idlet != 0 && s.turn.post == post &&
        !s.stopped d.num) = true ∧
    ([1, 2].all fun wclass => [true, false].all fun waking =>
      let s := device fun d => { d with power := .boxed, wclass := wclass, waking := waking, wakeSeq := 7 }
      (s.vdevNo 1).any fun d => d.power == .boxed && d.waking == waking && (!d.nohole || !s.hasHole d.level d.index) &&
        !s.stopped d.num && (s.vdevs.all fun e => e.num != 1 || e == d) &&
        s.vdevs.all fun e => decide (d.wakeSeq ≤ e.wakeSeq)) = true ∧
    (let s := device fun d => { d with power := .boxed, waking := true, nohole := true }
     let t := { s with retired := [0], tree := [⟨13, 0, some 1⟩, ⟨13, 1, none⟩, ⟨12, 1, none⟩] }
     (t.vdevNo 1).any fun d => d.nohole && t.hasHole d.level d.index && (t.newNode d).isSome && !t.changing) = true ∧
    (let s := { device fun d => { d with moving := true } with strands := [] }
     (s.vdevs.find? fun d => d.num == 1 && s.hasLeft d).isSome) = true ∧
    511 ∉ two.retired ∧
    (let s := { two with
       mp := { two.mp with recovery := true }
       host := { two.host with links := Vector.replicate 16 true } }
     s.mp.recovery = true ∧ s.mp.frozen = false ∧ s.host.links[0] = true ∧ s.turn.err = none) ∧
    ((manager fun m => { m with frozen := true }).mp.frozen = true ∧ two.mp.frozen = false) ∧
    (1000 < (manager fun m => { m with mhz := 1001 }).mp.mhz ∧ (manager fun m => { m with mhz := 1000 }).mp.mhz ≤ 1000) ∧
    (0 < 16 ∧ 15 < 16) := by decide +kernel

theorem witness_EventsOfTheModule_journal :
    let d := State.intentDigest 4 [⟨13, 0, some 3⟩]
    (manager fun m => { m with journal := [journal d] }).mp.journal.find? (fun j => !j.done) = some (journal d) ∧
    (journal d).digest = State.intentDigest (journal d).seq (journal d).nodes ∧ (journal d).gone = [2] := by
  simp only [manager, journal, List.find?, Bool.not_false, and_self]

/-- The device that the record removes is boxed, and nothing of it is left. -/
theorem witness_EventsOfTheModule_gone :
    let s : State := { two with vdevs := [placedVdev, { placedVdev with num := 2, power := .boxed }] }
    (s.vdevNo 2).any (fun d => d.power == .boxed && s.nothingLeft d) = true ∧ s.linked = true ∧ s.mp.frozen = false := by
  decide +kernel

theorem witness_EventsOfTheModule_damaged :
    (journal 0).digest ≠ State.intentDigest (journal 0).seq (journal 0).nodes := by decide +kernel

/-! Hosts: queue 1 is bound to the device, and the manager has accepted the features. -/

def hosted (f : VDev → VDev) : State := { device f with
  host := { two.host with queues := [(1, ⟨1, 0, 1, 1, 0, false, 0⟩)] }
  mp := { two.mp with features := some 7, booted := true, recovery := false } }
def head (q : Nat) : HostHead := ⟨q, 9, false⟩
def ready (s : State) : Bool := canonical s && !s.deaf && s.host.waiting == [] && !s.turn.post && !s.turn.join &&
  s.turn.look.isNone && s.linked && s.tags == [] && s.blocked == [] && s.mp.journal.all fun j => j.done

theorem witness_EventsOfHosts_bound :
    (let s := hosted id
     ready s = true ∧ (head 1).ord = false ∧ s.submits = [] ∧
     (s.vdevNo 1).any (fun d => gets ((s.cmdArrives (head 1)).countUp d glob) fun _ => true) = true ∧
     (s.boundTo 1).any (fun p => p.2.power == .running && !p.2.waking && !p.2.boxing &&
       ((s.cmdArrives (head 1)).engineBytes p.2 glob.toNat 128).isSome && glob.toNat % 8 == 0 &&
       ((({ s with turn := { s.turn with post := true } } : State).cmdArrives (head 1)).engineBytes p.2 glob.toNat 128).isSome &&
       (((hosted fun d => { d with runtime := 1 }).cmdArrives (head 1)).eventTarget p.2.num 1 0).isSome &&
       ((s.cmdArrives (head 1)).eventTarget p.2.num 1 0).isSome &&
       ((s.cmdArrives (head 1)).enginePa p.2 .store glob.toNat).isSome) = true) ∧
    (1 ≤ (1 : Word).toNat ∧ (1 : Word).toNat ≤ 2 ^ 40 ∧ (0x100_0000_0000 : Word).toNat ≤ 2 ^ 40 ∧ (0 : Word).toNat % 8 = 0) ∧
    ((0x3FF_FFFF_F000 : Word).toNat % 4096 = 0 ∧ (0x3FF_FFFF_F000 : Word).toNat < 2 ^ 42) ∧
    (100 ≤ (100 : Word).toNat ∧ (10000000 : Word).toNat ≤ 10 ^ 7) ∧ (1000 ≤ (1000 : Word).toNat ∧ (1000000 : Word).toNat ≤ 10 ^ 6) ∧
    (let s := hosted fun d => { d with wclass := 1 }
     (s.boundTo 1).any (fun p => p.2.wclass != 0 && p.2.power == .running && !p.2.waking && !p.2.boxing &&
      ({ s with strands := [], launches := [] } : State).nothingLeft p.2) = true) ∧
    ((2 : Word).toNat ≤ 2 ∧ (1 : Word).getLsbD (hosted id).mp.module = true) := by decide +kernel

theorem witness_EventsOfHosts_management :
    ((head 0).queue = 0 ∧ (hosted id).vdevNo 0 = none ∧ ((hosted id).host.queues.all fun p => p.1 != 0) = true ∧
      (hosted id).rangesGood 1 0 0x200_0000 0 0 = true ∧ ((hosted id).vdevNo 1).any (fun d => d.power != .boxed && d.wclass != 2) = true) ∧
    (((hosted fun d => { d with wclass := 2, wcap := 0x400_0000 }).vdevNo 1).any fun d => d.wclass == 2 && 0x400_0000 ≤ d.wcap) = true ∧
    ((0xFFFF : Word).toNat ≤ 0xFFFF) ∧
    (let s := hosted fun d => { d with level := 4 }
     (s.vdevNo 1).any (fun d => (s.cmdArrives (head 0)).canReserve d 5 1 1) = true ∧ (131071 : Word).toNat < 131072 ∧
      (2 : Word).toNat ≤ 2 ∧ (1 : Word).toNat ≤ 1 ∧ (1 : Word).toNat ≠ 0) ∧
    (two.mp.features = none ∧ two.mp.created = false ∧ (7 : Word).toNat ≤ 7) ∧
    ((hosted id).hasFeature 0 = true ∧ (hosted id).hasFeature 2 = true ∧ (0 : Word).toNat = (hosted id).mp.module ∧
      (63 : Word).toNat ≤ 63 ∧ (hosted id).mp.leaf < 2 ^ 20) ∧
    (let s := { hosted id with vdevs := [], launches := [], strands := [] }
     (s.mp.journal.all fun j => j.done) = true ∧ s.mp.features.isSome = true ∧ s.launches = [] ∧ s.saved = [] ∧
     (s.freeNode 4 false).isSome = true ∧ (s.freeNode 13 false).isSome = true ∧ (s.freeRanges 0x200_0000 0).isSome = true ∧
     s.wakeGood 2 10000000 0x400_0000 0x200_0000 = true) ∧
    ((hosted fun d => { d with power := .idle }).vdevNo 1).any (fun d => d.power != .running) = true ∧
    (let s := { hosted fun d => { d with power := .idle } with strands := [], launches := [] }
     (s.vdevNo 1).any (fun d => d.power != .running && s.nothingLeft d) = true) ∧
    (let s := { hosted id with vdevs := [], launches := [], strands := [] }
     let t := { s with host := { s.host with
       mem := s.host.mem.writeN 0x4000 ([4, 0, 0, 0, 0, 0x200_0000, 0, 0, 0, 0, 0, 0, 1000].flatMap (bytesOfNat 8)) } }
     let o (k : Nat) : Nat := t.imageOp 0x4000 k
     4 ≤ o 0 ∧ o 0 ≤ 13 ∧ o 1 ≤ 1 ∧ o 2 ≤ 2 ∧ o 5 % 0x200_0000 = 0 ∧ o 6 % 0x200_0000 = 0 ∧ o 7 % 4096 = 0 ∧ o 8 ≤ 0xFFFF ∧ o 9 = 0 ∧
     1000 ≤ o 12 ∧ o 12 ≤ 10 ^ 6 ∧ (t.freeNode (o 0) (o 1 == 1)).isSome = true ∧ (t.freeRanges (o 5) (o 6)).isSome = true ∧
     t.wakeGood (o 2) (o 3) (o 4) (o 5) = true ∧ t.mp.features.isSome = true) := by decide +kernel

/-- A copy between host addresses that runs for the device, and one that takes part in the collective group 5. -/
def copy (flags : Word) (gave : Bool) : HCopy :=
  ⟨head 1, 1, 0x4000, 0x8000, 8, flags, 0, if gave then some (bytesOfNat 8 3) else none, 1⟩
def copying (c : HCopy) : State := { hosted id with host := { (hosted id).host with
  copies := [c], groups := [⟨5, 1, 1, 0, 0⟩] } }

theorem witness_EventsOfHosts_others :
    (0 % 256 = 0 ∧ 6 < 7 % 256 ∧ 6 < 255 % 256 ∧ (512 + 1) / 512 ≠ 0 ∧ 6 % 256 = 6 ∧ 6 / 512 = 0 ∧ 19 < 20 ∧
      ((hosted id).boundTo 1).any (fun p => p.2.power == .running && !p.2.waking && !p.2.boxing) = true ∧
      (hosted id).boundTo 5 = none) ∧
    ([copy 3 false].all fun c => (copying c).host.copies[0]? == some c && c.flags.getLsbD 0 && c.flags.getLsbD 1 && !c.flags.getLsbD 2 &&
      c.done == 0 && ((copying c).vdevNo c.vdev).isSome) = true ∧
    ([copy (4 + 2 + 5 * 0x1_0000_0000) true].all fun c => (copying c).contributed 5 == some c && c.part.isSome &&
      (((copying c).groupNum c.vdev 5).any fun g => ((copying c).contributions g (bytesOfNat 8 3)).1 != []) &&
      ((copying c).vdevNo c.vdev).isSome && c.flags.getLsbD 1 && c.done == 0) = true ∧
    (let s := { hosted id with host := { (hosted id).host with peers := [(3, 0x10)] } }
     s.moduleUp 3 = true ∧ 3 ≠ s.mp.module ∧ (s.vdevNo 1).any (fun d => praToPa d 0x8000 == some 0x8000) = true ∧
     mappedPa (s.mp.module * 2 ^ 42 + 0x8000) = true ∧ ([1, 2, 4, 8, 32].all fun n => 0x8000 % n == 0) = true) ∧
    (let s := flying [⟨me0, .remote 77, false⟩]
     s.flights.find? (State.isRemote me0) = some ⟨me0, .remote 77, false⟩) ∧
    ((hosted id).vdevNo 1).isSome = true := by decide +kernel


/-! The machine: `code` puts parcels where the strand fetches; a turn of the schedule may name an event. -/

def code (ps : List Parcel) : State := State.reset.placeCode ps
/-- The same, the code's line held whole by an atomic of another strand (R195). -/
def codeHeld (ps : List Parcel) : State := { code ps with blocked := [(.line codeBase.toNat, ⟨1, 0⟩, true)] }
def turned (s : State) (t : Turn) : State := { s with sched := [t] }
def event (i : Instr) : Turn := { Turn.plain with act := .event i }
def mayIssue (m : State) : Bool :=
  m.strand.live && !m.gated m.me.core && !m.turn.stall.contains m.me.slot && !m.doomed m.me && m.asyncDue.isNone && !m.strand.sync.halted &&
  ((m.launchOf m.me).any fun l => l.open_) && (m.strand.troupe.size == 0 || m.strand.sync.joinN.isSome)

theorem mayIssue_iff (m : State) : mayIssue m = true ↔ MayIssue m := by
  simp [mayIssue, MayIssue, and_assoc]

/-- What the strand fetches when its step begins. -/
noncomputable def fetched (s : State) : Fetched × State :=
  let b := s.begin
  let m : State := { b with me := ⟨0, 0⟩ }
  (m.issued 0 0).enterInsn.fetchNext
noncomputable def fetchesChain (s : State) (decodes : Bool) : Bool :=
  match fetched s with
  | (.chain c ps, f) => (decodeChain c).isSome == decodes && !f.waitsX c ps
  | _ => false

/-- R7, R94: an instruction that holds is not fetched again: other bytes in memory meanwhile do not replace it. -/
theorem test_held_is_kept : (match (((code [0x0560]).withStrand fun p => { p with sync := { p.sync with held := true, insn := [0xF414, 0x0670] } }).fetchNext).1 with
    | .chain _ ps => ps == [0xF414, 0x0670] | _ => false) = true := by decide +kernel

theorem witness_StepRunsDecoded :
    ([code [0xF414, 0x0670], code [0xF82F, 0x0340]].all fun s => let b := s.begin
      b.turn.act == .core 0 && b.candidates 0 == [0] && mayIssue { b with me := ⟨0, 0⟩ }) = true ∧
    fetchesChain (code [0xF414, 0x0670]) true = true ∧ fetchesChain (code [0xF82F, 0x0340]) false = true ∧
    (match (fetched (code [0xF006, 0xF006, 0xF006, 0x2504])).1 with | .bad _ => true | _ => false) = true ∧
    (match (fetched { one with mem := one.mem.writeN 0x2000 (bytesOfNat 8 0) }).1 with | .fault .. => true | _ => false) = true ∧
    (match (fetched (codeHeld [0xF414, 0x0670])).1 with | .wait => true | _ => false) = true ∧
    (let m : State := { (caused .U 2 0).begin with me := ⟨0, 0⟩ }
     m.strand.live = true ∧ m.gated 0 = false ∧ m.turn.stall.contains 0 = false ∧ m.doomed m.me = false ∧ m.asyncDue.isSome = true) ∧
    ((turned one (event .freezePin)).begin.turn.act = .event .freezePin ∧ (turned one (event .freezePin)).begin.mp.frozen = false) ∧
    (let s := turned { one with mp := { one.mp with frozen := true } } (event .clockRecoveryTimer)
     s.begin.turn.act = .event .clockRecoveryTimer ∧ s.begin.mp.frozen = true ∧ runsFrozen .clockRecoveryTimer = false ∧
      runsFrozen .freezePin = true) := by
  decide +kernel

/-- A state whose translation of the code is cached. -/
def warmed (ps : List Parcel) : State :=
  let s := code ps
  (s.vdevOf s.me).elim s fun d =>
    match translate s s.me.core d s.strand.mode .fetch false s.strand.pc with
    | .ok p => p.2
    | .error _ => s

theorem witness_FetchReadsMemory :
    let s := warmed [0xF414, 0x0670]
    let ps : List Parcel := [0xF414, 0x0670]
    State.inRep s.strand = false ∧ s.strand.sync.held = false ∧ decodeParcels ps = some (.add 6 7 5, ps.length) ∧
    ((s.vdevOf s.me).any fun d => (List.range 2).all fun j =>
      let va := s.strand.pc + BitVec.ofNat 64 (2 * j)
      isGlobal va && gets (translate s s.me.core d s.strand.mode .fetch false va) fun p => p.2 = s ∧ p.1.pa % 2 = 0 ∧
        s.isOwn p.1 ∧ s.lineBad (p.1.pa / 32) = false ∧ s.heldWhole (.line (p.1.pa / 32 * 32)) = false ∧ s.turn.icErr ≠ some (p.1.pa / 32) ∧
        (s.coreAt s.me.core).icache = [] ∧ s.mem.nat p.1.pa 2 = (ps.getD j 0).toNat) = true := by
  decide +kernel

theorem witness_RoundTrip : Instr.wf (.ldf 21 6 8 ⟨5, .acquire, 3⟩) = true ∧ encode (.ldf 21 6 8 ⟨5, .acquire, 3⟩) ≠ [] := by
  decide +kernel

theorem witness_StepKeepsCanonical :
    canonical (code [0xF414, 0x0670]) = true ∧ (match step (code [0xF414, 0x0670]) with | .next t => canonical t | _ => false) = true := by
  decide +kernel

end Sys2Proof.Tests
end

section
/-! PROOFS. The scope of the machine: its registers (R7, R12) and the state that module cold reset leaves. -/

namespace Sys2Proof.Machine

/-! ## Register writes touch the executing strand only -/

theorem onlyStrand_setX (s : State) (d : XReg) (w : Word) : OnlyStrand s (s.setX d w) :=
  onlyStrand_withStrand s (·.setX d w)

theorem onlyStrand_setV (s : State) (d : VReg) (v : V256) : OnlyStrand s (s.setV d v) :=
  onlyStrand_withStrand s (·.setV d v)

theorem onlyStrand_setB (s : State) (d : BReg) (v : V256) : OnlyStrand s (s.setB d v) :=
  onlyStrand_withStrand s (·.setB d v)

/-- Settles O8: each register file reads back its own writes, the other two are as they were, and a write is an update of the
executing strand. -/
theorem registerWrites : Obligations.RegisterWrites := by
  intro s w v
  refine ⟨?readX, ?readV, ?readB, ?frameX, ?frameV, ?frameB, ?onlyX, ?onlyV, ?onlyB⟩
  case readX => exact fun d r => State.x_setX s d r w
  case readV => exact fun d r => State.v_setV s d r v
  case readB => exact fun d r => State.b_setB s d r v
  case frameX => exact fun d r q => ⟨State.v_setX s d w r, State.b_setX s d w q⟩
  case frameV => exact fun d r q => ⟨State.x_setV s d v r, State.b_setV s d v q⟩
  case frameB => exact fun d r q => ⟨State.x_setB s d v r, State.v_setB s d v q⟩
  case onlyX => exact fun d => onlyStrand_setX s d w
  case onlyV => exact fun d => onlyStrand_setV s d v
  case onlyB => exact fun d => onlyStrand_setB s d v

/-! ## Cold reset: every strand slot and every core holds the reset values -/

@[simp] theorem strandAt_reset (w : Sid) : State.reset.strandAt w = Strand.reset := rfl

@[simp] theorem coreAt_reset (n : Nat) : State.reset.coreAt n = Core.reset := rfl

@[simp] theorem frame_reset (md : Mode) : Strand.reset.frame md = Frame.reset := by
  cases md <;> rfl

/-- Cold reset is the base of the invariant that every step keeps (R5). -/
theorem canonical_reset : Canonical State.reset :=
  have ⟨hmem, hhost, _⟩ := reset_mem_wf
  ⟨hmem, hhost, fun _ hp => absurd hp List.not_mem_nil⟩

/-- Settles O60: no strand and no core is listed at reset, so each reads the reset values of its kind. -/
theorem resetState : Obligations.ResetState := by
  refine ⟨canonical_reset, ?live, rfl, rfl, rfl, rfl, ?cores, ?registers, ?frames⟩
  case live => intro w; rw [strandAt_reset]; rfl
  case cores => intro n; rw [coreAt_reset]; exact ⟨rfl, rfl, rfl, rfl⟩
  case registers => intro w; rw [strandAt_reset]; exact ⟨rfl, rfl, rfl, rfl, rfl, rfl, rfl, rfl⟩
  case frames => intro w md; rw [strandAt_reset, frame_reset]; rfl

end Sys2Proof.Machine
end

section
/-! PROOFS. What memory traffic and the engines leave of a state: its clusters, its devices, its launches (R185 to R202, R345). -/

namespace Sys2Proof.Machine

/-! ## What memory traffic leaves of a state

Everything below a strand's accesses (home slices, LM ports, L1s, release tags, engines) leaves the clusters, the devices and
the launches alone, but for what a launch sees of the words that it watches. `State.layout` collects these parts, and each
operation has one equation about it. -/

/-- A launch without what a write to memory can change of it: its view of its dependence words and of its shape word. -/
def Launch.unseen (l : Launch) : Launch := { l with deps := [], seen := none }

/-- The parts of a state that memory traffic leaves alone. -/
structure Layout where
  retired  : List Nat
  fused    : List Nat
  vdevs    : List VDev
  launches : List Launch

def State.layout (s : State) : Layout := ⟨s.retired, s.fused, s.vdevs, s.launches.map Launch.unseen⟩

/-- What every step of a fold leaves alone, the fold leaves alone. -/
theorem foldl_leaves {α β γ : Type} (π : α → γ) (f : α → β → α) (hf : ∀ a b, π (f a b) = π a) (l : List β) (a : α) :
    π (l.foldl f a) = π a := by
  induction l generalizing a with
  | nil => rfl
  | cons b l ih => exact (ih (f a b)).trans (hf a b)

namespace State

theorem retired_of_layout {s t : State} (h : t.layout = s.layout) : t.retired = s.retired := congrArg Layout.retired h
theorem fused_of_layout {s t : State} (h : t.layout = s.layout) : t.fused = s.fused := congrArg Layout.fused h
theorem vdevs_of_layout {s t : State} (h : t.layout = s.layout) : t.vdevs = s.vdevs := congrArg Layout.vdevs h

/-! ### Home slices and LM ports -/

@[simp] theorem layout_modCore (s : State) (n : Nat) (f : Core → Core) : (s.modCore n f).layout = s.layout := rfl
@[simp] theorem layout_wake (s : State) (p : Target) : (s.wake p).layout = s.layout := rfl
@[simp] theorem layout_dropBlocks (s : State) (w : Sid) : (s.dropBlocks w).layout = s.layout := rfl
@[simp] theorem layout_dropTlb (s : State) (v : Nat) (va : Option Nat) : (s.dropTlb v va).layout = s.layout := rfl
@[simp] theorem layout_received (s : State) (core line : Nat) : (s.received core line).layout = s.layout := rfl

theorem map_unseen_look (word : Nat → Nat) (ls : List Launch) :
    (ls.map (lookLaunch word)).map Launch.unseen = ls.map Launch.unseen := by
  rw [List.map_map]; rfl

/-- A state that differs in memory's parts, and in what its launches see. -/
theorem layout_look {s t : State} (word : Nat → Nat) (hr : t.retired = s.retired) (hf : t.fused = s.fused) (hv : t.vdevs = s.vdevs)
    (hl : t.launches = s.launches.map (lookLaunch word)) : t.layout = s.layout := by
  rw [layout, layout, hr, hf, hv, hl, map_unseen_look]

@[simp] theorem layout_sliceWrite (s : State) (cells : List Host.Cell) (tag : Option Tag) : (s.sliceWrite cells tag).layout = s.layout :=
  (foldl_leaves layout _ (fun s _ => layout_wake s _) _ _).trans (layout_look _ rfl rfl rfl rfl)

@[simp] theorem layout_zeroMem (s : State) (pa n : Nat) : (s.zeroMem pa n).layout = s.layout :=
  layout_look (s := s) (t := s.zeroMem pa n) _ rfl rfl rfl rfl

@[simp] theorem layout_servePort (s : State) (core word : Nat) (l : List PortReq) : (s.servePort core word l).layout = s.layout := by
  induction l generalizing s with
  | nil => rfl
  | cons r rest ih =>
    unfold servePort
    split
    · exact ih s
    · exact ih _

@[simp] theorem layout_lmPortWrite (s : State) (core : Nat) (cells : List Host.Cell) (bits : List (Nat × Bool)) (tag : Option Tag) :
    (s.lmPortWrite core cells bits tag).layout = s.layout := by
  refine (foldl_leaves layout _ (fun s p => ?_) _ _).trans (foldl_leaves layout _ (fun s w => layout_wake s _) _ _)
  split
  · exact layout_servePort ..
  · rfl

/-! ### Writes in flight -/

@[simp] theorem layout_postEvent (s : State) (v status lnum : Nat) (val : Word) : (s.postEvent v status lnum val).layout = s.layout := by
  unfold postEvent; split <;> rfl

@[simp] theorem layout_lateError (s : State) (core : Nat) (r : Rank) (line : Nat) : (s.lateError core r line).layout = s.layout := by
  unfold lateError
  cases s.sidOfRank r with
  | some w => rfl
  | none =>
    dsimp only
    split
    · rfl
    · cases s.rankDev core r with
      | none => rfl
      | some d => exact layout_postEvent ..

@[simp] theorem layout_landWrite (s : State) (w : Sid) (by_ : List Rank) (cells : List Host.Cell) (tag : Option Tag) :
    (s.landWrite w by_ cells tag).layout = s.layout := by
  refine (foldl_leaves layout _ (fun s l => foldl_leaves layout _ (fun s r => layout_lateError ..) _ _) _ _).trans ?_
  exact (layout_sliceWrite ..).trans (foldl_leaves layout _ (fun s l => layout_received ..) _ _)

@[simp] theorem layout_performAt (s : State) (n : Nat) (stay : Bool) : (s.performAt n stay).layout = s.layout := by
  unfold performAt
  cases s.flights[n]? with
  | none => rfl
  | some f =>
    dsimp only
    split
    · rfl
    · cases (tagOf f.msg).bind (s.narrowAt (placesOf f.msg)) with
      | some p => rfl
      | none =>
        dsimp only
        split
        · exact layout_landWrite ..
        · exact layout_lmPortWrite ..
        · rfl

@[simp] theorem layout_performAll (s : State) (p : Flight → Bool) : (s.performAll p).layout = s.layout := by
  refine foldl_leaves layout _ (fun s n => ?_) _ _
  split
  · exact layout_performAt ..
  · rfl

@[simp] theorem layout_send (s : State) (f : Flight) : (s.send f).layout = s.layout := by
  unfold send
  split
  · rfl
  · exact (layout_performAt ..).trans (layout_performAll ..)

@[simp] theorem layout_sendNow (s : State) (f : Flight) : (s.sendNow f).layout = s.layout := layout_send s.atOnce f

@[simp] theorem layout_settleLm (s : State) (from_ core : Nat) (ps : List Target) : (s.settleLm from_ core ps).2.layout = s.layout :=
  layout_performAll ..

/-! ### L1s and combining buffers -/

@[simp] theorem layout_writeBack (s : State) (core line : Nat) : (s.writeBack core line).layout = s.layout := by
  unfold writeBack
  cases s.l1Find core line with
  | none => rfl
  | some l =>
    dsimp only
    split
    · rfl
    · exact layout_send ..

@[simp] theorem layout_dropLine (s : State) (core line : Nat) : (s.dropLine core line).layout = s.layout :=
  layout_writeBack s.atOnce core line

@[simp] theorem layout_writeBackAll (s : State) (core : Nat) : (s.writeBackAll core).layout = s.layout := by
  refine foldl_leaves layout _ (fun s c => foldl_leaves layout _ (fun s l => ?_) _ _) _ _
  split
  · rfl
  · exact layout_writeBack ..

@[simp] theorem layout_invalidateAll (s : State) (core : Nat) : (s.invalidateAll core).layout = s.layout :=
  (foldl_leaves layout _ (fun _ _ => layout_modCore ..) _ _).trans (layout_writeBackAll s.atOnce core)

@[simp] theorem layout_drainW (s : State) (core : Nat) (p : WLine → Bool) : (s.drainW core p).layout = s.layout :=
  (foldl_leaves layout _ (fun _ _ => layout_send ..) _ _).trans rfl

/-! ### Release tags and scope misses -/

@[simp] theorem layout_widen (s : State) (p : Target) (t : Tag) (sc : BitVec 3) : (s.widen p t sc).layout = s.layout := by
  cases p <;> rfl

@[simp] theorem layout_firmwareWiden (s : State) (m : Miss) : (s.firmwareWiden m).layout = s.layout := by
  unfold firmwareWiden
  dsimp only
  split
  · exact layout_writeBackAll ..
  · exact (layout_widen ..).trans (layout_writeBackAll ..)

@[simp] theorem layout_deliverMiss (s : State) (m : Miss) : (s.deliverMiss m).layout = s.layout := by
  unfold deliverMiss
  dsimp only
  split
  · rfl
  · split
    · rfl
    · exact layout_firmwareWiden ..

@[simp] theorem layout_sendMiss (s : State) (m : Miss) : (s.sendMiss m).layout = s.layout := by
  unfold sendMiss
  split
  · split <;> rfl
  · exact layout_deliverMiss ..

@[simp] theorem layout_allWide (s : State) (ps : List Target) : (s.allWide ps).2.layout = s.layout := by
  refine foldl_leaves layout _ (fun s p => ?_) _ _
  cases s.tagAt p with
  | none => rfl
  | some t =>
    dsimp only
    split
    · exact layout_sendMiss ..
    · rfl

/-! ### Translation and the copy engine -/

@[simp] theorem layout_leafFor (s : State) (core : Nat) (d : VDev) (va : Nat) : (s.leafFor core d va).2.layout = s.layout := by
  unfold leafFor
  split
  · rfl
  · split
    · rfl
    · split
      · dsimp only
        split <;> rfl
      · rfl

theorem layout_translate {s t : State} {core : Nat} {d : VDev} {m : Mode} {k : Access} {both : Bool} {va : Word} {l : Loc}
    (h : translate s core d m k both va = .ok (l, t)) : t.layout = s.layout := by
  have hleaf := layout_leafFor s core d va.toNat
  unfold translate at h
  split at h
  · simp at h
  · simp at h
  · next lv e s' heq =>
    rw [heq] at hleaf
    split at h
    · simp at h
    · split at h
      · simp at h
      · split at h
        · simp at h
        · simp only [Except.ok.injEq, Prod.mk.injEq] at h
          exact h.2 ▸ hleaf

theorem layout_cePlace {s t : State} {w : Sid} {k : Access} {va : Word} {p : Place} (h : s.cePlace w k va = .ok (p, t)) :
    t.layout = s.layout := by
  unfold cePlace at h
  split at h
  · simp only [Except.ok.injEq, Prod.mk.injEq] at h; rw [h.2]
  · split at h
    · dsimp only at h
      split at h
      · simp only [Except.ok.injEq, Prod.mk.injEq] at h; rw [h.2]
      · simp at h
    · split at h
      · split at h
        · simp at h
        · split at h
          · simp at h
          · next l s' heq =>
            split at h
            · simp at h
            · simp only [Except.ok.injEq, Prod.mk.injEq] at h
              exact h.2 ▸ layout_translate heq
      · simp at h

theorem layout_ceGather (fuel : Nat) {s t : State} {w : Sid} {set : Vector Word 10} {stop i : Nat} {acc ms : List Move}
    (h : s.ceGather w set stop i acc fuel = .ok (ms, t)) : t.layout = s.layout := by
  induction fuel generalizing s i acc with
  | zero =>
    simp only [ceGather, Except.ok.injEq, Prod.mk.injEq] at h
    rw [h.2]
  | succ fuel ih =>
    unfold ceGather at h
    split at h
    · simp only [Except.ok.injEq, Prod.mk.injEq] at h; rw [h.2]
    · dsimp only at h
      split at h
      · simp at h
      · next p s1 h1 =>
        split at h
        · simp at h
        · next q s2 h2 => exact (ih h).trans ((layout_cePlace h2).trans (layout_cePlace h1))

@[simp] theorem layout_ceRead (s : State) (p : Place) (n : Nat) : (s.ceRead p n).2.layout = s.layout := by
  unfold ceRead
  cases p with
  | lm c off => rfl
  | glob l => dsimp only; split <;> rfl

@[simp] theorem layout_engineReads (ms : List Move) (s : State) : (s.engineReads ms).2.layout = s.layout := by
  induction ms generalizing s with
  | nil => rfl
  | cons m ms ih => exact (ih _).trans (layout_ceRead ..)

@[simp] theorem layout_meshReach (s : State) (w : Sid) (p : Place) : (s.meshReach w p).2.layout = s.layout := by
  unfold meshReach
  cases p with
  | glob l => rfl
  | lm c off =>
    dsimp only
    split
    · rfl
    · exact (layout_settleLm ..).trans (layout_settleLm ..)

@[simp] theorem layout_engineClear (s : State) (w : Sid) (ms : List Move) : (s.engineClear w ms).2.layout = s.layout := by
  refine (foldl_leaves (fun r : Bool × State => r.2.layout)
    (fun r (m : Move) => (r.1 || (r.2.meshReach w m.from_).1, (r.2.meshReach w m.from_).2)) (fun _ _ => layout_meshReach ..) _ _).trans ?_
  refine (foldl_leaves layout _ (fun _ _ => layout_performAll ..) _ _).trans (foldl_leaves layout _ (fun s m => ?_) _ _)
  cases m.to_ with
  | lm c off => rfl
  | glob l => dsimp only; split <;> simp

@[simp] theorem layout_enginePut (s : State) (w : Sid) (q : Place × List Byte) : (s.enginePut w q).layout = s.layout := by
  unfold enginePut
  split
  · exact layout_lmPortWrite ..
  · split
    · exact layout_sendNow ..
    · rfl

@[simp] theorem layout_engineMove (s : State) (w : Sid) (ms : List Move) : (s.engineMove w ms).2.layout = s.layout := by
  have hc := layout_engineClear s w ms
  unfold engineMove
  split
  · next t heq => rw [heq] at hc; exact hc
  · next t heq =>
    rw [heq] at hc
    exact (foldl_leaves layout _ (fun _ _ => layout_enginePut ..) _ _).trans ((layout_engineReads ms t).trans hc)

@[simp] theorem layout_ceChunk (s : State) (n : Nat) (stopping : Bool) : (s.ceChunk n stopping).layout = s.layout := by
  unfold ceChunk
  dsimp only
  split
  · rfl
  · split
    · rfl
    · next ms t heq =>
      have hm := (layout_engineMove t ⟨n, (s.coreAt n).ce.owner⟩ ms).trans (layout_ceGather 34 heq)
      split
      · next u hu => rw [hu] at hm; exact hm
      · next u hu => rw [hu] at hm; exact hm

@[simp] theorem layout_stopCopy (s : State) (w : Sid) : (s.stopCopy w).layout = s.layout := by
  unfold stopCopy
  dsimp only
  split
  · split
    · exact layout_ceChunk ..
    · exact layout_ceChunk ..
  · rfl

/-! ### Pre-emption requests -/

@[simp] theorem layout_matrixFinish (s : State) (n : Nat) : (s.matrixFinish n).layout = s.layout := by
  unfold matrixFinish
  dsimp only
  split
  · rfl
  · split
    · split <;> rfl
    · rfl

@[simp] theorem layout_quiesceMatrix (s : State) (w : Sid) : (s.quiesceMatrix w).layout = s.layout := by
  unfold quiesceMatrix
  refine (layout_modCore ..).trans ?_
  split
  · split
    · exact layout_matrixFinish ..
    · rfl
  · rfl

@[simp] theorem layout_quiesce (s : State) (w : Sid) : (s.quiesce w).layout = s.layout :=
  (layout_modCore ..).trans ((layout_stopCopy ..).trans ((layout_modCore ..).trans (layout_quiesceMatrix s w)))

@[simp] theorem layout_preemptNow (s : State) (w : Sid) (val : Word) : (s.preemptNow w val).layout = s.layout := by
  unfold preemptNow
  split
  · rfl
  · exact layout_quiesce s w

@[simp] theorem layout_requestPreempt (s : State) (w : Sid) (urgent : Bool) : (s.requestPreempt w urgent).layout = s.layout := by
  unfold requestPreempt
  dsimp only
  split
  · rfl
  · split
    · exact layout_preemptNow ..
    · rfl

@[simp] theorem layout_makeRoom (s : State) (d : VDev) (lnum : Nat) : (s.makeRoom d lnum).layout = s.layout := by
  unfold makeRoom
  split
  · exact foldl_leaves layout _ (fun _ _ => layout_requestPreempt ..) _ _
  · rfl

/-! ### What launches and devices do to memory -/

@[simp] theorem layout_zeroAlloc (s : State) (d : VDev) (a : Alloc) (from_ dest : Nat) :
    (s.zeroAlloc d a from_ dest).layout = s.layout := by
  unfold zeroAlloc
  split
  · exact layout_zeroMem ..
  · rfl

@[simp] theorem layout_discardWork (s : State) (w : Sid) : (s.discardWork w).layout = s.layout := rfl

@[simp] theorem layout_flushOf (s : State) (w : Sid) : (s.flushOf w).layout = s.layout :=
  (layout_writeBackAll ..).trans (layout_drainW s.atOnce ..)

@[simp] theorem layout_flushCluster (s : State) (cl : Nat) : (s.flushCluster cl).layout = s.layout := by
  unfold flushCluster
  generalize List.range 16 = is
  exact foldl_leaves layout _ (fun _ _ => layout_invalidateAll ..) is s.atOnce

@[simp] theorem layout_flushVdev (s : State) (d : VDev) : (s.flushVdev d).layout = s.layout :=
  (layout_performAll ..).trans
    (foldl_leaves layout _ (fun _ _ => (layout_invalidateAll ..).trans (layout_drainW ..)) _ s.atOnce)

@[simp] theorem layout_arriveLast (s : State) (m : Msg) : (s.arriveLast m).layout = s.layout := by
  unfold arriveLast
  split
  · rfl
  · exact layout_widen ..
  · rfl

end State

end Sys2Proof.Machine
end

section
/-! PROOFS. Launches and devices by their numbers, and what the end of a strand leaves of them. -/

namespace Sys2Proof.Machine

/-! ## Looking up launches and devices by number -/

theorem find?_replaceFirst {α : Type} {p : α → Bool} {f : α → α} (hf : ∀ a, p (f a) = p a) (l : List α) :
    (replaceFirst p f l).find? p = (l.find? p).map f := by
  induction l with
  | nil => rfl
  | cons a l ih => by_cases h : p a = true <;> simp [replaceFirst, h, hf, ih]

theorem map_replaceFirst {α β : Type} {g : α → β} {p : α → Bool} {f : α → α} (hg : ∀ a, g (f a) = g a) (l : List α) :
    (replaceFirst p f l).map g = l.map g := by
  induction l with
  | nil => rfl
  | cons a l ih => by_cases h : p a = true <;> simp [replaceFirst, h, hg, ih]

/-- A fold whose every step leaves `a` as it is. -/
theorem foldl_fixed {α β : Type} {f : α → β → α} {a : α} (l : List β) (h : ∀ b ∈ l, f a b = a) : l.foldl f a = a := by
  induction l with
  | nil => rfl
  | cons b l ih =>
    rw [List.foldl_cons, h b List.mem_cons_self]
    exact ih fun c hc => h c (List.mem_cons_of_mem _ hc)

namespace State

theorem launchNo_num {s : State} {n : Nat} {l : Launch} (h : s.launchNo n = some l) : l.num = n :=
  beq_iff_eq.1 (List.find?_some (p := fun l : Launch => l.num == n) h)

theorem vdevNo_num {s : State} {n : Nat} {d : VDev} (h : s.vdevNo n = some d) : d.num = n :=
  beq_iff_eq.1 (List.find?_some (p := fun d : VDev => d.num == n) h)

theorem launchNo_modLaunch {s : State} {n : Nat} {f : Launch → Launch} {l : Launch} (hl : s.launchNo n = some l)
    (hf : ∀ l, (f l).num = l.num) : (s.modLaunch n f).launchNo n = some (f l) :=
  (find?_replaceFirst (fun l => by rw [hf]) _).trans (congrArg (Option.map f) hl)

theorem vdevNo_modVdev {s : State} {n : Nat} {f : VDev → VDev} {d : VDev} (hd : s.vdevNo n = some d)
    (hf : ∀ d, (f d).num = d.num) : (s.modVdev n f).vdevNo n = some (f d) :=
  (find?_replaceFirst (fun d => by rw [hf]) _).trans (congrArg (Option.map f) hd)

theorem vdevNo_of_layout {s t : State} (h : t.layout = s.layout) (n : Nat) : t.vdevNo n = s.vdevNo n := by
  unfold vdevNo; rw [vdevs_of_layout h]

/-- A launch is found after memory traffic as it was before, but for what it sees. -/
theorem launchNo_of_layout {s t : State} (h : t.layout = s.layout) {n : Nat} {l : Launch} (hl : s.launchNo n = some l) :
    ∃ k, t.launchNo n = some k ∧ k.unseen = l.unseen := by
  have found (u : State) : (u.launches.map Launch.unseen).find? (fun l => l.num == n) = (u.launchNo n).map Launch.unseen :=
    List.find?_map
  have hmap : (t.launchNo n).map Launch.unseen = some l.unseen := by
    rw [← found, show t.launches.map Launch.unseen = s.launches.map Launch.unseen from congrArg Layout.launches h, found, hl]
    rfl
  simpa using hmap

/-! ## The retired clusters and the numbers of the launches -/

/-- What the end of a strand leaves alone as well. -/
def roster (s : State) : List Nat × List Nat := (s.retired, s.launches.map Launch.num)

theorem roster_of_layout {s t : State} (h : t.layout = s.layout) : t.roster = s.roster := by
  have hl := congrArg (fun y : Layout => y.launches.map Launch.num) h
  simp only [layout, List.map_map] at hl
  exact Prod.ext (retired_of_layout h) hl

theorem retired_of_roster {s t : State} (h : t.roster = s.roster) : t.retired = s.retired := congrArg Prod.fst h

theorem launchNo_isSome (s : State) (n : Nat) : (s.launchNo n).isSome = true ↔ n ∈ s.roster.2 := by
  simp [launchNo, roster]

theorem launchNo_of_roster {s t : State} (h : t.roster = s.roster) {n : Nat} {l : Launch} (hl : s.launchNo n = some l) :
    ∃ k, t.launchNo n = some k := by
  rw [← Option.isSome_iff_exists, launchNo_isSome, h, ← launchNo_isSome, hl]; rfl

theorem roster_modLaunch (s : State) (n : Nat) {f : Launch → Launch} (hf : ∀ l, (f l).num = l.num) :
    (s.modLaunch n f).roster = s.roster := Prod.ext rfl (map_replaceFirst hf _)

@[simp] theorem roster_setStrand (s : State) (w : Sid) (t : Strand) : (s.setStrand w t).roster = s.roster := rfl
@[simp] theorem roster_releaseParked (s : State) (r : Rank) : (s.releaseParked r).roster = s.roster := rfl

@[simp] theorem roster_setPiece (s : State) (lnum st idx : Nat) (f : Piece → Piece) : (s.setPiece lnum st idx f).roster = s.roster :=
  roster_modLaunch _ _ fun _ => rfl

@[simp] theorem layout_dissolve (s : State) (lead : Nat) (pc : Word) (redone : Bool) : (s.dissolve lead pc redone).layout = s.layout := by
  refine foldl_leaves layout _ (fun s k => ?_) _ _
  split
  · rfl
  · cases redone <;> rfl

@[simp] theorem layout_freeWires (s : State) (lnum st idx : Nat) : (s.freeWires lnum st idx).layout = s.layout := by
  unfold freeWires; dsimp only; split <;> rfl

@[simp] theorem layout_completeRound (s : State) (t : Strand) : (s.completeRound t).layout = s.layout := by
  unfold completeRound; dsimp only; split <;> rfl

@[simp] theorem layout_dropSaved (s : State) (p : Saved → Bool) : (s.dropSaved p).layout = s.layout :=
  foldl_leaves layout (fun s (v : Saved) => s.releaseParked v.strand.rankOf) (fun _ _ => rfl) (s.saved.filter p) s

@[simp] theorem roster_endStrand (s : State) (w : Sid) : (s.endStrand w).roster = s.roster := by
  have hround (t : State) : (if t.turn.post then t else
      (t.groupOf { s.strandAt w with live := true }).foldl (fun s u => s.completeRound u) t).roster = t.roster := by
    split
    · rfl
    · exact foldl_leaves roster _ (fun s u => roster_of_layout (layout_completeRound s u)) _ _
  have hparting : (if (s.strandAt w).troupe.size != 0 && (s.strandAt w).troupe.lead == w.key then
      (s.runtimeUp w).dissolve w.key (s.strandAt w).pc false else s.runtimeUp w).roster = s.roster := by
    split
    · exact (roster_of_layout (layout_dissolve ..)).trans rfl
    · rfl
  unfold endStrand
  dsimp only
  rw [hround, roster_of_layout (layout_freeWires ..), roster_setStrand, roster_releaseParked, roster_modLaunch, roster_setPiece]
  · exact hparting
  · exact fun _ => rfl

end State

end Sys2Proof.Machine
end

section
/-! PROOFS. The events of launches (R277 to R287), and fused clusters (R181). -/

namespace Sys2Proof.Machine

namespace State

/-! ## Launches: admission, start, shape, squash and end -/

/-- A program's record is answered in the strand that has sent it (R277). -/
theorem admitNext_replies {s : State} {n : Nat} {p : Submit} {w : Sid} (hp : s.submits[n]? = some p) (hw : p.who = some w) :
    ((s.admitNext n).strandAt w).sync.reply.isSome = true := by
  obtain ⟨who, origin, vdev, addr, bytes⟩ := p
  obtain rfl : who = some w := hw
  simp [admitNext, admitSubmit, hp, Strand.modSync, modStrand]

theorem admitNext_host {s : State} {n : Nat} {p : Submit} {o : Origin} {d : VDev} (hp : s.submits[n]? = some p)
    (hw : p.who = none) (ho : p.origin = some o) (hd : s.vdevNo p.vdev = some d) :
    s.admitNext n = if s.passes n o then s
      else ({ s with submits := s.submits.eraseIdx n }.admitHost o d p.bytes).settleVdev d.num := by
  simp only [admitNext, hp, hw, ho, hd]

theorem lookFar_near {s : State} {lnum : Nat} {l : Launch} (hl : s.launchNo lnum = some l) (hfar : s.looksFar l = false) :
    s.lookFar lnum = s := by
  simp [lookFar, hl, hfar]

/-- Where no release tag and no held write stands, an engine acquires at once (entry 94). -/
theorem allWide_clear {s : State} {ps : List Target} (hb : s.blocked = []) (ht : ∀ p ∈ ps, s.tagAt p = none) :
    s.allWide ps = (true, s) := by
  unfold allWide
  rw [foldl_fixed ps fun p hp => by rw [ht p hp]]
  have hall : (ps.all fun p => ((s.tagAt p).all fun t => decide (5 ≤ t.scope.toNat)) && !s.blocked.any fun q => q.1 == p) = true :=
    List.all_eq_true.2 fun p hp => by simp [ht p hp, hb]
  exact Prod.ext hall rfl

/-- With every dependence word satisfied the launch becomes runnable, whatever it then pre-empts (R278, R281). -/
theorem runLaunch_runs {s : State} {d : VDev} {l : Launch} (hl : s.launchNo l.num = some l) (hsat : ∀ q ∈ l.deps, q.sat = true)
    (hrun : l.runAt = none) (hb : s.blocked = []) (ht : ∀ q ∈ l.deps, s.tagAt (.line (q.pa / 32 * 32)) = none) :
    ∃ k, (s.runLaunch d l).launchNo l.num = some k ∧ k.runAt.isSome = true := by
  have hwide : s.allWide (depLines l) = (true, s) :=
    allWide_clear hb fun p hp => by
      obtain ⟨q, hq, rfl⟩ := List.mem_map.1 hp
      exact ht q hq
  have hall : l.deps.all (·.sat) = true := List.all_eq_true.2 hsat
  have hset : (s.modLaunch l.num fun l => { l with runAt := some s.nextRun }).launchNo l.num =
      some { l with runAt := some s.nextRun } := launchNo_modLaunch hl fun _ => rfl
  obtain ⟨k, hk, hsame⟩ := launchNo_of_layout (layout_makeRoom _ d l.num) hset
  have hstep : s.runLaunch d l = (s.modLaunch l.num fun l => { l with runAt := some s.nextRun }).makeRoom d l.num := by
    simp [runLaunch, hrun, hall, hwide]
  refine ⟨k, hstep ▸ hk, ?_⟩
  have hrunAt : k.runAt = some s.nextRun := congrArg Launch.runAt hsame
  rw [hrunAt]; rfl

theorem satisfyDep_runs {s : State} {lnum i : Nat} {l : Launch} {p : Dep} {d : VDev} (hl : s.launchNo lnum = some l)
    (hd : s.vdevNo l.vdev = some d) (hp : l.deps[i]? = some p) (hsat : ∀ q ∈ l.deps, q.sat = true) (hrun : l.runAt = none)
    (hfar : s.looksFar l = false) (hb : s.blocked = []) (ht : ∀ q ∈ l.deps, s.tagAt (.line (q.pa / 32 * 32)) = none) :
    ∃ k, (s.satisfyDep lnum i).launchNo lnum = some k ∧ k.runAt.isSome = true := by
  obtain rfl := launchNo_num hl
  have hstep : s.satisfyDep l.num i = s.runLaunch d l := by
    simp [satisfyDep, lookFar_near hl hfar, hl, hp, hd, hsat p (List.mem_of_getElem? hp)]
  rw [hstep]
  exact runLaunch_runs hl hsat hrun hb ht

/-- Launch `n` stands, with a size delivered to it and a status. -/
def Answered (s : State) (n : Nat) (size : Option Nat) (status : Nat) : Prop :=
  ∃ l, s.launchNo n = some l ∧ l.delivered = size ∧ l.status = status

theorem Answered.of_layout {s t : State} {n st : Nat} {k : Option Nat} (h : s.Answered n k st) (ht : t.layout = s.layout) :
    t.Answered n k st := by
  obtain ⟨l, hl, hk, hst⟩ := h
  obtain ⟨l', hl', hsame⟩ := launchNo_of_layout ht hl
  exact ⟨l', hl', (congrArg Launch.delivered hsame).trans hk, (congrArg Launch.status hsame).trans hst⟩

theorem Answered.modLaunch {s : State} {n st : Nat} {k : Option Nat} (h : s.Answered n k st) {f : Launch → Launch}
    (hnum : ∀ l, (f l).num = l.num) (hk : ∀ l, (f l).delivered = l.delivered) (hst : ∀ l, (f l).status = l.status) :
    (s.modLaunch n f).Answered n k st := by
  obtain ⟨l, hl, hd, hs⟩ := h
  exact ⟨f l, launchNo_modLaunch hl hnum, (hk l).trans hd, (hst l).trans hs⟩

theorem Answered.trim {s : State} {l : Launch} {st k : Nat} {size : Option Nat} (h : s.Answered l.num size st) :
    (s.trim l k).Answered l.num size st := by
  refine Answered.of_layout (Answered.modLaunch (Answered.of_layout h ?_) ?_ ?_ ?_) (layout_dropTlb ..)
  case refine_1 => exact foldl_leaves layout _ (fun _ _ => layout_discardWork ..) _ _
  all_goals exact fun _ => rfl

theorem Answered.grow {s : State} {d : VDev} {l : Launch} {st n : Nat} {size : Option Nat} (h : s.Answered l.num size st) :
    (s.grow d l n).Answered l.num size st := by
  refine Answered.modLaunch (Answered.of_layout h ?_) ?_ ?_ ?_
  case refine_1 => exact foldl_leaves layout _ (fun _ _ => layout_zeroAlloc ..) _ _
  all_goals exact fun _ => rfl

/-- The size is delivered once, and the status says whether it fits (R284, R287). -/
theorem deliverShape_answers {s : State} {lnum k : Nat} {l : Launch} {d : VDev} (hl : s.launchNo lnum = some l)
    (hd : s.vdevNo l.vdev = some d) (hseen : l.seen = some k) (hnot : l.delivered = none) (hfar : s.looksFar l = false) :
    (s.deliverShape lnum).Answered lnum (some k) (if k < l.lrec.g then 16 else if mostPieces l.allocs < k then 17 else l.status) := by
  obtain rfl := launchNo_num hl
  have hcut : min k (mostPieces l.allocs) < k ↔ mostPieces l.allocs < k := by omega
  have hset : ((s.learn d.num l.lrec.kdesc l.lrec.pred k).modLaunch l.num fun e => { e with
      delivered := some k
      status := if k < e.lrec.g then 16 else if min k (mostPieces l.allocs) < k then 17 else e.status }).Answered l.num (some k)
        (if k < l.lrec.g then 16 else if mostPieces l.allocs < k then 17 else l.status) := by
    refine ⟨_, launchNo_modLaunch hl fun _ => rfl, rfl, ?_⟩
    simp only [hcut]
  unfold deliverShape
  simp only [lookFar_near hl hfar, hl, hd, hseen, hnot]
  split
  · exact Answered.trim (Answered.of_layout hset rfl)
  · split
    · refine Answered.of_layout ?_ (layout_makeRoom ..)
      exact Answered.grow (Answered.of_layout hset rfl)
    · exact Answered.of_layout hset rfl

/-! ### The squash of a surplus piece (R287) -/

@[simp] theorem layout_zeroProv (s : State) (l : Launch) (idx : Nat) : (s.zeroProv l idx).layout = s.layout :=
  (layout_sliceWrite ..).trans rfl

/-- A strand that a squash ends. -/
theorem roster_squashStrand (s : State) (w : Sid) :
    (((({ s with me := w }.discardWork w).cancelWaits).endStrand w).dropBlocks w).roster = s.roster :=
  (roster_of_layout (layout_dropBlocks ..)).trans ((roster_endStrand ..).trans rfl)

/-- Every piece of stage 0 and an index is squashed once `setPiece` has said so. -/
theorem squashed_setPiece {s : State} {lnum idx : Nat} {l : Launch} (hl : s.launchNo lnum = some l) :
    ∃ k, (s.setPiece lnum 0 idx fun p => { p with st := .squashed }).launchNo lnum = some k ∧
      ∀ q ∈ k.pieces, q.stage = 0 → q.idx = idx → q.st = .squashed := by
  refine ⟨_, launchNo_modLaunch hl fun _ => rfl, fun q hq hst hidx => ?_⟩
  obtain ⟨p, -, rfl⟩ := List.mem_map.1 hq
  by_cases hp : p.stage = 0 ∧ p.idx = idx
  · rw [if_pos hp]
  · rw [if_neg hp] at hst hidx
    exact absurd ⟨hst, hidx⟩ hp

theorem squash_squashes {s : State} {lnum idx : Nat} {l : Launch} {p : Piece} (hl : s.launchNo lnum = some l)
    (hp : (l.pieces.find? fun (p : Piece) => p.stage == 0 && p.idx == idx) = some p) (hsur : surplus l idx = true)
    (hst : p.st ≠ .squashed) :
    ∃ k, (s.squash lnum idx).launchNo lnum = some k ∧ ∀ q ∈ k.pieces, q.stage = 0 → q.idx = idx → q.st = .squashed := by
  have hended := foldl_leaves roster _ roster_squashStrand p.at_ s
  unfold squash
  simp only [hl, hp, hsur, Bool.not_true, Bool.false_or, beq_iff_eq, if_neg hst]
  revert hended
  generalize p.at_.foldl _ s = u
  intro hended
  have hleft (v : Saved → Bool) : (({ u with me := s.me }.dropSaved v).zeroProv l idx).roster = s.roster :=
    (roster_of_layout ((layout_zeroProv ..).trans (layout_dropSaved ..))).trans hended
  obtain ⟨k, hk⟩ := launchNo_of_roster (hleft fun v =>
    v.strand.ident.lnum == lnum && v.strand.ident.stage == 0 && v.strand.ident.piece == idx) hl
  obtain ⟨j, hj, hall⟩ := squashed_setPiece (idx := idx) hk
  obtain ⟨i, hi, hsame⟩ := launchNo_of_layout (layout_freeWires _ lnum 0 idx) hj
  have hpieces : i.pieces = j.pieces := (congrArg Launch.pieces hsame :)
  exact ⟨i, hi, hpieces ▸ hall⟩

/-! ### The end of a launch (R279) -/

theorem linked_of_links {s t : State} (h : t.host.links = s.host.links) : t.linked = s.linked := by
  unfold linked; rw [h]

/-- With a link up a completion is written behind those that stand (R311, R316). -/
theorem comps_complete {s : State} (h : s.linked = true) (q tag st n : Nat) (val : Word) (sig : V256) :
    (s.complete q tag st n val sig).host.comps = s.host.comps ++ [⟨q, tag, st, n, val, sig⟩] := by
  simp only [complete, report, h, if_true]; rfl

theorem host_wake (s : State) (p : Target) : (s.wake p).host = s.host := rfl

theorem host_sliceWrite (s : State) (cells : List Host.Cell) (tag : Option Tag) : (s.sliceWrite cells tag).host = s.host :=
  (foldl_leaves State.host _ (fun s _ => host_wake s _) _ _).trans rfl

/-- A completion counter is one write at a slice, or goes to another module. -/
theorem countUp_leaves {γ : Type} (π : State → γ) (hπ : ∀ s cells tag, π (State.sliceWrite s cells tag) = π s) {s u : State}
    {d : VDev} {va : Word} (h : s.countUp d va = .ok u) : π u = π s := by
  unfold countUp at h
  split at h
  · simp at h
  · simp at h
  · simp only [Except.ok.injEq] at h
    rw [← h]
    split
    · exact hπ ..
    · rfl

theorem countLaunch_leaves {γ : Type} (π : State → γ) (hπ : ∀ s cells tag, π (State.sliceWrite s cells tag) = π s) (s : State)
    (l : Launch) (st : Nat) (val : Word) : π (s.countLaunch l st val).2.2 = π s := by
  unfold countLaunch
  split
  · rfl
  · split
    · rfl
    · split
      · next u hu => exact countUp_leaves π hπ hu
      · rfl
      · rfl

/-- A device that settles changes in the list of the devices only. -/
theorem settleVdev_leaves {γ : Type} (π : State → γ) (hπ : ∀ s v f, π (State.modVdev s v f) = π s) (s : State) (v : Nat) :
    π (s.settleVdev v) = π s := by
  unfold settleVdev
  split
  · split
    · exact hπ ..
    · rfl
  · rfl

theorem launchNo_forget (s : State) (l : Launch) : (s.forget l).launchNo l.num = none :=
  List.find?_eq_none.2 fun k hk => by
    have hne := (List.mem_filter.1 hk).2
    simpa using hne

theorem countLaunch_counted {s : State} {l : Launch} {st : Nat} {val : Word}
    (h : l.lrec.done = 0 ∨ ∃ d u, s.vdevNo l.vdev = some d ∧ s.countUp d l.lrec.done = .ok u) :
    (s.countLaunch l st val).1 = st ∧ (s.countLaunch l st val).2.1 = val := by
  unfold countLaunch
  split
  · exact ⟨rfl, rfl⟩
  · next d hd =>
    split
    · exact ⟨rfl, rfl⟩
    · next hdone =>
      obtain hz | ⟨d', u, hd', hu⟩ := h
      · exact absurd hz hdone
      · obtain rfl : d = d' := Option.some.inj (hd.symm.trans hd')
        rw [hu]; exact ⟨rfl, rfl⟩

/-- An uncorrectable counter (R67; entry 107). -/
theorem countLaunch_bad {s : State} {l : Launch} {d : VDev} {st : Nat} {val : Word} (hdone : l.lrec.done ≠ 0)
    (hd : s.vdevNo l.vdev = some d) (hbad : s.countUp d l.lrec.done = .error true) :
    s.countLaunch l st val = (8, l.lrec.done, s) := by
  simp only [countLaunch, hd, hdone, if_false, hbad]

theorem launchNo_endLaunch (s : State) (l : Launch) (st : Nat) (val : Word) : (s.endLaunch l st val).launchNo l.num = none := by
  unfold endLaunch launchNo
  rw [settleVdev_leaves State.launches fun _ _ _ => rfl]
  exact launchNo_forget _ l

theorem comp_endLaunch {s : State} {l : Launch} {o : Origin} (ho : l.origin = some o) (hs : s.linked = true) (st : Nat) (val : Word) :
    ∃ sig, (⟨o.queue, o.tag, (s.countLaunch l st val).1, l.num, (s.countLaunch l st val).2.1, sig⟩ : Completion) ∈
      (s.endLaunch l st val).host.comps := by
  have hlinked : ((s.countLaunch l st val).2.2.setServing o.serial).linked = true :=
    (linked_of_links (congrArg HostSide.links (countLaunch_leaves State.host host_sliceWrite s l st val))).trans hs
  refine ⟨if l.lrec.step then ((s.countLaunch l st val).2.2.setServing o.serial).signature l else 0, ?_⟩
  unfold endLaunch
  rw [settleVdev_leaves State.host fun _ _ _ => rfl]
  simp only [ho]
  show _ ∈ (State.complete _ _ _ _ _ _ _).host.comps
  rw [comps_complete hlinked]
  exact List.mem_append_right _ (List.mem_singleton.2 rfl)

/-- The completion of a launch that ends from its engine (R279, R316; entry 107). -/
theorem comp_endLaunch_counted {s : State} {l : Launch} {o : Origin} (ho : l.origin = some o) (hs : s.linked = true) :
    ∃ c ∈ (s.endLaunch l l.status l.val).host.comps, c.queue = o.queue ∧ c.tag = o.tag ∧
      (l.lrec.done = 0 ∨ (∃ d u, s.vdevNo l.vdev = some d ∧ s.countUp d l.lrec.done = .ok u) →
        c.status = l.status ∧ c.val = l.val ∧ c.lnum = l.num) ∧
      (∀ d, l.lrec.done ≠ 0 → s.vdevNo l.vdev = some d → s.countUp d l.lrec.done = .error true →
        c.status = 8 ∧ c.val = l.lrec.done ∧ c.lnum = l.num) := by
  obtain ⟨sig, hmem⟩ := comp_endLaunch ho hs l.status l.val
  refine ⟨_, hmem, rfl, rfl, fun hcount => ?_, fun d hdone hd hbad => ?_⟩
  · obtain ⟨hst, hval⟩ := countLaunch_counted (st := l.status) (val := l.val) hcount
    exact ⟨hst, hval, rfl⟩
  · rw [countLaunch_bad hdone hd hbad]
    exact ⟨rfl, rfl, rfl⟩

theorem completeLaunch_ends {s : State} {lnum : Nat} {l : Launch} (hl : s.launchNo lnum = some l) (hend : hasEnded l = true)
    (hleft : s.writesLeft l = false) (hb : s.blocked = []) (ht : ∀ p ∈ s.doneLine l, s.tagAt p = none) :
    s.completeLaunch lnum = s.endLaunch l l.status l.val := by
  simp [completeLaunch, hl, hend, hleft, allWide_clear hb ht]

/-! ### Fused clusters (R181) -/

theorem execClusterFuse_fuses {s : State} {cl : Nat} (hnot : cl ∉ s.fused) (hfree : s.clusterFree cl = true)
    (hwant : s.wantsKind cl true = true) :
    execClusterFuse cl s = .next { s.flushCluster cl with fused := cl :: s.fused } := by
  have hc : s.fused.contains cl = false := by simpa using hnot
  simp only [execClusterFuse, hc, hfree, hwant, fused_of_layout (layout_flushCluster s cl)]
  rfl

theorem execClusterUnfuse_unfuses {s : State} {cl : Nat} (hin : cl ∈ s.fused) (hfree : s.clusterFree cl = true)
    (hwant : s.wantsKind cl false = true) :
    execClusterUnfuse cl s = .next { s.flushCluster cl with fused := s.fused.filter (· != cl) } := by
  have hc : s.fused.contains cl = true := by simpa using hin
  simp only [execClusterUnfuse, hc, hfree, hwant, fused_of_layout (layout_flushCluster s cl)]
  rfl

end State

end Sys2Proof.Machine
end

section
/-! PROOFS. Devices at rest: boxing, waking and retirement (R304 to R309). -/

namespace Sys2Proof.Machine

theorem getK_absent {α : Type} (d : α) (k : Nat) (l : List (Nat × α)) (h : ∀ p ∈ l, p.1 ≠ k) : getK d k l = d := by
  induction l with
  | nil => rfl
  | cons p l ih =>
    rw [getK, if_neg (h p List.mem_cons_self)]
    exact ih fun q hq => h q (List.mem_cons_of_mem _ hq)

namespace State

/-! ## Boxing and waking (R304 to R308) -/

theorem vdevNo_of_vdevs {s t : State} (h : t.vdevs = s.vdevs) (n : Nat) : t.vdevNo n = s.vdevNo n := by
  unfold vdevNo; rw [h]

/-- What the device's cores have in flight arrives before the node is gated (R306). -/
theorem layout_lastArrivals (s : State) (d : VDev) :
    (s.flights.foldl (fun s f => if flightOn d f then s.arriveLast f.msg else s) s).layout = s.layout := by
  refine foldl_leaves layout _ (fun s f => ?_) _ _
  split
  · exact layout_arriveLast ..
  · rfl

theorem gateVdev_boxes {s : State} {d e : VDev} (he : s.vdevNo d.num = some e) :
    ∃ b, (s.gateVdev d).vdevNo d.num = some b ∧ b.power = .boxed := by
  have harrived := (vdevNo_of_layout (layout_lastArrivals s d) d.num).trans he
  exact ⟨{ e with power := .boxed, boxing := false }, vdevNo_modVdev harrived fun _ => rfl, rfl⟩

/-- A gated node keeps nothing (R80, R178, R206, R306). -/
theorem coreAt_gateVdev (s : State) {d : VDev} {k : Nat} (hk : inVdev d k = true) : (s.gateVdev d).coreAt k = Core.reset := by
  refine getK_absent _ _ _ fun p hp => ?_
  obtain ⟨q, hq, rfl⟩ := List.mem_map.1 hp
  have hout := (List.mem_filter.1 hq).2
  rintro rfl
  simp [hk] at hout

theorem vdevNo_stowVdev {s : State} {d e : VDev} (he : s.vdevNo d.num = some e) : ∃ b, (s.stowVdev d).vdevNo d.num = some b := by
  unfold stowVdev
  split
  · exact ⟨e, he⟩
  · exact ⟨_, vdevNo_modVdev (s := { s with mem := _ }) he fun _ => rfl⟩

theorem vdevNo_flushVdev (s : State) (d : VDev) (n : Nat) : (s.flushVdev d).vdevNo n = s.vdevNo n :=
  vdevNo_of_layout (layout_flushVdev s d) n

/-- The node of device `d` is gated: it is boxed, and its cores hold nothing. -/
def Gated (t : State) (d : VDev) : Prop :=
  (∃ b, t.vdevNo d.num = some b ∧ b.power = .boxed) ∧ ∀ k, inVdev d k = true → t.coreAt k = Core.reset

theorem gated_stowed {s : State} {d e : VDev} (he : s.vdevNo d.num = some e) : ((s.stowVdev d).gateVdev d).Gated d := by
  obtain ⟨b, hb⟩ := vdevNo_stowVdev he
  exact ⟨gateVdev_boxes hb, fun _ hk => coreAt_gateVdev _ hk⟩

/-- Boxing that the turn does not leave after step 2 gates the node (R306, R308). -/
theorem boxStep_gates {s : State} {d e : VDev} (he : s.vdevNo d.num = some e) (h : s.turn.post = false ∨ d.boxing = true) :
    (s.boxStep d).Gated d := by
  unfold boxStep
  split
  · exact gated_stowed he
  · next hnot =>
    rw [if_neg (by simpa [hnot] using h)]
    exact gated_stowed ((vdevNo_flushVdev s d _).trans he)

theorem boxStep_begins {s : State} {d : VDev} (hd : s.vdevNo d.num = some d) (hpost : s.turn.post = true) (hbox : d.boxing = false) :
    (s.boxStep d).vdevNo d.num = some { d with boxing := true } := by
  unfold boxStep
  simp only [hbox, hpost, if_true, Bool.false_eq_true, if_false]
  exact vdevNo_modVdev ((vdevNo_flushVdev s d _).trans hd) fun _ => rfl

theorem idleOver_boxStep {s : State} {v : Nat} {d : VDev} (hd : s.vdevNo v = some d) (hpower : d.power = .idle) (hclass : d.wclass ≠ 0)
    (hidlet : d.idlet ≠ 0) (hstop : s.stopped d.num = false) : s.idleOver v = s.boxStep d := by
  unfold idleOver
  rw [hd]
  exact if_pos ⟨hpower, hclass, Or.inr hidlet, by simp [hstop]⟩

theorem wakeVdev_wakes {s : State} {v : Nat} {d : VDev} (hd : s.vdevNo v = some d) (hpower : d.power = .boxed) (hw : d.waking = false) :
    (s.wakeVdev v).vdevNo v = some { d with waking := true, wakeSeq := s.nextWake } := by
  unfold wakeVdev
  rw [hd]
  dsimp only
  rw [if_pos hpower, if_neg (by simp [hw])]
  exact vdevNo_modVdev hd fun _ => rfl

/-- A BOX command whose boxing is stopped fails; no device changes by that (entry 92). -/
def failBox (s : State) (c : Waiting) : State := (s.setServing c.serial).complete c.head.queue c.head.tag 10 0 0 0

theorem vdevs_failBox (s : State) (c : Waiting) : (s.failBox c).vdevs = s.vdevs := rfl

/-- A waking event stops a boxing that has not gated the node yet (R308). -/
theorem wakeVdev_stopsBoxing {s : State} {v : Nat} {d : VDev} (hd : s.vdevNo v = some d) (hpower : d.power ≠ .boxed)
    (hbox : d.boxing = true) : (s.wakeVdev v).vdevNo v = some { d with power := .running, boxing := false } := by
  have hfailed := foldl_leaves State.vdevs failBox vdevs_failBox
    (s.host.waiting.filter fun c => c.vdev == v && c.begun && c.words == [6, 11]) s
  unfold wakeVdev
  rw [hd]
  dsimp only
  rw [if_neg hpower, if_pos hbox]
  exact vdevNo_modVdev ((vdevNo_of_vdevs hfailed v).trans hd) fun _ => rfl

/-! ### DEVICE_WAKE -/

/-- Device `v` stands and is Running. -/
def Running (s : State) (v : Nat) : Prop := ∃ d, s.vdevNo v = some d ∧ d.power = .running

theorem Running.of_vdevs {s t : State} {v : Nat} (h : s.Running v) (ht : t.vdevs = s.vdevs) : t.Running v := by
  obtain ⟨d, hd, hp⟩ := h
  exact ⟨d, (vdevNo_of_vdevs ht v).trans hd, hp⟩

theorem Running.of_layout {s t : State} {v : Nat} (h : s.Running v) (ht : t.layout = s.layout) : t.Running v :=
  h.of_vdevs (vdevs_of_layout ht)

theorem Running.modVdev {s : State} {v : Nat} (h : s.Running v) {f : VDev → VDev} (hnum : ∀ d, (f d).num = d.num)
    (hp : ∀ d, d.power = .running → (f d).power = .running) : (s.modVdev v f).Running v := by
  obtain ⟨d, hd, hrun⟩ := h
  exact ⟨f d, vdevNo_modVdev hd hnum, hp d hrun⟩

theorem vdevs_runLaunch (s : State) (d : VDev) (l : Launch) : (s.runLaunch d l).vdevs = s.vdevs := by
  have hwide := vdevs_of_layout (layout_allWide s (depLines l))
  unfold runLaunch
  split
  · rfl
  · dsimp only
    split
    · exact (vdevs_of_layout (layout_makeRoom ..)).trans hwide
    · exact hwide

theorem Running.acceptLaunch {s : State} {d : VDev} (h : s.Running d.num) (l : Launch) : (s.acceptLaunch d l).2.Running d.num := by
  have hzeroed : (l.allocs.foldl (fun s a => s.zeroAlloc d a 0 a.size) s).Running d.num :=
    h.of_layout (foldl_leaves layout _ (fun _ _ => layout_zeroAlloc ..) _ _)
  refine Running.of_vdevs ?_ (vdevs_runLaunch ..)
  refine Running.modVdev (Running.of_vdevs hzeroed ?_) (fun _ => rfl) fun e he => ?_
  · dsimp only
    split
    · rfl
    · split <;> rfl
  · simp [he]

theorem Running.startRuntime {s : State} {v : Nat} (h : s.Running v) : (s.startRuntime v).Running v := by
  have hup {t : State} (ht : t.Running v) (n : Nat) :
      (t.modVdev v fun d => { d with runtime := n, waking := d.waking && n != 0 }).Running v :=
    ht.modVdev (fun _ => rfl) fun _ hp => hp
  unfold State.startRuntime
  split
  · exact h
  · next d hd =>
    obtain rfl := vdevNo_num hd
    dsimp only
    split
    · exact hup h 0
    · split
      · exact hup h 0
      · split
        · exact hup h 0
        · exact hup (h.acceptLaunch _) _

theorem vdevNo_leaveHole {s : State} {d e : VDev} (he : s.vdevNo d.num = some e) : ∃ b, (s.leaveHole d).vdevNo d.num = some b := by
  unfold leaveHole
  split
  · exact ⟨e, he⟩
  · split
    · exact ⟨_, vdevNo_modVdev (s := { s with tree := _ }) he fun _ => rfl⟩
    · exact ⟨e, he⟩

theorem wakeUp_runs {s : State} {v : Nat} {d : VDev} (hd : s.vdevNo v = some d) (hcan : s.canWake d = true) :
    (s.wakeUp v).Running v := by
  obtain rfl := vdevNo_num hd
  obtain ⟨e, he⟩ := vdevNo_leaveHole hd
  have hback := vdevNo_modVdev (s := { s.leaveHole d with mem := _ }) (f := fun d => { d with stowed := [] }) he fun _ => rfl
  have hon : (((s.leaveHole d).unstowVdev d).modVdev d.num fun d => { d with power := .running }).Running d.num :=
    ⟨_, vdevNo_modVdev hback fun _ => rfl, rfl⟩
  simpa [wakeUp, hd, hcan] using hon.startRuntime

theorem canWake_of {s : State} {d : VDev} (hpower : d.power = .boxed) (hwaking : d.waking = true) (hstop : s.stopped d.num = false)
    (hnode : d.nohole = false ∨ s.hasHole d.level d.index = false ∨ (s.changing = false ∧ (s.newNode d).isSome = true))
    (hturn : d.wclass = 2 → ∀ e ∈ s.vdevs, e.wclass = 2 → e.power = .boxed → e.waking = true → d.wakeSeq ≤ e.wakeSeq) :
    s.canWake d = true := by
  have hfirst : (d.wclass == 2 && s.vdevs.any fun e => e.wclass == 2 && e.power == .boxed && e.waking && decide (e.wakeSeq < d.wakeSeq))
      = false := by
    rw [Bool.eq_false_iff]
    intro h
    simp only [Bool.and_eq_true, beq_iff_eq, List.any_eq_true, decide_eq_true_eq] at h
    obtain ⟨hc, e, he, ⟨⟨hec, hep⟩, hew⟩, hlt⟩ := h
    exact absurd (hturn hc e he hec hep hew) (Nat.not_le.2 hlt)
  have hplace : (!(d.nohole && s.hasHole d.level d.index) || (!s.changing && (s.newNode d).isSome)) = true := by
    obtain h | h | ⟨h, h'⟩ := hnode <;> simp [*]
  simp only [canWake, hpower, hwaking, hstop, hplace, hfirst]
  rfl

/-- A boxed device has not still to leave its node (R309). -/
theorem hasLeft_boxed {s : State} {d : VDev} (h : d.power = .boxed) : s.hasLeft d = false := by
  simp [hasLeft, h]

theorem execDeviceWake_boxed {s : State} {v : Nat} {d : VDev} (hpower : d.power = .boxed) (hall : ∀ e ∈ s.vdevs, e.num = v → e = d) :
    execDeviceWake v s = .next (s.wakeUp v) := by
  have hnone : (s.vdevs.find? fun e => e.num == v && s.hasLeft e) = none :=
    List.find?_eq_none.2 fun e he h => by
      obtain ⟨hnum, hleft⟩ := (Bool.and_eq_true _ _).mp h
      rw [hall e he (beq_iff_eq.1 hnum), hasLeft_boxed hpower] at hleft
      exact absurd hleft Bool.false_ne_true
  simp only [execDeviceWake, hnone]

theorem execDeviceWake_left {s : State} {v : Nat} {d : VDev}
    (hfind : (s.vdevs.find? fun d => d.num == v && s.hasLeft d) = some d) : execDeviceWake v s = .next (s.moveOn d) := by
  simp only [execDeviceWake, hfind]

/-! ## Retirement (R309): only `retireCluster` itself adds to the retired clusters -/

theorem retired_sliceWrite (s : State) (cells : List Host.Cell) (tag : Option Tag) : (s.sliceWrite cells tag).retired = s.retired :=
  retired_of_layout (layout_sliceWrite ..)

theorem retired_forget (s : State) (l : Launch) : (s.forget l).retired = s.retired := rfl

theorem retired_complete (s : State) (q tag st n : Nat) (val : Word) (sig : V256) :
    (s.complete q tag st n val sig).retired = s.retired := rfl

theorem retired_setServing (s : State) (k : Nat) : (s.setServing k).retired = s.retired := rfl

theorem retired_endLaunch (s : State) (l : Launch) (st : Nat) (val : Word) : (s.endLaunch l st val).retired = s.retired := by
  unfold endLaunch
  rw [settleVdev_leaves State.retired fun _ _ _ => rfl]
  refine Eq.trans ?_ (countLaunch_leaves State.retired retired_sliceWrite s l st val)
  rw [retired_forget]
  split
  · rw [retired_complete, retired_setServing]
  · rfl

theorem retired_completeLaunch (s : State) (n : Nat) : (s.completeLaunch n).retired = s.retired := by
  unfold completeLaunch
  split
  · rfl
  · next l _ =>
    split
    · rfl
    · have hwide := retired_of_layout (layout_allWide s (s.doneLine l))
      dsimp only
      split
      · exact (retired_endLaunch ..).trans hwide
      · exact hwide

/-- A strand that ends because its launch is ended from outside. -/
theorem retired_abortStrand (s : State) (w : Sid) :
    (((({ s with me := w }.flushOf w).discardWork w).cancelWaits).endStrand w).retired = s.retired :=
  (retired_of_roster (roster_endStrand ..)).trans (retired_of_layout (layout_flushOf { s with me := w } w))

theorem retired_dropSaved (s : State) (p : Saved → Bool) : (s.dropSaved p).retired = s.retired :=
  retired_of_layout (layout_dropSaved ..)

theorem retired_abortLaunch (s : State) (n st : Nat) : (s.abortLaunch n st).retired = s.retired := by
  unfold abortLaunch
  split
  · rfl
  · next l _ =>
    split
    · rfl
    · have hended := foldl_leaves State.retired _ retired_abortStrand
        ((s.residents.filter fun q => q.2.ident.lnum == n).map fun q => Sid.ofKey q.1) s
      dsimp only
      rw [retired_completeLaunch]
      exact (retired_of_layout (layout_postEvent ..)).trans ((retired_dropSaved ..).trans hended)

theorem retired_gateVdev (s : State) (d : VDev) : (s.gateVdev d).retired = s.retired :=
  (retired_of_layout (layout_lastArrivals s d) :)

theorem retired_leaveHole (s : State) (d : VDev) : (s.leaveHole d).retired = s.retired := by
  unfold leaveHole
  split
  · rfl
  · split <;> rfl

theorem retired_stopBoxing (s : State) (v : Nat) : (s.stopBoxing v).retired = s.retired :=
  foldl_leaves State.retired failBox (fun _ _ => rfl)
    (s.host.waiting.filter fun c => c.vdev == v && c.begun && c.words == [6, 11]) s

theorem retired_wakeVdev (s : State) (v : Nat) : (s.wakeVdev v).retired = s.retired := by
  unfold wakeVdev
  split
  · rfl
  · split
    · split <;> rfl
    · split
      · exact retired_stopBoxing ..
      · rfl

theorem retired_modVdev (s : State) (v : Nat) (f : VDev → VDev) : (s.modVdev v f).retired = s.retired := rfl

theorem retired_flushVdev (s : State) (d : VDev) : (s.flushVdev d).retired = s.retired := retired_of_layout (layout_flushVdev s d)

theorem retired_moveOn (s : State) (d : VDev) : (s.moveOn d).retired = s.retired := by
  unfold moveOn
  rw [retired_wakeVdev, retired_modVdev, retired_leaveHole, retired_gateVdev, retired_flushVdev]

theorem retired_moveVdev (s : State) (d : VDev) : (s.moveVdev d).retired = s.retired := by
  unfold moveVdev
  split
  · exact retired_leaveHole ..
  · dsimp only
    have hasked (t : State) (qs : List (Nat × Strand)) :
        (qs.foldl (fun s q => s.requestPreempt (Sid.ofKey q.1) true) t).retired = t.retired :=
      foldl_leaves State.retired _ (fun _ _ => retired_of_layout (layout_requestPreempt ..)) _ _
    split
    · split
      · exact (retired_moveOn ..).trans (hasked ..)
      · exact hasked ..
    · exact hasked ..

theorem retired_retireCluster {s : State} {cl : Nat} (h : cl ∉ s.retired) : (s.retireCluster cl).retired = cl :: s.retired := by
  have hc : s.retired.contains cl = false := by simpa using h
  have hlost (t : State) (ns : List Nat) : (ns.foldl (fun s n => s.abortLaunch n 8) t).retired = t.retired :=
    foldl_leaves State.retired _ (fun _ _ => retired_abortLaunch ..) _ _
  unfold retireCluster
  rw [hc]
  dsimp only
  split
  · contradiction
  · split
    · exact (retired_moveVdev ..).trans (hlost ..)
    · exact hlost ..

end State

end Sys2Proof.Machine
end

section
/-! PROOFS. The module itself: its journal, reset, recovery, alarms and port links (R26, R311, R323 to R328). -/

namespace Sys2Proof.Machine

theorem vgetN_vsetN_same {α : Type} {n : Nat} (v : Vector α (n + 1)) (i : Nat) (a : α) : vgetN (vsetN v i a) i = a := by
  simp [vgetN, vsetN]

theorem vgetN_vsetN_other {α : Type} {n : Nat} (v : Vector α (n + 1)) {i k : Nat} (a : α) (hi : i < n + 1) (hk : k < n + 1)
    (h : k ≠ i) : vgetN (vsetN v i a) k = vgetN v k := by
  simp [vgetN, vsetN, Nat.mod_eq_of_lt hi, Nat.mod_eq_of_lt hk, Ne.symm h]

/-- Records that waited for a link go to their rings in order (R311). -/
theorem foldl_writeRecord (cs : List Completion) (h : HostSide) :
    (cs.foldl HostSide.writeRecord h).comps = h.comps ++ cs ∧ (cs.foldl HostSide.writeRecord h).unsent = h.unsent ∧
      (cs.foldl HostSide.writeRecord h).links = h.links := by
  induction cs generalizing h with
  | nil => simp
  | cons c cs ih =>
    obtain ⟨hcomps, hunsent, hlinks⟩ := ih (h.writeRecord c)
    refine ⟨?_, hunsent.trans rfl, hlinks.trans rfl⟩
    rw [List.foldl_cons, hcomps]
    simp [HostSide.writeRecord]

namespace State

/-! ## The journal (R326, R327) -/

/-- With a link up a command's completion is written. -/
theorem comp_ends {s : State} (h : s.linked = true) (k : HostHead) (st : Nat) (val : Word) :
    (⟨k.queue, k.tag, st, 0, val, 0⟩ : Completion) ∈ (s.ends k st val).host.comps := by
  rw [ends, comps_complete h]
  exact List.mem_append_right _ (List.mem_singleton.2 rfl)

/-- Nothing of device `v` runs, is copied or is submitted. -/
structure Quiet (s : State) (v : Nat) : Prop where
  launches : ∀ l ∈ s.launches, l.vdev ≠ v
  copies   : ∀ c ∈ s.host.copies, c.vdev ≠ v
  submits  : ∀ p ∈ s.submits, p.vdev ≠ v

/-- Device `v` can be removed without anything to stop: it is boxed and quiet, or there is none. -/
def AtRest (s : State) (v : Nat) : Prop := ∀ d, s.vdevNo v = some d → d.power = .boxed ∧ s.Quiet v

theorem quiet_of_nothingLeft {s : State} {d : VDev} (h : s.nothingLeft d = true) : s.Quiet d.num := by
  simp only [nothingLeft, Bool.and_eq_true, Bool.not_eq_true', List.any_eq_false, beq_iff_eq] at h
  obtain ⟨⟨⟨⟨⟨-, hl⟩, -⟩, hc⟩, hp⟩, -⟩ := h
  exact ⟨hl, hc, hp⟩

/-- `t` is `s` with the devices of `vs` removed, none of which had anything to stop. -/
structure Removed (vs : List Nat) (s t : State) : Prop where
  vdevs    : t.vdevs = s.vdevs.filter fun d => !vs.contains d.num
  tree     : t.tree = s.tree
  links    : t.host.links = s.host.links
  launches : t.launches = s.launches
  copies   : t.host.copies = s.host.copies
  submits  : ∀ p ∈ t.submits, p ∈ s.submits

theorem endAll_quiet {s : State} {v : Nat} (h : s.Quiet v) :
    s.endAll v = { s with submits := s.submits.filter fun p => p.vdev != v } := by
  have hl : s.launches.filter (fun l => l.vdev == v) = [] := List.filter_eq_nil_iff.2 fun l hl => by simpa using h.launches l hl
  have hc : s.host.copies.filter (fun c => c.vdev == v) = [] := List.filter_eq_nil_iff.2 fun c hc => by simpa using h.copies c hc
  have hp : s.submits.filter (fun p => p.vdev == v) = [] := List.filter_eq_nil_iff.2 fun p hp => by simpa using h.submits p hp
  simp only [endAll, hl, hc, hp, List.foldl_nil]

theorem removed_removeVdev {s : State} {v : Nat} (h : s.AtRest v) : Removed [v] s (s.removeVdev v) := by
  unfold removeVdev
  split
  · next hnone =>
    refine ⟨(List.filter_eq_self.2 fun d hd => ?_).symm, rfl, rfl, rfl, rfl, fun _ hp => hp⟩
    have hne := List.find?_eq_none.1 hnone d hd
    simpa using hne
  · next d hd =>
    obtain ⟨hboxed, hquiet⟩ := h d hd
    rw [endAll_quiet hquiet]
    simp only [hboxed, if_true]
    refine ⟨List.filter_congr fun d _ => ?_, rfl, rfl, rfl, rfl, fun p hp => (List.mem_filter.1 hp).1⟩
    by_cases hv : d.num = v <;> simp [hv]

theorem AtRest.of_removed {s t : State} {v w : Nat} (h : s.AtRest w) (ht : Removed [v] s t) : t.AtRest w := by
  intro d hd
  unfold vdevNo at hd
  rw [ht.vdevs, List.find?_filter] at hd
  by_cases hvw : w = v
  · subst hvw
    have hout := List.find?_some hd
    simp at hout
  · have hsame : s.vdevNo w = some d := by
      rw [← hd]
      refine congrArg (List.find? · s.vdevs) (funext fun e => ?_)
      by_cases he : e.num = w <;> simp [he, hvw]
    obtain ⟨hboxed, hquiet⟩ := h d hsame
    exact ⟨hboxed, ht.launches ▸ hquiet.launches, ht.copies ▸ hquiet.copies, fun p hp => hquiet.submits p (ht.submits p hp)⟩

theorem Removed.cons {s t u : State} {v : Nat} {vs : List Nat} (h : Removed [v] s t) (k : Removed vs t u) : Removed (v :: vs) s u where
  vdevs := by
    rw [k.vdevs, h.vdevs, List.filter_filter]
    exact List.filter_congr fun d _ => by simp [Bool.and_comm]
  tree := k.tree.trans h.tree
  links := k.links.trans h.links
  launches := k.launches.trans h.launches
  copies := k.copies.trans h.copies
  submits := fun p hp => h.submits p (k.submits p hp)

theorem removed_foldl {vs : List Nat} {s : State} (h : ∀ v ∈ vs, s.AtRest v) : Removed vs s (vs.foldl removeVdev s) := by
  induction vs generalizing s with
  | nil => exact ⟨(List.filter_eq_self.2 fun _ _ => rfl).symm, rfl, rfl, rfl, rfl, fun _ hp => hp⟩
  | cons v vs ih =>
    have hv := removed_removeVdev (h v List.mem_cons_self)
    exact hv.cons (ih fun w hw => (h w (List.mem_cons_of_mem _ hw)).of_removed hv)

/-- The change of a record takes effect: its nodes have their new assignment, the devices that it removes are gone unless it sets
them again, those that it sets stand, and its command completes (R326). -/
theorem applyJournal_applies {s : State} {j : Journal} (hs : s.linked = true) (h : ∀ v ∈ j.gone, s.AtRest v) :
    (s.applyJournal j).tree = j.nodes.foldl setNode s.tree ∧ (∀ x ∈ (s.applyJournal j).vdevs, x.num ∈ j.gone → x ∈ j.devs) ∧
      (∀ x ∈ j.devs, x ∈ (s.applyJournal j).vdevs) ∧
      (⟨j.head.queue, j.head.tag, 0, 0, j.val, 0⟩ : Completion) ∈ (s.applyJournal j).host.comps := by
  have hr := removed_foldl h
  refine ⟨congrArg (j.nodes.foldl setNode) hr.tree, fun x hx hgone => ?_, fun x hx => List.mem_append_right _ hx, comp_ends ?_ ..⟩
  · obtain hx | hx := List.mem_append.1 hx
    · rw [hr.vdevs] at hx
      have hkept := (List.mem_filter.1 (List.mem_filter.1 hx).1).2
      simp [hgone] at hkept
    · exact hx
  · exact (linked_of_links hr.links).trans hs

theorem watchdog_frozen {s : State} (h : s.mp.frozen = true) : s.watchdog = s := by
  simp [watchdog, h]

theorem watchdog_whole {s : State} {j : Journal} (hj : (s.mp.journal.find? fun j => !j.done) = some j) (hf : s.mp.frozen = false)
    (hd : j.digest = intentDigest j.seq j.nodes) : s.watchdog = s.applyJournal j := by
  simp only [watchdog, hf, Bool.false_eq_true, if_false, hj, if_pos hd]

theorem watchdog_damaged {s : State} {j : Journal} (hj : (s.mp.journal.find? fun j => !j.done) = some j) (hf : s.mp.frozen = false)
    (hd : j.digest ≠ intentDigest j.seq j.nodes) : s.watchdog =
      ({ s with mp := { s.mp with journal := s.mp.journal.filter fun (k : Journal) => k.seq != j.seq } }.setServing j.serial).ends
        j.head 10 0 := by
  simp only [watchdog, hf, Bool.false_eq_true, if_false, hj, if_neg hd]

/-! ## Cold reset, recovery, alarms and port links -/

theorem coldReset_booted (s : State) : s.coldReset.mp.booted = true ↔ s.turn.err = none ∧
    imageGood s.mp.root s.mp.seed s.mp.store = true ∧ s.mp.version ≤ Config.imageVersion s.mp.store := by
  simp [coldReset, imageFits]

theorem imageFits_iff (s : State) (image : List Byte) : s.imageFits image = true ↔
    imageGood s.mp.root s.mp.seed image = true ∧ s.mp.version ≤ Config.imageVersion image := by
  simp [imageFits]

/-- An image in recovery boot (R324): one that verifies is taken, another changes nothing (entry 74). -/
theorem recoveryImage_eq {s : State} (hr : s.mp.recovery = true) (hf : s.mp.frozen = false) (hl : s.host.links[0] = true)
    (image : List Byte) : s.recoveryImage image = if s.imageFits image then s.takeImage image else s := by
  by_cases h : s.imageFits image = true <;> simp [recoveryImage, hr, hf, hl, h]

theorem takeImage_boots {s : State} {image : List Byte} (herr : s.turn.err = none) (h : s.imageFits image = true) :
    let t := s.takeImage image
    t.mp.store = image ∧ t.mp.firmware = image ∧ t.mp.booted = true ∧ t.mp.version = Config.imageVersion image ∧ t.cores = [] := by
  have hok : (s.turn.err.isNone && s.imageFits image) = true := by simp [herr, h]
  refine ⟨rfl, if_pos hok, hok, if_pos hok, rfl⟩

theorem comps_alarm {s : State} (h : s.linked = true) (st val : Nat) :
    (s.alarm st val).host.comps = s.host.comps ++ [⟨0, 0xFFFF_FFFF, st, 0, BitVec.ofNat 64 val, 0⟩] := by
  simp only [alarm, report, h, if_true]; rfl

theorem unsent_alarm {s : State} (h : s.linked = false) (st val : Nat) :
    (s.alarm st val).host.unsent = s.host.unsent ++ [⟨0, 0xFFFF_FFFF, st, 0, BitVec.ofNat 64 val, 0⟩] := by
  simp only [alarm, report, h, Bool.false_eq_true, if_false]

/-- A link that is up again: the records that waited are written, unless the transport stands still (R311, R328; entry 108). -/
theorem linkUp_links {s : State} {port : Nat} (h : port < 16) : (s.linkUp port).host.links = vsetN s.host.links port true := by
  unfold linkUp
  dsimp only
  rw [if_neg (Nat.not_le.2 h)]
  split
  · rfl
  · exact (foldl_writeRecord _ _).2.2

theorem linkUp_records {s : State} {port : Nat} (h : port < 16) :
    if s.mp.frozen = true then (s.linkUp port).host.comps = s.host.comps ∧ (s.linkUp port).host.unsent = s.host.unsent
    else (s.linkUp port).host.comps = s.host.comps ++ s.host.unsent ∧ (s.linkUp port).host.unsent = [] := by
  unfold linkUp
  dsimp only
  rw [if_neg (Nat.not_le.2 h)]
  split
  · exact ⟨rfl, rfl⟩
  · obtain ⟨hcomps, hunsent, -⟩ := foldl_writeRecord s.host.unsent
      { s.host with links := vsetN s.host.links port true, unsent := [] }
    exact ⟨hcomps, hunsent⟩

end State

end Sys2Proof.Machine
end

section
/-! PROOFS. The events of the module, each where it is enabled. -/

namespace Sys2Proof.Machine

/-! ## The events of launches, of devices at rest and of the module -/

/-- An instruction that answers a state `u` completes with what holds of `u`, however `u` is written. -/
theorem completes_of_eq {i : Instr} {s u t : State} {P : State → Prop} (h : exec i s = .next u) (hu : u = t) (hp : P t) :
    Completes i s P := ⟨u, h, hu ▸ hp⟩

/-- A page that is retired joins the bad ones, whether it was one or not (R309). -/
theorem mem_retirePage (n p : Nat) (l : List Nat) :
    n ∈ (if l.contains n then l else n :: l) ∧ (p ≠ n → (p ∈ (if l.contains n then l else n :: l) ↔ p ∈ l)) := by
  by_cases h : n ∈ l
  · simp [h]
  · have hc : l.contains n = false := by simpa using h
    rw [hc]
    exact ⟨List.mem_cons_self, fun hp => by simp [hp]⟩

/-- Settles O53: each event by the lemma about what it makes of a state where it is enabled. -/
theorem eventsOfTheModule : Obligations.EventsOfTheModule := by
  intro s lnum n idx cl vdev port at_
  refine ⟨?program, ?host, ?dependence, ?shape, ?squash, ?completion, ?fuse, ?unfuse, ?idle, ?wakeWord, ?wake, ?leave, ?cluster,
    ?page, ?cold, ?recovery, ?frozenDog, ?dog, ?pin, ?debug, ?slower, ?floor, ?faster, ?frozenLimit, ?limit, ?link⟩
  case program =>
    intro p w hp hw
    exact ⟨_, rfl, State.admitNext_replies hp hw⟩
  case host =>
    intro p o d hp hw ho hd
    have hstep := State.admitNext_host hp hw ho hd
    refine ⟨fun hno => ⟨_, rfl, ?_⟩, fun hyes => ⟨_, rfl, ?_⟩⟩
    · simpa [hno] using hstep
    · simpa [hyes] using hstep
  case dependence =>
    intro l p i d hl hd hp hsat hrun hfar hb ht
    exact ⟨_, rfl, State.satisfyDep_runs hl hd hp hsat hrun hfar hb ht⟩
  case shape =>
    intro l d k hl hd hseen hnot hfar
    exact ⟨_, rfl, State.deliverShape_answers hl hd hseen hnot hfar⟩
  case squash =>
    intro l p hl hp hsur hst
    exact ⟨_, rfl, State.squash_squashes hl hp hsur hst⟩
  case completion =>
    intro l hl hend hleft hb ht
    have hstep := State.completeLaunch_ends hl hend hleft hb ht
    obtain rfl := State.launchNo_num hl
    exact completes_of_eq rfl hstep ⟨State.launchNo_endLaunch .., fun o ho hs => State.comp_endLaunch_counted ho hs⟩
  case fuse =>
    intro hnot hfree hwant
    exact ⟨_, State.execClusterFuse_fuses hnot hfree hwant, rfl⟩
  case unfuse =>
    intro hin hfree hwant
    refine ⟨_, State.execClusterUnfuse_unfuses hin hfree hwant, fun hmem => ?_⟩
    have hne := (List.mem_filter.1 hmem).2
    simp at hne
  case idle =>
    intro d hd hpower hclass hidlet hstop
    have hstep := State.idleOver_boxStep hd hpower hclass hidlet hstop
    obtain rfl := State.vdevNo_num hd
    exact ⟨fun h => completes_of_eq rfl hstep (State.boxStep_gates hd h),
      fun hpost hbox => completes_of_eq rfl hstep ⟨_, State.boxStep_begins hd hpost hbox, hpower, rfl⟩⟩
  case wakeWord =>
    intro d hd
    exact ⟨fun hpower hw => ⟨_, rfl, State.wakeVdev_wakes hd hpower hw⟩,
      fun hpower hbox => ⟨_, rfl, State.wakeVdev_stopsBoxing hd hpower hbox⟩⟩
  case wake =>
    intro d hd hpower hwaking hstop hall hnode hturn
    exact ⟨_, State.execDeviceWake_boxed hpower hall, State.wakeUp_runs hd (State.canWake_of hpower hwaking hstop hnode hturn)⟩
  case leave => exact fun d hfind => ⟨_, State.execDeviceWake_left hfind, rfl⟩
  case cluster => exact fun h => ⟨_, rfl, State.retired_retireCluster h⟩
  case page => exact ⟨_, rfl, (mem_retirePage n n s.badPages).1, fun p hp => (mem_retirePage n p s.badPages).2 hp, rfl⟩
  case cold => exact ⟨_, rfl, rfl, rfl, rfl, rfl, rfl, rfl, rfl, rfl, rfl, rfl, rfl, rfl, rfl, rfl, State.coldReset_booted s⟩
  case recovery =>
    intro image hr hf hlink herr
    have hstep := State.recoveryImage_eq hr hf hlink image
    by_cases h : s.imageFits image = true
    · refine completes_of_eq rfl (hstep.trans (if_pos h)) ?_
      rw [if_pos ((State.imageFits_iff s image).1 h)]
      exact State.takeImage_boots herr h
    · refine completes_of_eq rfl (hstep.trans (if_neg h)) ?_
      rw [if_neg (mt (State.imageFits_iff s image).2 h)]
  case frozenDog => exact fun h => completes_of_eq rfl (State.watchdog_frozen h) rfl
  case dog =>
    intro j hj hs hf
    refine ⟨fun hd hrest => completes_of_eq rfl (State.watchdog_whole hj hf hd)
        (State.applyJournal_applies hs fun v hv d hdev => ?_),
      fun hd => completes_of_eq rfl (State.watchdog_damaged hj hf hd) ⟨rfl, rfl, State.comp_ends (by exact hs) ..⟩⟩
    obtain ⟨hboxed, hnothing⟩ := hrest v hv d hdev
    exact ⟨hboxed, State.vdevNo_num hdev ▸ State.quiet_of_nothingLeft hnothing⟩
  case pin => exact ⟨_, rfl, rfl⟩
  case debug => exact fun view h => completes_of_eq rfl (if_pos h) rfl
  case slower => exact fun h => completes_of_eq rfl (if_neg (Nat.not_le.2 h)) rfl
  case floor => exact fun h hs => completes_of_eq rfl (if_pos h) ⟨rfl, State.comps_alarm hs 18 n⟩
  case faster => exact ⟨_, rfl, rfl⟩
  case frozenLimit => exact fun h => completes_of_eq rfl (if_pos h) rfl
  case limit =>
    intro h
    refine completes_of_eq rfl (if_neg (by simp [h])) ⟨rfl, ?_⟩
    have hval : BitVec.ofNat 64 (if n = 2 then 2 else 1) = if n = 2 then 2 else 1 := by split <;> rfl
    cases hs : s.linked with
    | true => simpa [hval, State.freeze] using State.comps_alarm (s := s.freeze) hs 19 (if n = 2 then 2 else 1)
    | false => simpa [hval, State.freeze] using State.unsent_alarm (s := s.freeze) hs 19 (if n = 2 then 2 else 1)
  case link =>
    intro h
    refine ⟨⟨_, rfl, vgetN_vsetN_same .., rfl, fun k hk hne => vgetN_vsetN_other _ _ h hk hne⟩,
      ⟨_, rfl, ?_, rfl, State.linkUp_records h, fun k hk hne => ?_⟩⟩
    · rw [State.linkUp_links h]; exact vgetN_vsetN_same ..
    · rw [State.linkUp_links h]; exact vgetN_vsetN_other _ _ h hk hne

end Sys2Proof.Machine
end

section
/-! PROOFS. Control and status registers: what each number reads and what a write keeps (R59, R60, R62, R124, R228). -/

namespace Sys2Proof.Machine

/-! ## Bit fields under masks -/

theorem getLsbD_mask (lo n i : Nat) (h : i < 64) :
    (BitVec.ofNat 64 ((2 ^ n - 1) <<< lo)).getLsbD i = decide (lo ≤ i ∧ i < lo + n) := by
  rw [BitVec.getLsbD_ofNat, Nat.testBit_shiftLeft, Nat.testBit_two_pow_sub_one, decide_eq_true h, Bool.true_and]
  by_cases hlo : lo ≤ i
  · simp [hlo, Nat.sub_lt_iff_lt_add hlo, Nat.add_comm]
  · simp [hlo]

theorem testBit_field (w : Word) (lo n i : Nat) : (field w lo n).testBit i = (decide (i < n) && w.getLsbD (lo + i)) := by
  rw [field, BitVec.testBit_toNat, BitVec.getLsbD_extractLsb']

theorem field_low (w : Word) (n : Nat) : field w 0 n = w.toNat % 2 ^ n := by
  rw [field, BitVec.extractLsb'_toNat, Nat.shiftRight_zero]

theorem field_setField_below {m : Nat} (w : BitVec m) (lo n v hi k : Nat) (h : lo + n ≤ hi) :
    field (setField w lo n v) hi k = field w hi k := by
  unfold field
  apply Nat.eq_of_testBit_eq
  intro i
  rw [BitVec.testBit_toNat, BitVec.getLsbD_extractLsb', BitVec.testBit_toNat, BitVec.getLsbD_extractLsb',
    getLsbD_setField_ge _ _ _ _ _ (by omega)]

theorem rgsState_lt (w : Word) : rgsState w < 2 ^ 3 := (w.extractLsb' 0 3).isLt

/-! ## What a write keeps of a status or region register -/

/-- SSTATUS shows a pending pre-emption request in [3] and what the bank holds elsewhere (R62). -/
theorem sstatusOf_eq (t : Strand) :
    sstatusOf t = BitVec.ofNat 64 ((t.sBank.status &&& ~~~(8 : Word)).toNat + if t.preq.isSome then 8 else 0) := by
  have hmask : setField t.sBank.status 3 1 (bit t.preq.isSome) =
      (t.sBank.status &&& ~~~(8 : Word)) ||| (BitVec.ofNat 64 (bit t.preq.isSome <<< 3) &&& (8 : Word)) := rfl
  rw [sstatusOf, hmask]
  cases t.preq.isSome with
  | false => simp [bit]
  | true =>
    have hdisjoint : (t.sBank.status &&& ~~~(8 : Word)) &&& (8 : Word) = 0 := by
      rw [BitVec.and_assoc, BitVec.not_and_self]; exact BitVec.and_zero
    rw [if_pos rfl, BitVec.ofNat_add, BitVec.ofNat_toNat, BitVec.setWidth_eq]
    exact (BitVec.add_eq_or_of_and_eq_zero _ _ hdisjoint).symm

/-- A reserved MPP leaves the field as it was (R62). -/
theorem writeMstatus_eq (old w : Word) :
    writeMstatus old w = if field w 2 2 = 3 then (w &&& 3) ||| (old &&& 0xC) else w &&& 0xF := by
  unfold writeMstatus
  by_cases hreserved : field w 2 2 = 3
  case neg => rw [if_neg hreserved, if_neg hreserved]
  rw [if_pos hreserved, if_pos hreserved]
  refine BitVec.eq_of_getLsbD_eq fun i hi => ?_
  have h3 : (3 : Word).getLsbD i = decide (0 ≤ i ∧ i < 2) := getLsbD_mask 0 2 i hi
  have hC : (0xC : Word).getLsbD i = decide (2 ≤ i ∧ i < 4) := getLsbD_mask 2 2 i hi
  have hF : (0xF : Word).getLsbD i = decide (0 ≤ i ∧ i < 4) := getLsbD_mask 0 4 i hi
  rw [getLsbD_setField _ _ _ _ _ hi, BitVec.getLsbD_or, BitVec.getLsbD_and, BitVec.getLsbD_and, BitVec.getLsbD_and, h3, hC, hF,
    testBit_field]
  by_cases hin : 2 ≤ i ∧ i < 4
  · have hbit : 2 + (i - 2) = i := by omega
    have hsmall : i - 2 < 2 := by omega
    have hbig : ¬ i < 2 := by omega
    simp [hin, hbit, hsmall, hbig]
  · have hlow : i < 4 ↔ i < 2 := by omega
    rw [if_neg hin, decide_eq_false hin]
    simp [hlow]

/-- A reserved STATE leaves the field as it was (R228). -/
theorem writeRgs_reserved (old : Word) {w : Word} (h : 4 < rgsState w) :
    rgsState (writeRgs old w) = rgsState old ∧ field (writeRgs old w) 3 61 = field w 3 61 := by
  rw [writeRgs, if_pos h, setRgsState]
  exact ⟨(field_setField_same _ _ _ _ (by omega)).trans (Nat.mod_eq_of_lt (rgsState_lt old)),
    field_setField_below _ _ _ _ _ _ (by omega)⟩

theorem writeRgs_kept (old : Word) {w : Word} (h : rgsState w ≤ 4) : writeRgs old w = w := if_neg (Nat.not_lt.2 h)

/-- A write of FPC with an RM that means something keeps the bits that FPC has (R124). -/
theorem writeFpc_kept (old : Word) {w : Word} (h : w.toNat % 8 ≤ 4) : writeFpc old w = w &&& 0x7FF :=
  if_neg (Nat.not_lt.2 (by rw [field_low]; exact h))

/-! ## The trap banks -/

theorem csrRead_S (s : State) (k : Nat) (h : k < 0x1000) :
    csrRead s (0x1000 + k) = bankRead s.strand.sBank (sstatusOf s.strand) k := by
  rw [csrRead, if_neg (by omega), if_pos (by omega), Nat.add_sub_cancel_left]

theorem csrRead_M (s : State) (k : Nat) (h : k < 0x1000) :
    csrRead s (0x2000 + k) = bankRead s.strand.mBank s.strand.mBank.status k := by
  rw [csrRead, if_neg (by omega), if_neg (by omega), if_pos (by omega), Nat.add_sub_cancel_left]

theorem csrWrite_S (s : State) (w : Word) (k : Nat) (h : k < 0x1000) : csrWrite s (0x1000 + k) w =
    s.withStrand fun t => { t with sBank := bankWrite t.sBank k (w &&& 7) w } := by
  unfold csrWrite
  rw [if_neg (by omega), if_pos (by omega), Nat.add_sub_cancel_left]

theorem csrWrite_M (s : State) (w : Word) (k : Nat) : csrWrite s (0x2000 + k) w =
    s.withStrand fun t => { t with mBank := bankWrite t.mBank k (writeMstatus t.mBank.status w) w } := by
  unfold csrWrite
  rw [if_neg (by omega), if_neg (by omega), Nat.add_sub_cancel_left]

theorem sBank_csrWrite (s : State) (w : Word) (k : Nat) (h : k < 0x1000) :
    (csrWrite s (0x1000 + k) w).strand.sBank = bankWrite s.strand.sBank k (w &&& 7) w := by
  rw [csrWrite_S s w k h, State.strand_withStrand]

theorem mBank_csrWrite (s : State) (w : Word) (k : Nat) :
    (csrWrite s (0x2000 + k) w).strand.mBank = bankWrite s.strand.mBank k (writeMstatus s.strand.mBank.status w) w := by
  rw [csrWrite_M s w k, State.strand_withStrand]

/-! ## What a write changes -/

theorem csr_modCsr (s : State) (f : Csrs → Csrs) : (s.modCsr f).strand.csr = f s.strand.csr :=
  congrArg Strand.csr (State.strand_withStrand ..)

theorem onlyStrand_self (s : State) : OnlyStrand s s := ⟨rfl, fun _ _ => rfl⟩

/-- A write of a bank changes the strand alone. -/
theorem onlyStrand_csrWrite_bank (s : State) (w : Word) {n : Nat} (h : 0x1000 ≤ n) : OnlyStrand s (csrWrite s n w) := by
  unfold csrWrite
  rw [if_neg (Nat.not_lt.2 h)]
  split <;> exact onlyStrand_withStrand ..

/-- A write of a U-mode CSR changes the strand alone, but for TOWN, which is the core's, and QBIND, whose binding starts a
refill. -/
theorem csrWrite_changes (s : State) (w : Word) {n : Nat} (h : n < 0x1000) :
    OnlyStrand s (csrWrite s n w) ∨ ((csrWrite s n w).strands = s.strands ∧ (csrWrite s n w).mem = s.mem) ∨
      (0x22 ≤ n ∧ n ≤ 0x29) := by
  by_cases hq : 0x22 ≤ n ∧ n ≤ 0x29
  · exact .inr (.inr hq)
  · by_cases htown : n = 0x40
    · subst htown; exact .inr (.inl ⟨rfl, rfl⟩)
    · refine .inl ?_
      unfold csrWrite
      rw [if_pos h]
      split
      any_goals exact onlyStrand_withStrand ..
      · exact absurd rfl htown
      · rw [if_neg hq]; exact onlyStrand_self s

/-! ## The U-mode numbers -/

/-- What holds of 0 to 7 holds of every index of a group of eight registers. -/
theorem forall_lt_eight {P : Nat → Prop} (h0 : P 0) (h1 : P 1) (h2 : P 2) (h3 : P 3) (h4 : P 4) (h5 : P 5) (h6 : P 6) (h7 : P 7) :
    ∀ n, n < 8 → P n
  | 0, _ => h0
  | 1, _ => h1
  | 2, _ => h2
  | 3, _ => h3
  | 4, _ => h4
  | 5, _ => h5
  | 6, _ => h6
  | 7, _ => h7

theorem csrRead_qbind (s : State) : ∀ q, q < 8 → csrRead s (0x22 + q) = some (vgetN s.strand.csr.qbind q) :=
  forall_lt_eight rfl rfl rfl rfl rfl rfl rfl rfl

theorem csrRead_tcfg (s : State) (t : Nat) (h : t < 8) :
    csrRead s (0x41 + t) = some (BitVec.ofNat 64 (vgetN s.core.tcfg t).toNat) := by
  rw [BitVec.ofNat_toNat]
  exact forall_lt_eight (P := fun t => csrRead s (0x41 + t) = some ((vgetN s.core.tcfg t).setWidth 64))
    rfl rfl rfl rfl rfl rfl rfl rfl t h

theorem csrWrite_town (s : State) (w : Word) : csrWrite s 0x40 w = s.withCore fun c =>
    { c with town := w &&& 0x0FFF_FFFF_FFFF_FFFF, parked := c.parked.filter (stillParked c.town w) } := rfl

theorem town_csrWrite (s : State) (w : Word) : (csrWrite s 0x40 w).core.town = w &&& 0x0FFF_FFFF_FFFF_FFFF := by
  rw [csrWrite_town, State.core_withCore]

/-- Settles O12: the reads by number, then what each write keeps, then the two banks. -/
theorem csrValues : Obligations.CsrValues := by
  intro s w
  refine ⟨?reads, ?writes, ?bankS, ?bankM, fun n h _ => onlyStrand_csrWrite_bank s w h⟩
  case reads =>
    exact ⟨rfl, rfl, rfl, rfl, rfl, rfl, rfl, rfl, rfl, rfl, rfl, rfl, csrRead_qbind s, rfl, rfl, rfl, rfl, rfl, rfl,
      rfl, csrRead_tcfg s⟩
  case writes =>
    refine ⟨congrArg Csrs.fflags (csr_modCsr s _), fun h => ?_, congrArg Csrs.instret (csr_modCsr s _),
      congrArg Csrs.issuepol (csr_modCsr s _), congrArg Csrs.bto (csr_modCsr s _), congrArg Csrs.rgspc (csr_modCsr s _),
      congrArg Csrs.rngkeylo (csr_modCsr s _), congrArg Csrs.rngkeyhi (csr_modCsr s _), congrArg Csrs.rngmode (csr_modCsr s _),
      congrArg Csrs.rngtab (csr_modCsr s _), town_csrWrite s w, fun h => ?_, fun h => ?_,
      fun n => csrWrite_changes s w⟩
    · exact (congrArg Csrs.fpc (csr_modCsr s _)).trans (writeFpc_kept _ h)
    · exact (congrArg Csrs.rgs (csr_modCsr s _)).trans (writeRgs_kept _ h)
    · obtain ⟨hstate, hrest⟩ := writeRgs_reserved s.strand.csr.rgs h
      exact ⟨_, congrArg Csrs.rgs (csr_modCsr s _), hstate, hrest⟩
  case bankS =>
    exact ⟨csrRead_S s 0 (by decide), csrRead_S s 1 (by decide), csrRead_S s 2 (by decide), csrRead_S s 3 (by decide),
      (csrRead_S s 4 (by decide)).trans (congrArg some (sstatusOf_eq _)), csrRead_S s 5 (by decide),
      sBank_csrWrite s w 0 (by decide), sBank_csrWrite s w 1 (by decide), sBank_csrWrite s w 2 (by decide),
      sBank_csrWrite s w 3 (by decide), sBank_csrWrite s w 4 (by decide), sBank_csrWrite s w 5 (by decide)⟩
  case bankM =>
    rintro _ rfl
    rw [← writeMstatus_eq]
    exact ⟨csrRead_M s 0 (by decide), csrRead_M s 1 (by decide), csrRead_M s 2 (by decide), csrRead_M s 3 (by decide),
      csrRead_M s 4 (by decide), csrRead_M s 5 (by decide), mBank_csrWrite s w 0, mBank_csrWrite s w 1, mBank_csrWrite s w 2,
      mBank_csrWrite s w 3, mBank_csrWrite s w 4, mBank_csrWrite s w 5⟩

end Sys2Proof.Machine
end

section
/-! PROOFS. Trap entry into S and into M (R61, R62), and the return from a trap (R61, R247, R406). -/

namespace Sys2Proof.Machine

/-! ## Registers by the executing strand's files -/

theorem State.x_congr {s t : State} (h : t.strand.x = s.strand.x) (r : XReg) : t.x r = s.x r := by unfold State.x; rw [h]
theorem State.v_congr {s t : State} (h : t.strand.v = s.strand.v) (r : VReg) : t.v r = s.v r := by unfold State.v; rw [h]
theorem State.b_congr {s t : State} (h : t.strand.b = s.strand.b) (r : BReg) : t.b r = s.b r := by unfold State.b; rw [h]

/-! ## What stands before a trap's entry -/

/-- What the steps before a trap's entry leave of the executing strand: all that the entry reads. -/
structure Ready (s t : State) : Prop where
  me      : t.me = s.me
  mem     : t.mem = s.mem
  pc      : t.strand.pc = s.strand.pc
  mode    : t.strand.mode = s.strand.mode
  sBank   : t.strand.sBank = s.strand.sBank
  mBank   : t.strand.mBank = s.strand.mBank
  instret : t.strand.csr.instret = s.strand.csr.instret
  held    : t.strand.sync.held = false
  frames  : ∀ md, t.strand.frame md = s.strand.frame md
  x       : s.strand.inRegion = false → t.strand.x = s.strand.x
  v       : s.strand.inRegion = false → t.strand.v = s.strand.v
  b       : t.strand.b = s.strand.b

theorem Kept.frame {s u : State} (h : Kept s u) (md : Mode) : u.strand.frame md = s.strand.frame md := by
  cases md
  · exact h.fU
  · exact h.fS
  · exact h.fM

theorem Kept.inRegion {s u : State} (h : Kept s u) : u.strand.inRegion = s.strand.inRegion := by
  unfold Strand.inRegion; rw [h.region]

@[simp] theorem frame_endWait (t : Strand) (md : Mode) : t.endWait.frame md = t.frame md := by cases md <;> rfl

theorem ready_beforeTrap (s : State) (cause : Nat) (redone : Bool) : Ready s (s.beforeTrap cause redone) := by
  obtain ⟨u, hu, heq⟩ := beforeTrap_eq s cause redone
  obtain ⟨hpc, hmode, hsBank, hmBank, hinstret, -, hframe, hb, hsame⟩ := trapRollback_same u.strand cause
  have hstrand : (s.beforeTrap cause redone).strand = (u.strand.trapRollback cause).endWait := by
    rw [heq, State.strand_withStrand]
  have hout : s.strand.inRegion = false → u.strand.trapRollback cause = u.strand := fun h => hsame (hu.inRegion.trans h)
  constructor
  case me => rw [heq]; exact hu.me
  case mem => rw [heq]; exact hu.mem
  all_goals rw [hstrand]
  case pc => exact hpc.trans hu.pc
  case mode => exact hmode.trans hu.mode
  case sBank => exact hsBank.trans hu.sBank
  case mBank => exact hmBank.trans hu.mBank
  case instret => exact hinstret.trans hu.instret
  case held => rfl
  case frames => exact fun md => (frame_endWait ..).trans ((hframe md).trans (hu.frame md))
  case x => exact fun h => (congrArg Strand.x (hout h)).trans hu.x
  case v => exact fun h => (congrArg Strand.v (hout h)).trans hu.v
  case b => exact hb.trans hu.b

/-! ## Entry -/

/-- What entering a trap leaves of the strand. -/
theorem enterTrap_same (t : Strand) (toM : Bool) (cause val : Word) :
    (t.enterTrap toM cause val).x = t.x ∧ (t.enterTrap toM cause val).v = t.v ∧ (t.enterTrap toM cause val).b = t.b ∧
      (t.enterTrap toM cause val).csr = t.csr ∧ (t.enterTrap toM cause val).sync = t.sync ∧
      ∀ md, (t.enterTrap toM cause val).frame md = t.frame md := by
  cases toM <;> exact ⟨rfl, rfl, rfl, rfl, rfl, fun md => by cases md <;> rfl⟩

/-- Entry from a state that is ready for it is a trap (R61). -/
theorem trapped_enterTrap {s u : State} (h : Ready s u) (toM : Bool) (cause val : Word) :
    Trapped s (u.withStrand fun t => t.enterTrap toM cause val) (toM = true) cause val := by
  obtain ⟨hx, hv, hb, hcsr, hsync, hframe⟩ := enterTrap_same u.strand toM cause val
  have hstrand : (u.withStrand fun t => t.enterTrap toM cause val).strand = u.strand.enterTrap toM cause val :=
    State.strand_withStrand ..
  constructor
  case me => exact h.me
  case mem => exact h.mem
  case inM =>
    rintro rfl
    rw [hstrand, ← h.pc, ← h.mode, ← h.mBank]
    exact ⟨entered_enter .., rfl, rfl, h.sBank⟩
  case inS =>
    intro hS
    obtain rfl : toM = false := by simpa using hS
    rw [hstrand, ← h.pc, ← h.mode, ← h.sBank]
    exact ⟨entered_enter .., rfl, rfl, h.mBank⟩
  case instret => rw [hstrand, hcsr]; exact h.instret
  case held => rw [hstrand, hsync]; exact h.held
  case frames => intro md; rw [hstrand, hframe]; exact h.frames md
  case regs =>
    intro hout
    exact ⟨State.x_congr (by rw [hstrand, hx, h.x hout]), State.v_congr (by rw [hstrand, hv, h.v hout])⟩
  case tiles => exact State.b_congr (by rw [hstrand, hb, h.b])

/-- What becomes of what the strand waited for is no part of a trap, as long as the strand holds at nothing. -/
theorem Trapped.modSync {s t : State} {toM : Prop} {cause val : Word} (h : Trapped s t toM cause val) (f : Sync → Sync)
    (hf : (f t.strand.sync).held = t.strand.sync.held) : Trapped s (t.modSync f) toM cause val := by
  have hstrand : (t.modSync f).strand = t.strand.modSync f := State.strand_withStrand ..
  constructor
  case me => exact h.me
  case mem => exact h.mem
  case inM => rw [hstrand]; exact h.inM
  case inS => rw [hstrand]; exact h.inS
  case instret => rw [hstrand]; exact h.instret
  case held => rw [hstrand]; exact hf.trans h.held
  case frames =>
    intro md
    have hframe : (t.modSync f).strand.frame md = t.strand.frame md := by rw [hstrand]; cases md <;> rfl
    exact hframe.trans (h.frames md)
  case regs =>
    intro hout
    obtain ⟨hx, hv⟩ := h.regs hout
    exact ⟨fun r => (State.x_congr (by rw [hstrand]; rfl) r).trans (hx r),
      fun r => (State.v_congr (by rw [hstrand]; rfl) r).trans (hv r)⟩
  case tiles => exact fun r => (State.b_congr (by rw [hstrand]; rfl) r).trans (h.tiles r)

/-- An asynchronous trap (R61, R62). -/
theorem trapped_takeAsync (s : State) (cause : Nat) (val : Word) (toM : Bool) :
    Trapped s (s.takeAsync cause val toM) (toM = true) (BitVec.ofNat 64 (2 ^ 63 + cause)) val :=
  (trapped_enterTrap (ready_beforeTrap s 0 s.strand.sync.held) toM _ val).modSync _ rfl

/-- Settles O14, by the laws about the synchronous and about the asynchronous trap. -/
theorem trapEntry : Obligations.TrapEntry :=
  fun s cause val flags => ⟨(trapped_takeSync s cause val flags).1, trapped_takeAsync s cause val⟩

/-! ## Return from a trap -/

theorem modeOfCode_code (m : Mode) : modeOfCode m.code = some m := by cases m <;> rfl

/-- IE takes PIE, PIE is set, and the rest of the bank stays (R61). -/
theorem Bank.leave_spec (bk : Bank) : bk.leave.status.getLsbD 0 = bk.status.getLsbD 1 ∧ bk.leave.status.getLsbD 1 = true ∧
    { bk.leave with status := bk.status } = bk := by
  refine ⟨?ie, ?pie, rfl⟩
  case ie =>
    unfold Bank.leave
    rw [getLsbD_setField_lt _ _ _ _ _ (by omega), getLsbD_setField_in _ _ _ _ _ (by omega) (by omega) (by omega), field,
      BitVec.testBit_toNat, BitVec.getLsbD_extractLsb']
    simp
  case pie =>
    unfold Bank.leave
    rw [getLsbD_setField_in _ _ _ _ _ (by omega) (by omega) (by omega)]
    rfl

namespace State

/-- Where a return to mode `m` goes on (R61): at the saved PC, or at RGSPC in U with the region suspended. -/
def returnsTo (s : State) (m : Mode) (bk : Bank) : Word :=
  if m = .U ∧ (rgsState s.strand.csr.rgs = 2 ∨ rgsState s.strand.csr.rgs = 3) then s.strand.csr.rgspc else bk.epc

/-- The state in which a return from S, or from M, has retired and restored the mode. -/
def returnedS (s : State) (m : Mode) : State :=
  (s.jump (s.returnsTo m s.strand.sBank)).retire.withStrand fun u => { u with sBank := u.sBank.leave, mode := m }
def returnedM (s : State) (m : Mode) : State :=
  (s.jump (s.returnsTo m s.strand.mBank)).retire.withStrand fun u => { u with mBank := u.mBank.leave, mode := m }

theorem returnTrap_S {s : State} {m : Mode} (hS : s.strand.mode = .S) (hm : field s.strand.sBank.status 2 1 = m.code) :
    s.returnTrap = some (s.returnedS m) := by
  simp only [returnTrap, hS, reduceCtorEq, if_false, hm, modeOfCode_code]; rfl

theorem returnTrap_M {s : State} {m : Mode} (hM : s.strand.mode = .M) (hm : field s.strand.mBank.status 2 2 = m.code) :
    s.returnTrap = some (s.returnedM m) := by
  simp only [returnTrap, hM, if_true, hm, modeOfCode_code]; rfl

theorem returnTrap_reserved {s : State} (hM : s.strand.mode = .M) (hm : field s.strand.mBank.status 2 2 = 3) :
    s.returnTrap = none := by
  simp only [returnTrap, hM, if_true, hm]; rfl

/-- Retiring a jump leaves the trap banks, the region and a pre-emption request. -/
theorem strand_retire_jump (s : State) (pc : Word) :
    (s.jump pc).retire.strand.sBank = s.strand.sBank ∧ (s.jump pc).retire.strand.mBank = s.strand.mBank ∧
      (s.jump pc).retire.strand.region = s.strand.region ∧ (s.jump pc).retire.strand.preq = s.strand.preq := by
  have hsame := (retires_retire (s.jump pc)).same
  exact ⟨(congrArg Strand.sBank hsame :), (congrArg Strand.mBank hsame :), (congrArg Strand.region hsame :),
    (congrArg Strand.preq hsame :)⟩

theorem retires_jump (s : State) (pc : Word) : Retires { s with latch := (s.jump pc).retire.latch } (s.jump pc).retire pc :=
  retires_retire (s.jump pc)

theorem strand_returnedS (s : State) (m : Mode) : (s.returnedS m).strand =
    { (s.jump (s.returnsTo m s.strand.sBank)).retire.strand with sBank := s.strand.sBank.leave, mode := m } := by
  rw [returnedS, strand_withStrand, (strand_retire_jump ..).1]

theorem strand_returnedM (s : State) (m : Mode) : (s.returnedM m).strand =
    { (s.jump (s.returnsTo m s.strand.mBank)).retire.strand with mBank := s.strand.mBank.leave, mode := m } := by
  rw [returnedM, strand_withStrand, (strand_retire_jump ..).2.1]

/-- The end of `rti`: the repetition buffer gives up what it holds of the strand (entry 42), and in U with a region open a
request that is pending is taken (R247). -/
def afterReturn (s : State) (m : Mode) (v : State) : State :=
  if m = .U ∧ s.strand.region.opened = true ∧ s.strand.preq.isSome = true then (v.dropBuffer s.me).preemptNow s.me noSafePoint
  else v.dropBuffer s.me

end State

theorem execRti_U {s : State} (hU : s.strand.mode = .U) : exec .rti s = .next (s.takeSync 1 s.latch.first 0) :=
  if_pos hU

theorem execRti_returns {s v : State} {m : Mode} (hU : s.strand.mode ≠ .U) (hv : s.returnTrap = some v) (hme : v.me = s.me)
    (hmode : v.strand.mode = m) (hregion : v.strand.region = s.strand.region) (hpreq : v.strand.preq = s.strand.preq) :
    exec .rti s = .next (s.afterReturn m v) := by
  have hstrand : (v.dropBuffer s.me).strand = v.strand := rfl
  have hme' : (v.dropBuffer s.me).me = s.me := hme
  show execRti s = _
  simp only [execRti, if_neg hU, hv, hme, hme', hstrand, hmode, hregion, hpreq, State.afterReturn,
    Bool.and_eq_true, beq_iff_eq, and_assoc]

theorem execRti_S {s : State} {m : Mode} (hS : s.strand.mode = .S) (hm : field s.strand.sBank.status 2 1 = m.code) :
    exec .rti s = .next (s.afterReturn m (s.returnedS m)) := by
  have hstrand := s.strand_returnedS m
  obtain ⟨-, -, hregion, hpreq⟩ := s.strand_retire_jump (s.returnsTo m s.strand.sBank)
  exact execRti_returns (by simp [hS]) (State.returnTrap_S hS hm) rfl (by rw [hstrand]) (by rw [hstrand, ← hregion])
    (by rw [hstrand, ← hpreq])

theorem execRti_M {s : State} {m : Mode} (hM : s.strand.mode = .M) (hm : field s.strand.mBank.status 2 2 = m.code) :
    exec .rti s = .next (s.afterReturn m (s.returnedM m)) := by
  have hstrand := s.strand_returnedM m
  obtain ⟨-, -, hregion, hpreq⟩ := s.strand_retire_jump (s.returnsTo m s.strand.mBank)
  exact execRti_returns (by simp [hM]) (State.returnTrap_M hM hm) rfl (by rw [hstrand]) (by rw [hstrand, ← hregion])
    (by rw [hstrand, ← hpreq])

theorem execRti_reserved {s : State} (hM : s.strand.mode = .M) (hm : field s.strand.mBank.status 2 2 = 3) :
    exec .rti s = .fault .reservedMode := by
  show execRti s = _
  simp only [execRti, hM, reduceCtorEq, if_false, State.returnTrap_reserved hM hm]

/-- Settles O15: what a return retires to, from S and from M, and how it ends. -/
theorem returnFromTrap : Obligations.ReturnFromTrap := by
  intro s
  refine ⟨fun hU => traps_of_exec _ _ _ _ _ (execRti_U hU), fun m hS hm => ?_, fun m hM hm => ?_, execRti_reserved⟩
  · exact ⟨_, execRti_S hS hm, (s.jump _).retire, s.returnedS m, s.strand.sBank.leave, State.retires_jump ..,
      onlyStrand_withStrand .., s.strand_returnedS m, ⟨fun h => if_neg h, fun h => if_pos h⟩, s.strand.sBank.leave_spec⟩
  · exact ⟨_, execRti_M hM hm, (s.jump _).retire, s.returnedM m, s.strand.mBank.leave, State.retires_jump ..,
      onlyStrand_withStrand .., s.strand_returnedM m, ⟨fun h => if_neg h, fun h => if_pos h⟩, s.strand.mBank.leave_spec⟩

end Sys2Proof.Machine
end

section
/-! PROOFS. The scalar special functions and their queue (R68, R368). -/

namespace Sys2Proof.Machine

/-! ## Flags and destinations -/

/-- A meaning that ends in a result with flags writes the register, or traps where FPC.TE enables a flag (R125, R360). -/
theorem writesX_of_putFp {i : Instr} {s : State} {d : XReg} {p : Nat × Word} (h : exec i s = finish s (s.putFp d p)) :
    WritesX i s d (BitVec.ofNat 64 p.1) p.2 := by
  refine ⟨fun hquiet => ?_, fun htraps => ?_⟩
  · have hput : s.putFp d p = .ok () ((s.raise p.2).setX d (BitVec.ofNat 64 p.1)) := if_neg (Decidable.not_not.2 hquiet)
    refine does_of_finish _ _ _ (h.trans (by rw [hput])) ?_
    simp [fallsTo]
  · have hput : s.putFp d p = .trap 16 (p.2 &&& s.te) p.2 := if_pos htraps
    exact traps_of_exec _ _ _ _ _ (h.trans (by rw [hput]; rfl))

/-! ## The queue of the special-function unit -/

/-- With the queue empty and the turn posting nothing, the unit serves the strand at once (R68). -/
theorem scalarSfu_served {s : State} (hreply : s.strand.sync.reply = none) (hempty : s.core.sfu = [])
    (hpost : s.turn.post = false) (fn : Sfu) (a b : XReg) : s.scalarSfu fn a b = s.putFp a (Fmt.f32.sfu s.env fn (s.x b).toNat) := by
  simp [State.scalarSfu, State.viaSfu, hreply, hempty, hpost]

/-- Behind other requests the strand's is queued, and the strand holds (R68). -/
theorem scalarSfu_queued {s : State} (hreply : s.strand.sync.reply = none) (hothers : s.core.sfu ≠ [])
    (hnew : s.me.slot ∉ s.core.sfu) (hroom : s.core.sfu.length < 8) (fn : Sfu) (a b : XReg) :
    s.scalarSfu fn a b = .hold (s.withCore fun c => { c with sfu := c.sfu ++ [s.me.slot] }) false 0 := by
  simp [State.scalarSfu, State.viaSfu, hreply, hothers, hnew, Nat.succ_le_of_lt hroom]

theorem strand_holdAt (s : State) (bounded : Bool) (sval : Word) : ∃ y : Sync, y.held = true ∧
    (s.holdAt bounded sval).strand = { s.strand with sync := y } :=
  ⟨_, rfl, State.strand_withStrand ..⟩

theorem core_holdAt (s : State) (bounded : Bool) (sval : Word) : (s.holdAt bounded sval).core = s.core := rfl

section
variable {s : State} {a b : XReg} {fn : Sfu} {i : Instr} (hi : exec i s = finish s (s.scalarSfu fn a b))
  (hreply : s.strand.sync.reply = none)
include hi hreply

theorem writesX_scalarSfu (hempty : s.core.sfu = []) (hpost : s.turn.post = false) :
    WritesX i s a (BitVec.ofNat 64 (Fmt.f32.sfu s.env fn (s.x b).toNat).1) (Fmt.f32.sfu s.env fn (s.x b).toNat).2 :=
  writesX_of_putFp (hi.trans (by rw [scalarSfu_served hreply hempty hpost]))

theorem completes_scalarSfu_queued (hothers : s.core.sfu ≠ []) (hnew : s.me.slot ∉ s.core.sfu)
    (hroom : s.core.sfu.length < 8) : Completes i s fun t => t.strand.sync.held = true ∧ t.strand.pc = s.strand.pc ∧
      t.core.sfu = s.core.sfu ++ [s.me.slot] ∧ ∀ r, t.x r = s.x r := by
  rw [scalarSfu_queued hreply hothers hnew hroom] at hi
  obtain ⟨y, hheld, hstrand⟩ := strand_holdAt (s.withCore fun c => { c with sfu := c.sfu ++ [s.me.slot] }) false 0
  exact ⟨_, hi, by rw [hstrand]; exact hheld, by rw [hstrand]; rfl, by rw [core_holdAt, State.core_withCore],
    State.x_congr (by rw [hstrand]; rfl)⟩

end

/-- Settles O25: each function ends in its result where the unit serves it, and in the wait where its request is queued. -/
theorem specialFunctions : Obligations.SpecialFunctions := by
  intro s a b hreply
  refine ⟨fun hempty hpost => ?_, fun hothers hnew hroom => ?_⟩
  · have hnow := fun i fn (h : exec i s = finish s (s.scalarSfu fn a b)) => writesX_scalarSfu h hreply hempty hpost
    exact ⟨hnow _ _ rfl, hnow _ _ rfl, hnow _ _ rfl, hnow _ _ rfl, hnow _ _ rfl, hnow _ _ rfl, hnow _ _ rfl, hnow _ _ rfl⟩
  · have hwaits := fun i fn (h : exec i s = finish s (s.scalarSfu fn a b)) =>
      completes_scalarSfu_queued h hreply hothers hnew hroom
    exact ⟨hwaits _ _ rfl, hwaits _ _ rfl, hwaits _ _ rfl, hwaits _ _ rfl, hwaits _ _ rfl, hwaits _ _ rfl, hwaits _ _ rfl,
      hwaits _ _ rfl⟩

end Sys2Proof.Machine
end

section
/-! PROOFS. Tile registers: their owners, their release, and the traps of a touch (R77, R78, R141, R146). -/

namespace Sys2Proof.Machine

/-! ## TOWN -/

theorem getLsbD_setTown (town : Word) (g : Nat) {k i : Nat} (hk : k < 12) (hi : i < 5) :
    (setTown town k g).getLsbD (5 * k + i) = g.testBit i := by
  rw [setTown, getLsbD_setField_in _ _ _ _ _ (by omega) (by omega) (by omega), Nat.add_sub_cancel_left]

theorem townGroup_setTown_other (town : Word) (g : Nat) {k j : Nat} (h : j ≠ k) :
    townGroup (setTown town k g) j = townGroup town j := by
  unfold townGroup setTown
  obtain hbelow | habove := Nat.lt_or_gt_of_ne h
  · exact field_setField_above _ _ _ _ _ _ (by omega)
  · exact field_setField_below _ _ _ _ _ _ (by omega)

/-- A register that is given to a slot without OWN is free and unmarked. -/
theorem setTown_free (town : Word) {k g : Nat} (hk : k < 12) (hg : g < 2 ^ 2) :
    townOwn (setTown town k g) k = false ∧ townPark (setTown town k g) k = false ∧ townDirty (setTown town k g) k = false := by
  have hbit : ∀ i, 2 ≤ i → g.testBit i = false := fun i hi =>
    Nat.testBit_lt_two_pow (Nat.lt_of_lt_of_le hg (Nat.pow_le_pow_right (by omega) hi))
  exact ⟨(getLsbD_setTown town g hk (by omega)).trans (hbit 2 (by omega)),
    (getLsbD_setTown town g hk (by omega)).trans (hbit 3 (by omega)),
    (getLsbD_setTown town g hk (by omega)).trans (hbit 4 (by omega))⟩

/-- A claim leaves the register owned. -/
theorem townOwn_claimed (town : Word) (slot : Nat) {k : Nat} (hk : k < 12) : townOwn (claimed town k slot) k = true := by
  unfold claimed
  split
  · assumption
  · have hslot : slot % 4 < 4 := Nat.mod_lt _ (by omega)
    refine (getLsbD_setTown town _ hk (by omega)).trans ?_
    rw [Nat.add_comm, show 4 = 2 ^ 2 from rfl, Nat.testBit_two_pow_add_eq, Nat.testBit_lt_two_pow hslot]
    rfl

theorem townOwn_setDirty (town : Word) (k : Nat) (d : Bool) : townOwn (setDirty town k d) k = townOwn town k :=
  getLsbD_setField_lt _ _ _ _ _ (by omega)

theorem townDirty_setDirty (town : Word) {k : Nat} (hk : k < 12) : townDirty (setDirty town k true) k = true := by
  unfold townDirty setDirty
  rw [getLsbD_setField_in _ _ _ _ _ (by omega) (by omega) (by omega), Nat.sub_self]
  rfl

/-! ## Touching a register -/

theorem mayTouch_refused {town : Word} {k slot : Nat} (hown : townOwn town k = true)
    (h : townSlot town k ≠ slot ∨ townPark town k = true) : mayTouch town k slot = false := by
  obtain h | h := h <;> simp [mayTouch, hown, h]

theorem owns_refused {town : Word} {k slot : Nat} (h : townSlot town k ≠ slot ∨ townPark town k = true) :
    owns town k slot = false := by
  obtain h | h := h <;> simp [owns, h]

namespace State

theorem touchCfg_on {s : State} {t : TReg} (h : cfgOn (s.core.cfg t) = true) : s.touchCfg t = .ok () s := by
  simp [touchCfg, h]

theorem touchCfg_off {s : State} {t : TReg} (h : cfgOn (s.core.cfg t) = false) :
    s.touchCfg t = .trap 8 (BitVec.ofNat 64 t.toNat) 0 := by
  simp [touchCfg, h, tnum]

theorem touchOwn_may {s : State} {k : Nat} (h : mayTouch s.core.town k s.me.slot = true) : s.touchOwn k = .ok () s := if_pos h

theorem touchOwn_refused {s : State} {k : Nat} (hown : townOwn s.core.town k = true)
    (h : townSlot s.core.town k ≠ s.me.slot ∨ townPark s.core.town k = true) :
    s.touchOwn k = .trap 9 (ownVal s.core.town k) 0 :=
  if_neg (by simp [mayTouch_refused hown h])

theorem touchTile_off {s : State} {t : TReg} (h : cfgOn (s.core.cfg t) = false) :
    s.touchTile t = .trap 8 (BitVec.ofNat 64 t.toNat) 0 := by
  rw [touchTile, touchCfg_off h]; rfl

theorem touchTile_refused {s : State} {t : TReg} (hon : cfgOn (s.core.cfg t) = true) (hown : townOwn s.core.town t.toNat = true)
    (h : townSlot s.core.town t.toNat ≠ s.me.slot ∨ townPark s.core.town t.toNat = true) :
    s.touchTile t = .trap 9 (ownVal s.core.town t.toNat) 0 := by
  rw [touchTile, touchCfg_on hon]
  exact congrArg (Eff.map · fun _ => ()) (touchOwn_refused hown h)

theorem touchTile_may {s : State} {t : TReg} (hon : cfgOn (s.core.cfg t) = true)
    (h : mayTouch s.core.town t.toNat s.me.slot = true) : s.touchTile t = .ok () s := by
  rw [touchTile, touchCfg_on hon]
  exact congrArg (Eff.map · fun _ => ()) (touchOwn_may h)

theorem waitUse_free {s : State} {r : MReg} (h : s.core.owesUse r = false) : s.waitUse [r] = .ok () s := by
  simp [waitUse, h]

/-! ## Release -/

theorem release_free {s : State} {r : BitVec 4} (h : townOwn s.core.town r.toNat = false) : s.release r = .ok () s := by
  simp [release, h]

theorem release_refused {s : State} {r : BitVec 4} (hown : townOwn s.core.town r.toNat = true)
    (h : townSlot s.core.town r.toNat ≠ s.me.slot ∨ townPark s.core.town r.toNat = true) :
    s.release r = .trap 9 (ownVal s.core.town r.toNat) 0 := by
  simp [release, hown, owns_refused h]

/-- The register given up: its slot stays in TOWN, OWN and the marks are cleared. -/
def released (s : State) (k : Nat) : State := s.withCore fun c => { c with town := setTown c.town k (townSlot c.town k) }

theorem release_owned {s : State} {r : BitVec 4} (hown : townOwn s.core.town r.toNat = true)
    (hslot : townSlot s.core.town r.toNat = s.me.slot) (hpark : townPark s.core.town r.toNat = false)
    (hfree : s.core.owesUse (namedReg r) = false) : s.release r = .ok () (s.released r.toNat) := by
  have howns : owns s.core.town r.toNat s.me.slot = true := by simp [owns, hown, hslot, hpark]
  simp only [release, hown, howns, waitUse_free hfree, Bool.not_true, Bool.false_eq_true, if_false]
  rfl

/-! ## Zeroing -/

/-- The tile claimed, its storage cleared, DIRTY set. -/
def zeroed (s : State) (t : TReg) : State :=
  ((s.claimReg (tnum t)).withCore fun c => c.setTile t 0).dirty (tnum t) true

/-! ## Checks that trap before anything else happens -/

section
variable {s : State} {t : TReg} {cause : Nat} {val : Word}

theorem tileConfig_traps (h : s.touchOwn t.toNat = .trap cause val 0) (a c : XReg) (strict : Bool) :
    s.tileConfig a t c strict = .trap cause val 0 :=
  congrArg (Eff.bind · _) h

theorem moveIn_traps (h : s.touchTile t = .trap cause val 0) (p : BitVec 4) (m : MaskMod) (n : Nat) (at_ : Nat → Nat × Nat) :
    s.moveIn t p m n at_ = .trap cause val 0 :=
  congrArg (Eff.bind · _) h

theorem moveOut_traps (h : s.touchTile t = .trap cause val 0) (p : BitVec 4) (m : MaskMod) (n : Nat) (at_ : Nat → Nat × Nat) :
    s.moveOut t p m n at_ = .trap cause val 0 :=
  congrArg (Eff.bind · _) h

theorem outerCmp_traps (h : s.touchCfg t = .trap cause val 0) (r : ORel) (bd : BReg) (u : TReg) :
    s.outerCmp r bd t u = .trap cause val 0 :=
  congrArg (Eff.bind · _) h

theorem execTzero_traps (h : s.touchTile t = .trap cause val 0) : exec (.tzero t) s = finish s (.trap cause val 0) := by
  show finish s ((s.touchTile t).bind _) = _
  rw [h]; rfl

end

end State

theorem core_zeroed (s : State) (t : TReg) : (s.zeroed t).core =
    { s.core.setTile t 0 with town := setDirty (claimed s.core.town t.toNat s.me.slot) t.toNat true } := by
  simp only [State.zeroed, State.dirty, State.claimReg, State.core_withCore]; rfl

/-- A meaning that answers a trap. -/
theorem traps_of_finish {i : Instr} {s : State} {e : Eff Unit} {cause : Nat} {val : Word} (h : exec i s = finish s e)
    (he : e = .trap cause val 0) : Traps i s cause val 0 :=
  traps_of_exec _ _ _ _ _ (h.trans (by rw [he]; rfl))

theorem execTzero_zeroes {s : State} {t : TReg} (hon : cfgOn (s.core.cfg t) = true)
    (hmay : mayTouch s.core.town t.toNat s.me.slot = true) (hfree : s.core.owesUse (.tile t) = false) :
    exec (.tzero t) s = finish s (.ok () (s.zeroed t)) := by
  show finish s ((s.touchTile t).bind _) = _
  rw [State.touchTile_may hon hmay]
  show finish s ((s.waitUse [.tile t]).bind _) = _
  rw [State.waitUse_free hfree]; rfl

/-- Settles O35: the traps by the check that fails first, the release by the bits of TOWN that it leaves, the zeroing by the core
that it leaves. -/
theorem tileOwnership : Obligations.TileOwnership := by
  refine ⟨fun s a c t m r p bd => ⟨fun hoff => ?off, fun hown hother => ?other⟩,
    fun s r t hr => ⟨?free, ?release, ?refuse, ?zero⟩⟩
  case off =>
    have h := State.touchTile_off hoff
    exact ⟨traps_of_finish (State.execTzero_traps h) rfl, traps_of_finish rfl (State.moveIn_traps h ..),
      traps_of_finish rfl (State.moveOut_traps h ..), traps_of_finish rfl (State.moveIn_traps h ..),
      traps_of_finish rfl (State.moveOut_traps h ..), traps_of_finish rfl (State.outerCmp_traps (State.touchCfg_off hoff) ..)⟩
  case other =>
    have h := State.touchOwn_refused hown hother
    refine ⟨traps_of_finish rfl (State.tileConfig_traps h ..), traps_of_finish rfl (State.tileConfig_traps h ..), fun hon => ?_⟩
    have h := State.touchTile_refused hon hown hother
    exact ⟨traps_of_finish (State.execTzero_traps h) rfl, traps_of_finish rfl (State.moveIn_traps h ..),
      traps_of_finish rfl (State.moveOut_traps h ..)⟩
  case free => exact fun h => does_of_finish _ _ _ (congrArg (finish s) (State.release_free h)) rfl
  case release =>
    intro hown hslot hpark hfree
    have hcore : (s.released r.toNat).core = _ := State.core_withCore ..
    have hslot4 : townSlot s.core.town r.toNat < 2 ^ 2 := Nat.mod_lt _ (by omega)
    obtain ⟨hown', hpark', hdirty'⟩ := setTown_free s.core.town (Nat.lt_succ_of_le hr) hslot4
    refine ⟨_, congrArg (finish s) (State.release_owned hown hslot hpark hfree), s.released r.toNat, retires_retire _, rfl, ?_⟩
    rw [hcore]
    exact ⟨hown', hpark', hdirty', fun k _ hk => townGroup_setTown_other _ _ hk, fun q => ⟨rfl, rfl⟩⟩
  case refuse => exact fun hown h => traps_of_exec _ _ _ _ _ (congrArg (finish s) (State.release_refused hown h))
  case zero =>
    intro hon hmay hfree
    have ht : t.toNat < 12 := Nat.lt_trans t.isLt (by omega)
    refine ⟨_, execTzero_zeroes hon hmay hfree, s.zeroed t, retires_retire _, ?_⟩
    rw [core_zeroed]
    exact ⟨by simp [Core.tile, Core.setTile], rfl, (townOwn_setDirty ..).trans (townOwn_claimed _ _ ht), townDirty_setDirty _ ht,
      fun q hq => by simp [Core.tile, Core.setTile, hq], rfl, fun _ => rfl⟩

end Sys2Proof.Machine
end

section
/-! PROOFS. Fetch from memory (R66, R81, R94, R95): what a scan counts, what a line holds, and what a fetch leaves of a state. -/

namespace Sys2Proof

/-! ## Counting parcels in a scan (R82) -/

theorem Scan.close_ne_more (sc sc' : Scan) (p : Parcel) : sc.close p ≠ .more sc' := by
  unfold Scan.close
  split
  · exact Scanned.noConfusion
  · split <;> exact Scanned.noConfusion

theorem Scan.close_done {sc : Scan} {p : Parcel} {c : Chain} {n : Nat} (h : sc.close p = .done c n) : n = sc.count + 1 := by
  unfold Scan.close at h
  split at h
  · cases h; rfl
  · split at h
    · cases h
    · cases h; rfl

/-- A parcel that does not end the scan counts one, and there are at most four of them. -/
theorem Scan.feed_more {sc sc' : Scan} {p : Parcel} (h : sc.feed p = .more sc') : sc'.count = sc.count + 1 ∧ sc.count ≠ 4 := by
  unfold Scan.feed at h
  dsimp only at h
  split at h
  · cases h
  split at h
  · exact absurd h (Scan.close_ne_more sc sc' p)
  split at h
  · cases h
  · next hfour => (repeat' split at h) <;> cases h <;> exact ⟨rfl, hfour⟩

/-- A base parcel ends the scan. -/
theorem Scan.feed_done {sc : Scan} {p : Parcel} {c : Chain} {n : Nat} (h : sc.feed p = .done c n) : n = sc.count + 1 := by
  unfold Scan.feed at h
  dsimp only at h
  split at h
  · cases h
  split at h
  · exact Scan.close_done h
  · (repeat' split at h) <;> cases h

/-- Parcels that the decoder reads whole scan to a chain of that length, and the chain decodes to the instruction. -/
theorem scanFrom_of_decodeParcels {ps : List Parcel} {i : Instr} {n : Nat} (h : decodeParcels ps = some (i, n)) :
    ∃ c, scanFrom Scan.start ps = some (.done c n) ∧ decodeChain c = some i := by
  unfold decodeParcels at h
  split at h
  · next c m hscan =>
    obtain ⟨j, hj, hpair⟩ := Option.map_eq_some_iff.1 h
    cases hpair
    exact ⟨c, hscan, hj⟩
  · cases h

namespace Machine

/-! ## Bytes of a line -/

theorem Memory.nat_lt (m : Memory) (a n : Nat) : m.nat a n < 256 ^ n := by
  induction n generalizing a with
  | zero => exact Nat.one_pos
  | succ n ih =>
    have hrest := ih (a + 1)
    have hbyte := (m.read a).isLt
    simp only [Memory.nat, Memory.readN, natOfBytes] at hrest ⊢
    rw [Nat.pow_succ]
    omega

/-- The number of `i + n` bytes is that of the first `i` and, above it, that of the other `n` (R2). -/
theorem Memory.nat_add (m : Memory) (a i n : Nat) : m.nat a (i + n) = m.nat a i + 256 ^ i * m.nat (a + i) n := by
  induction i generalizing a with
  | zero => simp [Memory.nat, Memory.readN, natOfBytes]
  | succ i ih =>
    have hrest := ih (a + 1)
    rw [show i + 1 + n = (i + n) + 1 by omega, show a + (i + 1) = a + 1 + i by omega]
    simp only [Memory.nat, Memory.readN, natOfBytes] at hrest ⊢
    rw [hrest, Nat.mul_add, ← Nat.add_assoc (m.read a).toNat, Nat.pow_succ, Nat.mul_comm (256 ^ i) 256, Nat.mul_assoc 256]

/-- The 16 bits of a line from an even address up are the two bytes that stand there. -/
theorem extract_lineAt (m : Memory) (pa : Nat) (h : pa % 2 = 0) :
    ((lineAt m (pa / 32)).extractLsb' (8 * (pa % 32)) 16).toNat = m.nat pa 2 := by
  have hsplit : m.nat (pa / 32 * 32) 32 =
      m.nat (pa / 32 * 32) (pa % 32) + 256 ^ (pa % 32) * (m.nat pa 2 + 256 ^ 2 * m.nat (pa + 2) (32 - pa % 32 - 2)) := by
    rw [show 32 = pa % 32 + (2 + (32 - pa % 32 - 2)) by omega, Memory.nat_add, Memory.nat_add]
    rw [show (pa % 32 + (2 + (32 - pa % 32 - 2))) = 32 by omega, Nat.div_add_mod']
  have hbelow : m.nat (pa / 32 * 32) (pa % 32) < 256 ^ (pa % 32) := m.nat_lt ..
  have hpair : m.nat pa 2 < 2 ^ 16 := m.nat_lt ..
  have hline : m.nat (pa / 32 * 32) 32 < 2 ^ 256 := by simpa using m.nat_lt (pa / 32 * 32) 32
  rw [lineAt, BitVec.extractLsb'_toNat, BitVec.toNat_ofNat, Nat.mod_eq_of_lt hline, Nat.shiftRight_eq_div_pow, Nat.pow_mul,
    hsplit, Nat.add_mul_div_left _ _ (Nat.pow_pos (by omega)), Nat.div_eq_of_lt hbelow]
  omega

/-! ## What a fetch leaves of a state -/

namespace State

/-- `s` with other cores: all that a fetch from memory changes of a state. -/
def withCores (s : State) (cs : List (Nat × Core)) : State := { s with cores := cs }

section
variable (s : State) (cs : List (Nat × Core))

@[simp] theorem withCores_me : (s.withCores cs).me = s.me := rfl
@[simp] theorem withCores_turn : (s.withCores cs).turn = s.turn := rfl
@[simp] theorem withCores_mem : (s.withCores cs).mem = s.mem := rfl
@[simp] theorem withCores_clTlb : (s.withCores cs).clTlb = s.clTlb := rfl
@[simp] theorem strand_withCores : (s.withCores cs).strand = s.strand := rfl
@[simp] theorem vdevOf_withCores (w : Sid) : (s.withCores cs).vdevOf w = s.vdevOf w := rfl
@[simp] theorem lineBad_withCores (line : Nat) : (s.withCores cs).lineBad line = s.lineBad line := rfl
@[simp] theorem heldWhole_withCores (p : Target) : (s.withCores cs).heldWhole p = s.heldWhole p := rfl
@[simp] theorem walk_withCores (d : VDev) (va : Nat) : walk (s.withCores cs) d va = walk s d va := rfl
@[simp] theorem locOf_withCores (d : VDev) (va lv : Nat) (e : Word) : locOf (s.withCores cs) d va lv e = locOf s d va lv e := rfl
@[simp] theorem coreAt_withCores (n : Nat) : (s.withCores cs).coreAt n = getK Core.reset n cs := rfl

theorem modCore_withCores (n : Nat) (f : Core → Core) :
    (s.withCores cs).modCore n f = s.withCores (setK n (f (getK Core.reset n cs)) cs) := rfl

end

/-- The cores after a fetch from memory: the executing core has its TLB, and every line that it caches anew is as memory has
it. -/
structure Warmed (s : State) (cs : List (Nat × Core)) : Prop where
  tlb   : (getK Core.reset s.me.core cs).tlb = (s.coreAt s.me.core).tlb
  lines : ∀ e ∈ (getK Core.reset s.me.core cs).icache, e ∈ (s.coreAt s.me.core).icache ∨ e.2 = lineAt s.mem e.1

theorem warmed_self (s : State) : Warmed s s.cores := ⟨rfl, fun _ h => .inl h⟩

/-! ### Translation -/

/-- A state whose TLB has taken a leaf that it had not is another state. -/
theorem ne_of_tlb_filled {s t : State} {core v va way : Nat} {e : Tlb} (hmiss : (s.coreAt core).tlb.find? (·.hits v va) = none)
    (hhits : e.hits v va = true) (htlb : (t.coreAt core).tlb = addTlb 32 way e (s.coreAt core).tlb) : t ≠ s := by
  rintro rfl
  have hin : e ∈ (t.coreAt core).tlb := by
    rw [htlb]; unfold addTlb; split <;> exact List.mem_cons_self
  exact List.find?_eq_none.1 hmiss e hin hhits

theorem tlb_fillTlb (s : State) (core : Nat) (e : Tlb) :
    ((s.fillTlb core e).coreAt core).tlb = addTlb 32 s.turn.way e (s.coreAt core).tlb :=
  congrArg Core.tlb (getK_setK_same Core.reset core _ s.cores)

/-- A leaf that is found with the TLBs left alone is found with another instruction cache too. -/
theorem leafFor_warmed {s : State} {cs : List (Nat × Core)} (hw : Warmed s cs) {d : VDev} {va : Nat} {w : Walk}
    (h : s.leafFor s.me.core d va = (w, s)) : (s.withCores cs).leafFor s.me.core d va = (w, s.withCores cs) := by
  unfold leafFor at h ⊢
  simp only [coreAt_withCores, hw.tlb, withCores_clTlb, walk_withCores, locOf_withCores]
  split at h
  case h_1 => cases h; rfl
  case h_2 hmiss =>
    split at h
    case h_1 e hcluster =>
      have hhits : e.hits d.num va = true := List.find?_some (p := fun t : Tlb => t.hits d.num va) hcluster
      exact absurd (congrArg Prod.snd h)
        (ne_of_tlb_filled (way := s.turn.way) hmiss hhits (congrArg Core.tlb (getK_setK_same Core.reset _ _ _)))
    case h_2 =>
      split at h
      case h_1 lv e hleaf =>
        by_cases hloc : (locOf s d va lv e).isNone = true
        · rw [if_pos hloc] at h
          cases h
          exact congrArg (Prod.mk _) (if_pos hloc)
        · rw [if_neg hloc] at h
          exact absurd (congrArg Prod.snd h) (ne_of_tlb_filled hmiss (by simp [Tlb.hits]) (tlb_fillTlb ..))
      case h_2 => cases h; rfl

/-- The same for a translation. -/
theorem translate_warmed {s : State} {cs : List (Nat × Core)} (hw : Warmed s cs) {d : VDev} {m : Mode} {k : Access} {both : Bool}
    {va : Word} {l : Loc} (h : translate s s.me.core d m k both va = .ok (l, s)) :
    translate (s.withCores cs) s.me.core d m k both va = .ok (l, s.withCores cs) := by
  have hleaf := fun w => leafFor_warmed hw (d := d) (va := va.toNat) (w := w)
  unfold translate at h ⊢
  simp only [locOf_withCores]
  split at h
  case h_1 => cases h
  case h_2 => cases h
  case h_3 lv e s' hfound =>
    by_cases hperm : (!permits k both e || m == .U && !pteU e) = true
    · rw [if_pos hperm] at h; cases h
    rw [if_neg hperm] at h
    cases hloc : locOf s d va.toNat lv e with
    | none => rw [hloc] at h; cases h
    | some place =>
      rw [hloc] at h
      dsimp only at h
      by_cases htype : k = .fetch ∧ 2 ≤ place.ty
      · rw [if_pos htype] at h; cases h
      rw [if_neg htype] at h
      cases h
      rw [hleaf _ hfound]
      simp only [if_neg hperm, hloc, if_neg htype]

/-! ### The parcel -/

/-- Parcel `p` stands in memory at virtual address `va`, at place `l`, where a fetch meets nothing else (R66, R95, R195). -/
structure Stands (s : State) (d : VDev) (va : Word) (p : Parcel) (l : Loc) : Prop where
  global     : isGlobal va = true
  translated : translate s s.me.core d s.strand.mode .fetch false va = .ok (l, s)
  even       : l.pa % 2 = 0
  own        : s.isOwn l = true
  good       : s.lineBad (l.pa / 32) = false
  free       : s.heldWhole (.line (l.pa / 32 * 32)) = false
  intact     : s.turn.icErr ≠ some (l.pa / 32)
  uncached   : ∀ e ∈ (s.coreAt s.me.core).icache, e.1 ≠ l.pa / 32
  bytes      : s.mem.nat l.pa 2 = p.toNat

theorem moduleOfPa_line (pa : Nat) : moduleOfPa (pa / 32 * 32) = moduleOfPa pa := by
  unfold moduleOfPa; omega

theorem fetchLine_cached {s : State} {core line : Nat} {p : Nat × V256}
    (h : ((s.coreAt core).icache.find? fun p => p.1 == line) = some p) : s.fetchLine core line = (p.2, s) := by
  unfold fetchLine; rw [h]

theorem fetchLine_filled {s : State} {core line : Nat} (h : ((s.coreAt core).icache.find? fun p => p.1 == line) = none)
    (hown : moduleOfPa (line * 32) = s.mp.module) : s.fetchLine core line = (lineAt s.mem line, s.modCore core fun c =>
      { c with icache := (line, lineAt s.mem line) :: c.icache.take (icacheLines - 1) }) := by
  unfold fetchLine; rw [h]; simp [hown]

/-- A line of this module that the core had not cached comes as memory has it. -/
theorem fetchLine_warmed {s : State} {cs : List (Nat × Core)} (hw : Warmed s cs) {line : Nat}
    (hown : moduleOfPa (line * 32) = s.mp.module) (hnew : ∀ e ∈ (s.coreAt s.me.core).icache, e.1 ≠ line) :
    ∃ cs', (s.withCores cs).fetchLine s.me.core line = (lineAt s.mem line, s.withCores cs') ∧ Warmed s cs' := by
  cases hfind : ((s.withCores cs).coreAt s.me.core).icache.find? fun p => p.1 == line with
  | some p =>
    have hin := List.mem_of_find?_eq_some hfind
    have hline : p.1 = line := by simpa using List.find?_some hfind
    have hdata : p.2 = lineAt s.mem p.1 := (hw.lines p hin).resolve_left fun h => hnew p h hline
    exact ⟨cs, by rw [fetchLine_cached hfind, hdata, hline], hw⟩
  | none =>
    refine ⟨_, (fetchLine_filled hfind hown).trans (by rw [modCore_withCores, withCores_mem]), ?_, fun e he => ?_⟩
    · rw [getK_setK_same]; exact hw.tlb
    · rw [getK_setK_same] at he
      obtain rfl | htail := List.mem_cons.1 he
      · exact .inr rfl
      · exact hw.lines e (List.mem_of_mem_take htail)

/-- A parcel that stands in memory is fetched as it stands (R95). -/
theorem parcelAt_stands {s : State} {cs : List (Nat × Core)} (hw : Warmed s cs) {d : VDev} {va : Word} {p : Parcel} {l : Loc}
    (hdev : s.vdevOf s.me = some d) (h : Stands s d va p l) :
    ∃ cs', (s.withCores cs).parcelAt va = .ok (p, s.withCores cs') ∧ Warmed s cs' := by
  have hown : moduleOfPa (l.pa / 32 * 32) = s.mp.module := (moduleOfPa_line _).trans (by simpa [isOwn] using h.own)
  obtain ⟨cs', hfetch, hw'⟩ := fetchLine_warmed hw hown h.uncached
  have hbits : (lineAt s.mem (l.pa / 32)).extractLsb' (8 * (l.pa % 32)) 16 = p :=
    BitVec.eq_of_toNat_eq ((extract_lineAt _ _ h.even).trans h.bytes)
  refine ⟨cs', ?_, hw'⟩
  unfold parcelAt
  simp only [h.global, withCores_me, vdevOf_withCores, hdev, strand_withCores, translate_warmed hw h.translated, withCores_turn,
    h.intact, lineBad_withCores, h.good, heldWhole_withCores, h.free, hfetch, hbits, Bool.not_true, Bool.false_and,
    Bool.false_eq_true, if_false]

/-! ### The chain -/

/-- The parcels `ps` stand in memory one behind the other from `va` up. -/
def StandFrom (s : State) (d : VDev) : Word → List Parcel → Prop
  | _, [] => True
  | va, p :: ps => (∃ l, Stands s d va p l) ∧ StandFrom s d (va + 2) ps

theorem standFrom_of_forall {s : State} {d : VDev} {ps : List Parcel} {va : Word}
    (h : ∀ j, j < ps.length → ∃ l, Stands s d (va + BitVec.ofNat 64 (2 * j)) (ps.getD j 0) l) : StandFrom s d va ps := by
  induction ps generalizing va with
  | nil => trivial
  | cons p ps ih =>
    refine ⟨by simpa using h 0 (Nat.succ_pos _), ih fun j hj => ?_⟩
    have haddr : va + BitVec.ofNat 64 (2 * (j + 1)) = va + 2 + BitVec.ofNat 64 (2 * j) := by
      rw [Nat.mul_add, BitVec.ofNat_add, BitVec.add_assoc, BitVec.add_comm (BitVec.ofNat 64 (2 * j))]
      rfl
    simpa [haddr] using h (j + 1) (Nat.succ_lt_succ hj)

/-- Parcels that scan to a chain and stand in memory are fetched as that chain (R82). -/
theorem fetchFrom_stands {s : State} {d : VDev} (hdev : s.vdevOf s.me = some d) {c : Chain} (ps : List Parcel) :
    ∀ {cs : List (Nat × Core)} {va : Word} {sc : Scan} {fuel : Nat} (before : List Parcel), Warmed s cs →
      fuel + sc.count = 4 → scanFrom sc ps = some (.done c (sc.count + ps.length)) → StandFrom s d va ps →
      ∃ cs', fetchFrom (s.withCores cs) va sc (fuel + 1) before = (.chain c (before ++ ps), s.withCores cs') := by
  induction ps with
  | nil => intro _ _ _ _ _ _ _ hscan; cases hscan
  | cons p ps ih =>
    intro cs va sc fuel before hw hfuel hscan hstand
    obtain ⟨⟨l, hp⟩, hrest⟩ := hstand
    obtain ⟨cs', hparcel, hw'⟩ := parcelAt_stands hw hdev hp
    rw [scanFrom] at hscan
    cases hfeed : sc.feed p with
    | more sc' =>
      obtain ⟨hcount, hfour⟩ := Scan.feed_more hfeed
      obtain ⟨fuel, rfl⟩ : ∃ n, fuel = n + 1 := ⟨fuel - 1, by omega⟩
      rw [hfeed] at hscan
      have hlen : sc.count + (p :: ps).length = sc'.count + ps.length := by rw [hcount, List.length_cons]; omega
      obtain ⟨cs'', htail⟩ := ih (before ++ [p]) hw' (by omega : fuel + sc'.count = 4) (hlen ▸ hscan) hrest
      refine ⟨cs'', ?_⟩
      rw [fetchFrom, hparcel]
      simp only [hfeed]
      rw [htail, List.append_assoc, List.singleton_append]
    | done c' n =>
      have hone := Scan.feed_done hfeed
      simp only [hfeed, Option.some.injEq, Scanned.done.injEq] at hscan
      obtain ⟨rfl, hn⟩ := hscan
      obtain rfl : ps = [] := List.length_eq_zero_iff.1 (by rw [List.length_cons] at hn; omega)
      exact ⟨cs', by simp only [fetchFrom, hparcel, hfeed]⟩
    | bad n => rw [hfeed] at hscan; cases hscan

/-- A strand that holds at no instruction and is in no `rep` body fetches from memory. -/
theorem fetchNext_fetchAt {s : State} (hrep : inRep s.strand = false)
    (hheld : s.strand.sync.held = false ∨ s.strand.sync.insn = []) : s.fetchNext = fetchAt s s.strand.pc := by
  have hnew : (s.strand.sync.held && !s.strand.sync.insn.isEmpty) = false := by
    obtain h | h := hheld <;> simp [h]
  simp [fetchNext, hnew, hrep]

end State

/-- Settles O56: the parcels that stand in memory are fetched one by one, each line as memory has it, and nothing but the
core's instruction cache changes. -/
theorem fetchReadsMemory : Obligations.FetchReadsMemory := by
  intro s d ps i loc hrep hheld hdev hdecode hplaces
  obtain ⟨c, hscan, hchain⟩ := scanFrom_of_decodeParcels hdecode
  have hstand : s.StandFrom d s.strand.pc ps := State.standFrom_of_forall fun j hj => by
    obtain ⟨hglobal, htrans, heven, hown, hgood, hfree, hintact, hnew, hbytes⟩ := hplaces j hj
    exact ⟨loc j, hglobal, htrans, heven, hown, hgood, hfree, hintact, hnew, hbytes⟩
  obtain ⟨cs, hfetch⟩ := State.fetchFrom_stands hdev ps [] s.warmed_self (sc := Scan.start) (fuel := 4) rfl
    (by simpa [Scan.start] using hscan) hstand
  have hnext : s.fetchNext = (.chain c ps, s.withCores cs) := (State.fetchNext_fetchAt hrep hheld).trans hfetch
  exact ⟨c, congrArg Prod.fst hnext, hchain, by rw [hnext]; rfl⟩

end Machine
end Sys2Proof
end

section
/-! PROOFS. Scalar floating-point arithmetic on a NaN operand (R120, R129). -/

namespace Sys2Proof.Machine

/-! ## What an operation gives for a NaN operand -/

namespace Fmt

/-- With FPC.NAN clear, every NaN result is the canonical one of its format (R129), whichever operand is found first. -/
theorem nanOf_canonical {env : FpEnv} (hclear : env.nan = false) (f : Fmt) (ops : List Fv) : f.nanOf env ops = f.nanBits := by
  unfold nanOf
  split
  · simp [hclear]
  · rfl

section
variable {x y z : Fv} (f : Fmt) (env : FpEnv)

theorem add_of_isNaN (h : (x.isNaN || y.isNaN) = true) : f.add env x y = (f.nanOf env [x, y], snanFlag [x, y]) :=
  if_pos h

theorem mul_of_isNaN (h : (x.isNaN || y.isNaN) = true) : f.mul env x y = (f.nanOf env [x, y], snanFlag [x, y]) :=
  if_pos h

theorem div_of_isNaN (h : (x.isNaN || y.isNaN) = true) : f.div env x y = (f.nanOf env [x, y], snanFlag [x, y]) :=
  if_pos h

/-- A fused multiply-add has two ways to the NaN result: a factor zero against a factor infinity, which raises NV, and a NaN
operand (R362). Only the flags tell them apart. -/
theorem fma_fst_of_isNaN (h : (x.isNaN || y.isNaN || z.isNaN) = true) : (f.fma env x y z).1 = f.nanOf env [x, y, z] := by
  by_cases hbad : ((x.isZero && y.isInf) || (x.isInf && y.isZero)) = true
  · rw [fma, if_pos hbad]
  · rw [fma, if_neg hbad, if_pos h]

end

end Fmt

/-- Settles O24: the table by evaluating each format; then each operation's result is the NaN result of its operands, which
FPC.NAN clear makes the canonical one. -/
theorem canonicalNaNs : Obligations.CanonicalNaNs := by
  refine ⟨by decide, by decide, by decide, by decide, by decide, by decide, fun f env x y z hclear hnan => ?_⟩
  have hxy : (x.isNaN || y.isNaN) = true := (Bool.or_eq_true ..).mpr hnan
  have hxyz : (x.isNaN || y.isNaN || z.isNaN) = true := (Bool.or_eq_true ..).mpr (.inl hxy)
  have hcanon := Fmt.nanOf_canonical hclear f
  refine ⟨?_, ?_, ?_, ?_⟩
  · rw [Fmt.add_of_isNaN f env hxy, hcanon]
  · rw [Fmt.mul_of_isNaN f env hxy, hcanon]
  · rw [Fmt.div_of_isNaN f env hxy, hcanon]
  · rw [Fmt.fma_fst_of_isNaN f env hxyz, hcanon]

end Sys2Proof.Machine
end

section
/-! PROOFS. Tile storage and the claims of its registers: what an image, a core and TOWN read after a write (R77, R78, R138). -/

namespace Sys2Proof.Machine

theorem field_eq {m : Nat} (w : BitVec m) (lo n : Nat) : field w lo n = w.toNat / 2 ^ lo % 2 ^ n := by
  rw [field, BitVec.extractLsb'_toNat, Nat.shiftRight_eq_div_pow]

/-! ## TOWN -/

theorem townSlot_eq (town : Word) (k : Nat) : townSlot town k = field town (5 * k) 2 := by
  rw [townSlot, townGroup, field_eq, field_eq, show 4 = 2 ^ 2 from rfl, Nat.mod_mod_of_dvd _ (by decide)]

/-- A claim of a free register gives it to the slot. -/
theorem townSlot_claimed {town : Word} {k : Nat} (slot : Nat) (hk : k < 12) (hfree : townOwn town k = false) :
    townSlot (claimed town k slot) k = slot % 4 := by
  rw [claimed, hfree, if_neg Bool.false_ne_true, townSlot, townGroup, setTown, field_setField_same _ _ _ _ (by omega)]
  omega

theorem townSlot_setDirty (town : Word) (k : Nat) (d : Bool) : townSlot (setDirty town k d) k = townSlot town k := by
  rw [townSlot_eq, townSlot_eq]
  exact field_setField_above _ _ _ _ _ _ (by omega)

/-- A claim takes no register from its owner. -/
theorem townOwn_claimed_mono {town : Word} {j : Nat} (k slot : Nat) (h : townOwn town j = true) :
    townOwn (claimed town k slot) j = true := by
  unfold claimed
  split
  · exact h
  · next hfree =>
    have hne : j ≠ k := fun e => hfree (e ▸ h)
    refine Eq.trans ?_ h
    unfold townOwn setTown
    obtain hbelow | habove := Nat.lt_or_gt_of_ne hne
    · exact getLsbD_setField_lt _ _ _ _ _ (by omega)
    · exact getLsbD_setField_ge _ _ _ _ _ (by omega)

theorem tile_lt_twelve (t : TReg) : t.toNat < 12 := Nat.lt_trans t.isLt (by omega)

/-! ## Elements of an image (R138) -/

theorem imgElem_imgSet_same (img : Image) (v : Nat) {s i j : Nat} (hi : i < 16) (hj : (j + 1) * s ≤ 64) :
    imgElem (imgSet img s i j v) s i j = v % 2 ^ (8 * s) := by
  rw [Nat.succ_mul] at hj
  exact field_setField_same _ _ _ _ (by omega)

/-- Two elements of the storage share no bit. -/
theorem imgElem_imgSet_other (img : Image) (v : Nat) {s i j p q : Nat} (hj : (j + 1) * s ≤ 64) (hq : (q + 1) * s ≤ 64)
    (h : (p, q) ≠ (i, j)) : imgElem (imgSet img s p q v) s i j = imgElem img s i j := by
  have hcols : q < j → (q + 1) * s ≤ j * s := fun hlt => Nat.mul_le_mul_right s hlt
  have hcols' : j < q → (j + 1) * s ≤ q * s := fun hlt => Nat.mul_le_mul_right s hlt
  rw [Nat.succ_mul] at hj hq hcols hcols'
  obtain hbefore | hafter : (p < i ∨ p = i ∧ q < j) ∨ (i < p ∨ i = p ∧ j < q) := by
    rw [Ne, Prod.mk.injEq] at h; omega
  · exact field_setField_below _ _ _ _ _ _ (by omega)
  · exact field_setField_above _ _ _ _ _ _ (by omega)

theorem imgWrite_cons (img : Image) (g : BitVec 17) (e : Nat × Nat × Nat) (es : List (Nat × Nat × Nat)) :
    imgWrite img g (e :: es) =
      imgWrite (if e.1 < cfgRows g ∧ e.2.1 < cfgCols g then imgSet img (cfgSize g) e.1 e.2.1 e.2.2 else img) g es := rfl

section
variable {g : BitVec 17} (hcols : cfgCols g * cfgSize g ≤ 64)
include hcols

/-- An element of the grant ends inside the 64 bytes of its row. -/
theorem col_fits {j : Nat} (hj : j < cfgCols g) : (j + 1) * cfgSize g ≤ 64 := Nat.le_trans (Nat.mul_le_mul_right _ hj) hcols

/-- Elements that are not written stay. -/
theorem imgElem_imgWrite_other {es : List (Nat × Nat × Nat)} {i j : Nat} (hj : (j + 1) * cfgSize g ≤ 64)
    (h : ∀ e ∈ es, (e.1, e.2.1) ≠ (i, j)) (img : Image) :
    imgElem (imgWrite img g es) (cfgSize g) i j = imgElem img (cfgSize g) i j := by
  induction es generalizing img with
  | nil => rfl
  | cons e es ih =>
    obtain ⟨hhead, htail⟩ := List.forall_mem_cons.1 h
    rw [imgWrite_cons, ih htail]
    split
    · next hin => exact imgElem_imgSet_other _ _ hj (col_fits hcols hin.2) hhead
    · rfl

/-- An element of the grant that is written with one value has it. -/
theorem imgElem_imgWrite {es : List (Nat × Nat × Nat)} {i j v : Nat} (hrows : cfgRows g ≤ 16) (hi : i < cfgRows g)
    (hj : j < cfgCols g) (hv : (i, j, v) ∈ es) (hone : ∀ e ∈ es, (e.1, e.2.1) = (i, j) → e.2.2 = v) (img : Image) :
    imgElem (imgWrite img g es) (cfgSize g) i j = v % 2 ^ (8 * cfgSize g) := by
  have hfits := col_fits hcols hj
  induction es generalizing img with
  | nil => cases hv
  | cons e es ih =>
    obtain ⟨-, htail⟩ := List.forall_mem_cons.1 hone
    rw [imgWrite_cons]
    by_cases hlater : (i, j, v) ∈ es
    · exact ih hlater htail _
    · obtain rfl : (i, j, v) = e := (List.mem_cons.1 hv).resolve_right hlater
      have hno : ∀ e ∈ es, (e.1, e.2.1) ≠ (i, j) := fun e he hat => by
        obtain ⟨hi, hj⟩ := Prod.mk.inj hat
        exact hlater (hi ▸ hj ▸ htail e he hat ▸ he)
      rw [imgElem_imgWrite_other hcols hfits hno, if_pos ⟨hi, hj⟩]
      exact imgElem_imgSet_same _ _ (Nat.lt_of_lt_of_le hi hrows) hfits

end

/-! ## A core with its tiles -/

namespace Core

/-- The core with a register claimed for a slot, and with a register's DIRTY. -/
def claim (c : Core) (k slot : Nat) : Core := { c with town := claimed c.town k slot }
def mark (c : Core) (k : Nat) (d : Bool) : Core := { c with town := setDirty c.town k d }

variable (c : Core) (t q : TReg)

@[simp] theorem tile_setTile (i : Image) : (c.setTile t i).tile q = if q = t then i else c.tile q := by simp [tile, setTile]
@[simp] theorem cfg_setTile (i : Image) : (c.setTile t i).cfg q = c.cfg q := rfl
@[simp] theorem cfg_setCfg (g : BitVec 17) : (c.setCfg t g).cfg q = if q = t then g else c.cfg q := by simp [cfg, setCfg]
@[simp] theorem tile_setCfg (g : BitVec 17) : (c.setCfg t g).tile q = c.tile q := rfl
@[simp] theorem tile_mark (k : Nat) (d : Bool) : (c.mark k d).tile q = c.tile q := rfl
@[simp] theorem tile_claim (k slot : Nat) : (c.claim k slot).tile q = c.tile q := rfl
@[simp] theorem cfg_mark (k : Nat) (d : Bool) : (c.mark k d).cfg q = c.cfg q := rfl
@[simp] theorem town_mark (k : Nat) (d : Bool) : (c.mark k d).town = setDirty c.town k d := rfl

end Core

namespace State

theorem withCore_withCore (s : State) (f g : Core → Core) : (s.withCore f).withCore g = s.withCore fun c => g (f c) := by
  have hcore : (s.withCore f).core = f s.core := core_withCore ..
  unfold withCore at hcore ⊢
  rw [hcore]
  simp only [setCore, setK_setK]

theorem claimReg_eq (s : State) (k : Nat) : s.claimReg k = s.withCore (·.claim k s.me.slot) := rfl
theorem dirty_eq (s : State) (k : Nat) (d : Bool) : s.dirty k d = s.withCore (·.mark k d) := rfl

theorem waitWrite_free {s : State} {r : MReg} (h : s.core.owesWrite r = false) : s.waitWrite [r] = .ok () s := by
  simp [waitWrite, h]

end State

/-- A meaning that answers a state in which the next PC is as it was. -/
theorem completes_of_finish {i : Instr} {s m : State} {P : State → Prop} {nxt : Word} (h : exec i s = finish s (.ok () m))
    (hn : fallsTo m = nxt) (hp : ∀ u, Retires m u nxt → P u) : Completes i s P :=
  ⟨m.retire, h, hp _ (hn ▸ retires_retire m)⟩

end Sys2Proof.Machine
end

section
/-! PROOFS. The configuration of a tile (R139, R140, R424). -/

namespace Sys2Proof.Machine

/-! ## The grant -/

section
variable {rows cols code : Nat} (hrows : rows ≤ 16) (hcols : cols ≤ 64) (hcode : code < 16)
include hrows hcols hcode

theorem toNat_mkCfg : (mkCfg rows cols code).toNat = rows + 32 * cols + 4096 * code + 65536 := by
  rw [mkCfg, BitVec.toNat_ofNat, Nat.mod_eq_of_lt (by omega)]

theorem mkCfg_ne_zero : mkCfg rows cols code ≠ 0 := by
  intro h
  have hnat := congrArg BitVec.toNat h
  rw [toNat_mkCfg hrows hcols hcode] at hnat
  exact absurd hnat (by simp)

theorem cfgRows_mkCfg : cfgRows (mkCfg rows cols code) = rows := by
  rw [cfgRows, field_eq, toNat_mkCfg hrows hcols hcode]; omega

theorem cfgCols_mkCfg : cfgCols (mkCfg rows cols code) = cols := by
  rw [cfgCols, field_eq, toNat_mkCfg hrows hcols hcode]; omega

theorem cfgSize_mkCfg : cfgSize (mkCfg rows cols code) = (tyOfCode code).bits / 8 := by
  have hfield : cfgCode (mkCfg rows cols code) = code := by
    rw [cfgCode, field_eq, toNat_mkCfg hrows hcols hcode]; omega
  rw [cfgSize, cfgTy, hfield]

end

theorem grantOf_eq (req : Word) (strict : Bool) :
    let rows := req.toNat % 256
    let cols := req.toNat / 256 % 256
    let code := req.toNat / 65536 % 16
    let size := (tyOfCode code).bits / 8
    grantOf req strict = if (rows == 0 || cols == 0 || [3, 7, 13, 15].contains code) ||
        strict && (decide (16 < rows) || decide (64 / size < cols)) then 0
      else mkCfg (min rows 16) (min cols (64 / size)) code := by
  intro rows cols code size
  have hrows : field req 0 8 = rows := (field_eq ..).trans (congrArg (· % 2 ^ 8) (Nat.div_one _))
  have hcols : field req 8 8 = cols := field_eq ..
  have hcode : field req 16 4 = code := field_eq ..
  have hbad : (rows = 0 ∨ cols = 0 ∨ code = 3 ∨ code = 7 ∨ code = 13 ∨ code = 15) ↔
      (rows == 0 || cols == 0 || [3, 7, 13, 15].contains code) = true := by simp [or_assoc]
  have hsmall : (strict = true ∧ (16 < rows ∨ 64 / size < cols)) ↔
      (strict && (decide (16 < rows) || decide (64 / size < cols))) = true := by simp
  simp only [grantOf, hrows, hcols, hcode]
  by_cases h : (rows == 0 || cols == 0 || [3, 7, 13, 15].contains code) = true
  · rw [if_pos (hbad.2 h), if_pos (Bool.or_eq_true_iff.2 (.inl h))]
  · rw [if_neg (mt hbad.1 h), Bool.eq_false_iff.2 h, Bool.false_or]
    exact ite_congr (propext hsmall) (fun _ => rfl) fun _ => rfl

/-! ## Its application -/

/-- A new configuration keeps the storage: rows and bytes a row are as before (R140). -/
def keepsStorage (old g : BitVec 17) : Bool :=
  cfgOn old && cfgRows old == cfgRows g && cfgCols old * cfgSize old == cfgCols g * cfgSize g

theorem keepsStorage_iff (old g : BitVec 17) : keepsStorage old g = true ↔
    cfgOn old = true ∧ cfgRows old = cfgRows g ∧ cfgCols old * cfgSize old = cfgCols g * cfgSize g := by
  simp [keepsStorage, and_assoc]

/-- A core with a tile configured by a grant: the storage kept, or cleared with its DIRTY. -/
def Core.granted (c : Core) (t : TReg) (g : BitVec 17) : Core :=
  if keepsStorage (c.cfg t) g then c.setCfg t g else ((c.setTile t 0).setCfg t g).mark t.toNat false

namespace State

theorem applyGrant_eq (s : State) (t : TReg) (g : BitVec 17) : s.applyGrant t g = s.withCore (·.granted t g) := by
  unfold applyGrant
  show (if keepsStorage (s.core.cfg t) g then _ else _) = s.setCore s.me.core (s.core.granted t g)
  unfold Core.granted
  split
  · rfl
  · rw [dirty_eq, withCore_withCore]; rfl

section
variable {s : State} {t : TReg} (hmay : mayTouch s.core.town t.toNat s.me.slot = true)
  (hfree : s.core.owesUse (.tile t) = false) {a c : XReg} {strict : Bool}
include hmay hfree

/-- What a request does once the tile may be touched and no record owes it. -/
theorem tileConfig_eq : s.tileConfig a t c strict = .ok ()
    ((if grantOf (s.x c) strict = 0 then s.claimReg t.toNat
      else (s.claimReg t.toNat).applyGrant t (grantOf (s.x c) strict)).setX a ((grantOf (s.x c) strict).zeroExtend 64)) := by
  show ((s.touchOwn t.toNat).bind _) = _
  rw [touchOwn_may hmay]
  show ((s.waitUse [.tile t]).bind _) = _
  rw [waitUse_free hfree]
  rfl

theorem tileConfig_refused (hg : grantOf (s.x c) strict = 0) :
    s.tileConfig a t c strict = .ok () ((s.withCore (·.claim t.toNat s.me.slot)).setX a 0) := by
  rw [tileConfig_eq hmay hfree, hg, if_pos rfl]
  rfl

theorem tileConfig_granted {g : BitVec 17} (hg : grantOf (s.x c) strict = g) (hne : g ≠ 0) : s.tileConfig a t c strict =
    .ok () ((s.withCore fun k => (k.claim t.toNat s.me.slot).granted t g).setX a (BitVec.ofNat 64 g.toNat)) := by
  rw [tileConfig_eq hmay hfree, hg, if_neg hne, applyGrant_eq, claimReg_eq, withCore_withCore, BitVec.ofNat_toNat]

end

end State

theorem Core.tile_granted_same (c : Core) (t : TReg) (g : BitVec 17) :
    (c.granted t g).tile t = if keepsStorage (c.cfg t) g then c.tile t else 0 := by
  unfold granted
  split
  · rfl
  · exact (tile_setTile c t t 0).trans (if_pos rfl)

theorem Core.tile_granted_other (c : Core) {t q : TReg} (g : BitVec 17) (h : q ≠ t) : (c.granted t g).tile q = c.tile q := by
  unfold granted
  split
  · rfl
  · exact (tile_setTile c t q 0).trans (if_neg h)

theorem Core.cfg_granted (c : Core) (t q : TReg) (g : BitVec 17) : (c.granted t g).cfg q = if q = t then g else c.cfg q := by
  unfold granted
  split <;> simp

theorem Core.town_granted (c : Core) (t : TReg) (g : BitVec 17) :
    townOwn (c.granted t g).town t.toNat = townOwn c.town t.toNat ∧
      townSlot (c.granted t g).town t.toNat = townSlot c.town t.toNat := by
  unfold granted
  split
  · exact ⟨rfl, rfl⟩
  · exact ⟨townOwn_setDirty .., townSlot_setDirty ..⟩

/-- Settles O34: a refused request only claims the tile, a granted one applies the grant to the core as well. -/
theorem tileConfigure : Obligations.TileConfigure := by
  intro s a c t hmay hfree rows cols code size bad configures
  have hown := townOwn_claimed s.core.town s.me.slot (tile_lt_twelve t)
  have hslot := townSlot_claimed (town := s.core.town) s.me.slot (tile_lt_twelve t)
  have refuses (i : Instr) (strict : Bool) (hi : exec i s = finish s (s.tileConfig a t c strict))
      (hg : grantOf (s.x c) strict = 0) : configures i true := by
    rw [State.tileConfig_refused hmay hfree hg] at hi
    refine completes_of_finish hi (by simp [fallsTo]) fun u hu => ⟨_, hu, rfl, ?_⟩
    simp only [State.core_setX, State.core_withCore]
    exact ⟨fun r => State.x_setX .., rfl, rfl, fun _ _ => ⟨rfl, rfl⟩, hown, hslot,
      fun r => ⟨State.v_setX .., State.b_setX _ _ _⟩⟩
  have grants (i : Instr) (strict : Bool) (hi : exec i s = finish s (s.tileConfig a t c strict))
      (hg : grantOf (s.x c) strict = mkCfg (min rows 16) (min cols (64 / size)) code) : configures i false := by
    have hrows : min rows 16 ≤ 16 := Nat.min_le_right ..
    have hcols : min cols (64 / size) ≤ 64 := Nat.le_trans (Nat.min_le_right ..) (Nat.div_le_self ..)
    have hcode : code < 16 := Nat.mod_lt _ (by omega)
    have hnat := toNat_mkCfg hrows hcols hcode
    have hkeep := keepsStorage_iff (s.core.cfg t) (mkCfg (min rows 16) (min cols (64 / size)) code)
    rw [cfgRows_mkCfg hrows hcols hcode, cfgCols_mkCfg hrows hcols hcode, cfgSize_mkCfg hrows hcols hcode] at hkeep
    rw [State.tileConfig_granted hmay hfree hg (mkCfg_ne_zero hrows hcols hcode)] at hi
    generalize mkCfg (min rows 16) (min cols (64 / size)) code = g at hi hnat hkeep
    obtain ⟨hown', hslot'⟩ := (s.core.claim t.toNat s.me.slot).town_granted t g
    refine completes_of_finish hi (by simp [fallsTo]) fun u hu => ⟨_, hu, rfl, ?_⟩
    simp only [State.core_setX, State.core_withCore]
    refine ⟨fun r => ?x, ?cfg, ?tile, fun q hq => ⟨?cfgs, Core.tile_granted_other _ _ hq⟩, hown'.trans hown,
      fun h => hslot'.trans (hslot h), fun r => ⟨State.v_setX .., State.b_setX _ _ _⟩⟩
    case x => rw [State.x_setX, hnat]; rfl
    case cfg => rw [Core.cfg_granted, if_pos rfl]; exact hnat
    case tile => rw [Core.tile_granted_same]; exact ite_congr (propext (hkeep.trans (by simp [size]))) (fun _ => rfl) fun _ => rfl
    case cfgs => rw [Core.cfg_granted, if_neg hq]; rfl
  have hgrant := grantOf_eq (s.x c)
  have key (i : Instr) (strict refused : Bool) (hi : exec i s = finish s (s.tileConfig a t c strict))
      (hg : grantOf (s.x c) strict = if refused then 0 else mkCfg (min rows 16) (min cols (64 / size)) code) :
      configures i refused := by
    cases refused with
    | true => exact refuses i strict hi hg
    | false => exact grants i strict hi hg
  refine ⟨key _ false _ rfl ?_, key _ true _ rfl ?_⟩
  · rw [hgrant, Bool.false_and, Bool.or_false]
  · rw [hgrant, Bool.true_and, ← Bool.or_assoc]

end Sys2Proof.Machine
end

section
/-! PROOFS. Loads and stores of tiles (R143, R144, R427). -/

namespace Sys2Proof.Machine

/-! ## The elements of a transfer -/

/-- Rows of one length, one after another, by their positions. -/
theorem flatMap_range_map {α : Type} (n m : Nat) (f : Nat → Nat → α) :
    ((List.range n).flatMap fun i => (List.range m).map (f i)) = (List.range (n * m)).map fun k => f (k / m) (k % m) := by
  induction n with
  | zero => simp
  | succ n ih =>
    have hrow : ∀ j ∈ List.range m, f n j = f ((n * m + j) / m) ((n * m + j) % m) := fun j hj => by
      have hj : j < m := List.mem_range.1 hj
      rw [Nat.mul_comm, Nat.mul_add_div (Nat.zero_lt_of_lt hj), Nat.div_eq_of_lt hj, Nat.add_zero, Nat.mul_add_mod,
        Nat.mod_eq_of_lt hj]
    rw [List.range_succ, List.flatMap_append, ih, Nat.succ_mul, List.range_add, List.map_append, List.map_map,
      List.flatMap_singleton, List.map_congr_left hrow]
    rfl

/-- The elements of a grant with the values that a load brings. -/
def readValues (g : BitVec 17) (bs : List (List Byte)) : List (Nat × Nat × Nat) :=
  (List.range (cfgRows g * cfgCols g)).map fun k => (k / cfgCols g, k % cfgCols g, natOfBytes (bs.getD k []))

section
variable (g : BitVec 17) (base stride : Word)

theorem map_tileElems {α : Type} (tr : Bool) (f : Nat × Nat × Word → α) : (State.tileElems g base stride tr).map f =
    (List.range (cfgRows g)).flatMap fun i => (List.range (cfgCols g)).map fun j =>
      f (i, j, if tr then base + BitVec.ofNat 64 j * stride + BitVec.ofNat 64 (i * cfgSize g)
        else base + BitVec.ofNat 64 i * stride + BitVec.ofNat 64 (j * cfgSize g)) := by
  cases tr <;> simp only [State.tileElems, List.map_flatMap, List.map_map] <;> rfl

theorem zip_tileElems (tr : Bool) {bs : List (List Byte)} (h : bs.length = cfgRows g * cfgCols g) :
    ((State.tileElems g base stride tr).zip bs).map (fun p => (p.1.1, p.1.2.1, natOfBytes p.2)) = readValues g bs := by
  rw [State.tileElems, flatMap_range_map]
  apply List.ext_getElem
  · simp [readValues, h]
  · intro k hk _
    have hk : k < bs.length := by simp at hk; omega
    simp [readValues, List.getElem?_eq_getElem hk]

end

theorem mem_readValues {g : BitVec 17} (bs : List (List Byte)) {i j : Nat} (hi : i < cfgRows g) (hj : j < cfgCols g) :
    (i, j, natOfBytes (bs.getD (i * cfgCols g + j) [])) ∈ readValues g bs := by
  refine List.mem_map.2 ⟨i * cfgCols g + j, List.mem_range.2 ?_, ?_⟩
  · calc i * cfgCols g + j < (i + 1) * cfgCols g := by rw [Nat.succ_mul]; omega
      _ ≤ cfgRows g * cfgCols g := Nat.mul_le_mul_right _ hi
  · rw [Nat.mul_comm, Nat.mul_add_div (Nat.zero_lt_of_lt hj), Nat.div_eq_of_lt hj, Nat.add_zero, Nat.mul_add_mod,
      Nat.mod_eq_of_lt hj]

theorem readValues_unique {g : BitVec 17} {bs : List (List Byte)} {e : Nat × Nat × Nat} (he : e ∈ readValues g bs) {i j : Nat}
    (hat : (e.1, e.2.1) = (i, j)) : e.2.2 = natOfBytes (bs.getD (i * cfgCols g + j) []) := by
  obtain ⟨k, -, rfl⟩ := List.mem_map.1 he
  obtain ⟨rfl, rfl⟩ := Prod.mk.inj hat
  rw [Nat.div_add_mod']

/-! ## A core with a tile loaded -/

namespace Core

/-- The core with elements written into a tile of it, and with the tile claimed before that. -/
def filled (c : Core) (t : TReg) (es : List (Nat × Nat × Nat)) : Core :=
  (c.setTile t (imgWrite (c.tile t) (c.cfg t) es)).mark t.toNat true
def loaded (c : Core) (t : TReg) (slot : Nat) (es : List (Nat × Nat × Nat)) : Core := (c.claim t.toNat slot).filled t es

variable (c : Core) (t : TReg) (slot : Nat) (es : List (Nat × Nat × Nat))

theorem tile_loaded_same : (c.loaded t slot es).tile t = imgWrite (c.tile t) (c.cfg t) es :=
  (tile_setTile (c.claim t.toNat slot) t t _).trans (if_pos rfl)

theorem tile_loaded_other {q : TReg} (h : q ≠ t) : (c.loaded t slot es).tile q = c.tile q :=
  (tile_setTile (c.claim t.toNat slot) t q _).trans (if_neg h)

theorem townOwn_loaded : townOwn (c.loaded t slot es).town t.toNat = true :=
  (townOwn_setDirty ..).trans (townOwn_claimed _ _ (tile_lt_twelve t))

theorem townDirty_loaded : townDirty (c.loaded t slot es).town t.toNat = true := townDirty_setDirty _ (tile_lt_twelve t)

end Core

/-- A load writes the elements of the grant (R143). -/
theorem imgElem_loaded {c : Core} {t : TReg} {g : BitVec 17} (hg : c.cfg t = g) (hrows : cfgRows g ≤ 16)
    (hcols : cfgCols g * cfgSize g ≤ 64) (slot : Nat) (bs : List (List Byte)) {i j : Nat} (hi : i < cfgRows g)
    (hj : j < cfgCols g) : imgElem ((c.loaded t slot (readValues g bs)).tile t) (cfgSize g) i j =
      natOfBytes (bs.getD (i * cfgCols g + j) []) % 2 ^ (8 * cfgSize g) := by
  rw [Core.tile_loaded_same, hg]
  exact imgElem_imgWrite hcols hrows hi hj (mem_readValues bs hi hj) (fun e he => readValues_unique he) _

namespace State

theorem coreAt_modCore (s : State) (n m : Nat) (f : Core → Core) :
    (s.modCore n f).coreAt m = if m = n then f (s.coreAt n) else s.coreAt m := coreAt_setCore ..

theorem modCore_modCore (s : State) (n : Nat) (f g : Core → Core) :
    (s.modCore n f).modCore n g = s.modCore n fun c => g (f c) := by
  have hcore : (s.setCore n (f (s.coreAt n))).coreAt n = f (s.coreAt n) := (coreAt_setCore ..).trans (if_pos rfl)
  unfold modCore
  rw [hcore]
  simp only [setCore, setK_setK]

/-! ## Loads (R143) -/

/-- The checks of a transfer find the tile configured and its owner the strand's slot, or none. -/
theorem touched_of_tileChecks {s : State} {t : TReg} {base stride : Word} {tr : Bool}
    (h : s.tileChecks t base stride tr = .ok () s) :
    cfgOn (s.core.cfg t) = true ∧ mayTouch s.core.town t.toNat s.me.slot = true := by
  unfold tileChecks at h
  dsimp only at h
  split at h
  · cases h
  · cases hon : cfgOn (s.core.cfg t) with
    | false => rw [touchCfg_off hon] at h; cases h
    | true =>
      refine ⟨rfl, ?_⟩
      rw [touchCfg_on hon] at h
      dsimp only [Eff.bind] at h
      split at h
      · cases h
      · cases hmay : mayTouch s.core.town t.toNat s.me.slot with
        | false => rw [show s.touchOwn (tnum t) = _ from if_neg (by rw [tnum, hmay]; exact Bool.false_ne_true)] at h; cases h
        | true => rfl

theorem readElems_ok {s t1 : State} {t : TReg} {base stride : Word} {tr : Bool} {mm : MemMod} {bs : List (List Byte)}
    (hload : s.loadElems (cfgSize (s.core.cfg t)) mm ((tileElems (s.core.cfg t) base stride tr).map fun e => e.2.2) = .ok bs t1)
    (hlen : bs.length = cfgRows (s.core.cfg t) * cfgCols (s.core.cfg t)) :
    s.readElems t base stride tr mm = .ok (readValues (s.core.cfg t) bs) t1 := by
  unfold readElems
  dsimp only
  rw [hload, ← zip_tileElems _ base stride tr hlen]
  rfl

theorem tileLoad_ok {s t1 : State} {t : TReg} {base stride : Word} {tr : Bool} {mm : MemMod} {es : List (Nat × Nat × Nat)}
    (hchecks : s.tileChecks t base stride tr = .ok () s) (hfree : s.core.owesUse (.tile t) = false)
    (hread : s.readElems t base stride tr mm = .ok es t1) :
    s.tileLoad t base stride tr mm = .ok () (t1.withCore (·.loaded t t1.me.slot es)) := by
  unfold tileLoad
  rw [hchecks]
  show (s.waitUse [.tile t]).bind _ = _
  rw [waitUse_free hfree]
  show (s.readElems t base stride tr mm).bind _ = _
  rw [hread]
  exact congrArg (Eff.ok ()) (withCore_withCore t1 (·.claim t.toNat t1.me.slot) (·.filled t es))

/-! ## The multicast (R144) -/

theorem tileCast_none {s : State} (hregion : s.strand.inRegion = false) (hphase : s.computePhase = false) (t : TReg)
    (base stride : Word) (mm : MemMod) : s.tileCast t base stride 0 mm = s.tileLoad t base stride false mm := by
  simp [tileCast, castNone, hregion, hphase]

/-- The members that a mask names and that are resident. -/
def castMembers (s : State) (mask : Word) : List Sid := ((List.range 64).filter fun m => mask.getLsbD m).filterMap s.memberAt

theorem mem_castMembers {s : State} {mask : Word} {w : Sid} :
    w ∈ s.castMembers mask ↔ ∃ k, k < 64 ∧ mask.getLsbD k = true ∧ s.memberAt k = some w := by
  simp [castMembers, and_assoc]

/-- What every named member must be for a multicast (R144). -/
structure MayCast (s : State) (t : TReg) (w : Sid) : Prop where
  cluster : clusterOf w.core = clusterOf s.me.core
  cfg     : (s.coreAt w.core).cfg t = s.core.cfg t
  touch   : mayTouch (s.coreAt w.core).town t.toNat w.slot = true
  free    : (s.coreAt w.core).owesUse (.tile t) = false

/-- The tile claimed and loaded on the core of each listed strand. -/
def castTo (s : State) (t : TReg) (es : List (Nat × Nat × Nat)) (l : List Sid) : State :=
  l.foldl (fun s w =>
    (s.modCore w.core fun c : Core => { c with town := Machine.claimed c.town (tnum t) w.slot }).fillTile w.core t es) s

section
variable {s : State} {t : TReg} {base stride mask : Word}
  (hall : ∀ k, k < 64 → mask.getLsbD k = true → ∃ w, s.memberAt k = some w ∧ MayCast s t w)
include hall

theorem mayCast_of_mem {w : Sid} (hw : w ∈ s.castMembers mask) : MayCast s t w := by
  obtain ⟨k, hk, hbit, hat⟩ := mem_castMembers.1 hw
  obtain ⟨w', hat', hcast⟩ := hall k hk hbit
  exact Option.some.inj (hat.symm.trans hat') ▸ hcast

theorem length_castMembers :
    (s.castMembers mask).length = ((List.range 64).filter fun m => mask.getLsbD m).length := by
  refine List.filterMap_length_eq_length.2 fun k hk => ?_
  obtain ⟨hk, hbit⟩ := List.mem_filter.1 hk
  obtain ⟨w, hat, -⟩ := hall k (List.mem_range.1 hk) hbit
  rw [hat]; rfl

theorem castChecks_ok (hphase : s.computePhase = false) (hchecks : s.tileChecks t base stride false = .ok () s)
    (hsource : ∀ e ∈ tileElems (s.core.cfg t) base stride false, s.castSource e.2.2 = true) :
    s.castChecks t base stride mask = .ok (s.castMembers mask) s := by
  obtain ⟨hon, hmay⟩ := touched_of_tileChecks hchecks
  have hcfg : (s.castMembers mask).find? (fun w => (s.coreAt w.core).cfg t != s.core.cfg t) = none :=
    List.find?_eq_none.2 fun w hw => by simp [(mayCast_of_mem hall hw).cfg]
  have htouch : (s.castMembers mask).find? (fun w => !mayTouch (s.coreAt w.core).town (tnum t) w.slot) = none :=
    List.find?_eq_none.2 fun w hw => by simp [tnum, (mayCast_of_mem hall hw).touch]
  have hnone : (tileElems (s.core.cfg t) base stride false).find? (fun e => !s.castSource e.2.2) = none :=
    List.find?_eq_none.2 fun e he => by simp [hsource e he]
  have hgone : (decide ((s.castMembers mask).length < ((List.range 64).filter fun m => mask.getLsbD m).length) ||
      (s.castMembers mask).any fun w => clusterOf w.core != clusterOf s.me.core) = false := by
    rw [length_castMembers hall, Bool.or_eq_false_iff]
    exact ⟨by simp, List.any_eq_false.2 fun w hw => by simp [(mayCast_of_mem hall hw).cluster]⟩
  unfold castMembers at hcfg htouch hgone
  simp only [castChecks, touchCfg_on hon, Eff.bind, hcfg, show s.touchOwn (tnum t) = _ from touchOwn_may hmay, htouch, hchecks,
    hnone, hgone, hphase]
  rfl

end

theorem tileCast_ok {s t1 : State} {t : TReg} {base stride mask : Word} {mm : MemMod} {es : List (Nat × Nat × Nat)}
    (hregion : s.strand.inRegion = false) (hmask : mask ≠ 0)
    (hchecks : s.castChecks t base stride mask = .ok (s.castMembers mask) s) (hfree : s.core.owesUse (.tile t) = false)
    (hmembers : ∀ w ∈ s.castMembers mask, (s.coreAt w.core).owesUse (.tile t) = false)
    (hread : s.readElems t base stride false mm = .ok es t1) :
    s.tileCast t base stride mask mm =
      .ok () (t1.castTo t es (t1.me :: (s.castMembers mask).filter (· != t1.me))) := by
  have hwait : (s.core.owesUse (.tile t) || (s.castMembers mask).any fun w => (s.coreAt w.core).owesUse (.tile t)) = false := by
    rw [hfree, Bool.false_or]
    exact List.any_eq_false.2 fun w hw => by rw [hmembers w hw]; exact Bool.false_ne_true
  unfold tileCast
  rw [if_neg (by rw [hregion]; exact Bool.false_ne_true), if_neg hmask, hchecks]
  dsimp only [Eff.bind]
  rw [if_neg (by rw [hwait]; exact Bool.false_ne_true), hread]
  rfl

section
variable (s : State) (t : TReg) (es : List (Nat × Nat × Nat)) (l : List Sid)

theorem castTo_cons (w : Sid) : s.castTo t es (w :: l) = (s.modCore w.core (·.loaded t w.slot es)).castTo t es l :=
  congrArg (castTo · t es l) (modCore_modCore s w.core (·.claim t.toNat w.slot) (·.filled t es))

/-- A multicast changes cores alone. -/
theorem castTo_withCores : ∃ cs, s.castTo t es l = s.withCores cs := by
  induction l generalizing s with
  | nil => exact ⟨s.cores, rfl⟩
  | cons w l ih =>
    obtain ⟨cs, hcs⟩ := ih (s.modCore w.core (·.loaded t w.slot es))
    exact ⟨cs, (castTo_cons ..).trans hcs⟩

theorem castTo_same : fallsTo (s.castTo t es l) = fallsTo s ∧ (s.castTo t es l).mem = s.mem ∧
    (s.castTo t es l).strands = s.strands := by
  obtain ⟨cs, hcs⟩ := s.castTo_withCores t es l
  rw [hcs]
  exact ⟨rfl, rfl, rfl⟩

/-- A core with none of the strands stays. -/
theorem coreAt_castTo_other {n : Nat} (h : ∀ w ∈ l, w.core ≠ n) : (s.castTo t es l).coreAt n = s.coreAt n := by
  induction l generalizing s with
  | nil => rfl
  | cons w l ih =>
    obtain ⟨hw, hl⟩ := List.forall_mem_cons.1 h
    rw [castTo_cons, ih _ hl, coreAt_modCore, if_neg hw.symm]

/-- Every core keeps its configurations and its other tiles. -/
theorem coreAt_castTo_same (n : Nat) : (∀ q, ((s.castTo t es l).coreAt n).cfg q = (s.coreAt n).cfg q) ∧
    ∀ q, q ≠ t → ((s.castTo t es l).coreAt n).tile q = (s.coreAt n).tile q := by
  induction l generalizing s with
  | nil => exact ⟨fun _ => rfl, fun _ _ => rfl⟩
  | cons w l ih =>
    obtain ⟨hcfg, htile⟩ := ih (s.modCore w.core (·.loaded t w.slot es))
    rw [coreAt_modCore] at hcfg htile
    rw [castTo_cons]
    by_cases heq : n = w.core
    · subst heq
      rw [if_pos rfl] at hcfg htile
      exact ⟨hcfg, fun q hq => (htile q hq).trans (Core.tile_loaded_other _ _ _ _ hq)⟩
    · rw [if_neg heq] at hcfg htile
      exact ⟨hcfg, htile⟩

/-- The core of a listed strand has the tile loaded last for one of them. -/
theorem coreAt_castTo_mem {n : Nat} (h : ∃ w ∈ l, w.core = n) : ∃ (c : Core) (slot : Nat),
    (s.castTo t es l).coreAt n = c.loaded t slot es ∧ ∀ q, c.cfg q = (s.coreAt n).cfg q := by
  induction l generalizing s with
  | nil =>
    obtain ⟨w, hw, -⟩ := h
    cases hw
  | cons w l ih =>
    rw [castTo_cons]
    by_cases hlater : ∃ v ∈ l, v.core = n
    · obtain ⟨c, slot, hc, hcfg⟩ := ih (s.modCore w.core (·.loaded t w.slot es)) hlater
      obtain ⟨hsame, -⟩ := s.coreAt_castTo_same t es [w] n
      rw [castTo_cons] at hsame
      exact ⟨c, slot, hc, fun q => (hcfg q).trans (hsame q)⟩
    · obtain ⟨v, hv, rfl⟩ := h
      obtain rfl : v = w := (List.mem_cons.1 hv).resolve_right fun hv => hlater ⟨v, hv, rfl⟩
      refine ⟨s.coreAt v.core, v.slot, ?_, fun _ => rfl⟩
      rw [coreAt_castTo_other _ _ _ _ fun u hu heq => hlater ⟨u, hu, heq⟩, coreAt_modCore, if_pos rfl]

end

end State

/-! ## Stores (R143), and the records that a push queues (R153) -/

/-- The slot of a pushed record, and its other bits. -/
theorem slot_withSlot (r : Rec512) (k : Nat) : Rec.slot (Rec.withSlot r k) = k % 4 := field_setField_same _ _ _ _ (by omega)

theorem getLsbD_withSlot (r : Rec512) (n : Nat) {k : Nat} (h : k < 37 ∨ 39 ≤ k) :
    (Rec.withSlot r n).getLsbD k = r.getLsbD k :=
  h.elim (getLsbD_setField_lt r 37 2 n k) (getLsbD_setField_ge r 37 2 n k)

/-- The core with a record queued behind the others. -/
def Core.push (c : Core) (m : MRec) : Core := { c with matrix := { c.matrix with queue := c.matrix.queue ++ [m] } }

namespace State

theorem pushRec_room {s : State} {m : MRec}
    (hroom : s.core.matrix.queue.length + (if s.core.matrix.run.isSome then 1 else 0) < 16) :
    s.pushRec m = .ok () (s.withCore (·.push m)) :=
  if_neg (Nat.not_le.2 hroom)

section
variable {s t1 : State} {t : TReg} {base stride : Word} {mm : MemMod}
  (hchecks : s.tileChecks t base stride false = .ok () s) (hfree : s.core.owesWrite (.tile t) = false)
include hchecks hfree

theorem tileStore_elems
    (hpush : ¬ (base = 0x200_0000 ∧ cfgRows (s.core.cfg t) = 1 ∧ cfgCols (s.core.cfg t) * cfgSize (s.core.cfg t) = 64))
    (hstore : s.storeElems (cfgSize (s.core.cfg t)) mm ((tileElems (s.core.cfg t) base stride false).map fun e =>
      (e.2.2, bytesOfNat (cfgSize (s.core.cfg t)) (s.core.elem t e.1 e.2.1))) = .ok () t1) :
    s.tileStore t base stride mm = .ok () (t1.claimReg t.toNat) := by
  unfold tileStore
  rw [hchecks]
  dsimp only [Eff.bind]
  rw [waitWrite_free hfree]
  dsimp only
  rw [if_neg hpush, hstore]
  rfl

theorem tileStore_push (hbase : base = 0x200_0000) (hrows : cfgRows (s.core.cfg t) = 1)
    (hcols : cfgCols (s.core.cfg t) * cfgSize (s.core.cfg t) = 64) (hplain : mm.order = .plain)
    (hroom : s.core.matrix.queue.length + (if s.core.matrix.run.isSome then 1 else 0) < 16) :
    s.tileStore t base stride mm =
      .ok () ((s.withCore (·.push ⟨Rec.withSlot ((s.core.tile t).truncate 512) s.me.slot, true⟩)).claimReg t.toNat) := by
  have hrelease : s.releaseFirst mm = .ok () s := if_neg (by simp [MemMod.releases, hplain])
  unfold tileStore
  rw [hchecks]
  dsimp only [Eff.bind]
  rw [waitWrite_free hfree]
  dsimp only
  rw [if_pos ⟨hbase, hrows, hcols⟩, hrelease]
  dsimp only
  rw [pushRec_room hroom]
  rfl

end

end State

/-- Settles O36: a load writes its values into the tile of the core, a multicast into the tiles of the members' cores as well; a
store writes the elements or pushes its record. -/
theorem tileLoadsAndStores : Obligations.TileLoadsAndStores := by
  intro s t1 t b c d imm mm bs g rows cols size base stride addrs filled hrows hcols hfree loads named elems
  have hfilled {k : Core} (slot : Nat) (hk : k.cfg t = g) : filled (k.loaded t slot (readValues g bs)) :=
    ⟨fun i j hi hj => imgElem_loaded hk hrows hcols slot bs hi hj, k.townOwn_loaded .., k.townDirty_loaded .., hk⟩
  have haddrs (tr : Bool) : addrs tr = (State.tileElems g base (stride tr) tr).map fun e => e.2.2 :=
    (map_tileElems g base (stride tr) tr fun e => e.2.2).symm
  have hread (tr : Bool) (hload : s.loadElems size mm (addrs tr) = .ok bs t1) (hlen : bs.length = rows * cols) :
      s.readElems t base (stride tr) tr mm = .ok (readValues g bs) t1 := State.readElems_ok (haddrs tr ▸ hload) hlen
  have key (i : Instr) (tr : Bool) (hi : exec i s = finish s (s.tileLoad t base (stride tr) tr mm)) : loads i tr := by
    intro hchecks hload hlen _ hcfg
    rw [State.tileLoad_ok hchecks hfree (hread tr hload hlen)] at hi
    refine completes_of_finish hi rfl fun u hu => ⟨_, hu, ?_, ?_, rfl, fun _ => rfl, fun _ => rfl⟩
    · rw [State.core_withCore]; exact hfilled _ hcfg
    · rw [State.core_withCore]; exact fun q hq => Core.tile_loaded_other _ _ _ _ hq
  refine ⟨key _ false rfl, key _ true rfl, ?empty, ?cast, ?store, ?push⟩
  case empty =>
    intro hmask hregion hphase
    refine key _ false (Eq.trans (congrArg (finish s) ?_) (congrArg (finish s) (State.tileCast_none hregion hphase ..)))
    rw [← hmask]; rfl
  case cast =>
    intro hmask hregion hphase hchecks hmembers hsource hload hlen hme hcfg
    have hall : ∀ k, k < 64 → (s.x d).getLsbD k = true → ∃ w, s.memberAt k = some w ∧ State.MayCast s t w := by
      intro k hk hbit
      obtain ⟨w, hat, hcluster, hcfg, htouch, hfree⟩ := hmembers k hk hbit
      exact ⟨w, hat, hcluster, hcfg, htouch, hfree⟩
    have hcastChecks := State.castChecks_ok hall hphase hchecks fun e he =>
      hsource _ (haddrs false ▸ List.mem_map_of_mem he)
    have hi := congrArg (finish s) (State.tileCast_ok hregion hmask hcastChecks hfree
      (fun w hw => (State.mayCast_of_mem hall hw).free) (hread false hload hlen))
    have hlist (w : Sid) : w ∈ t1.me :: (s.castMembers (s.x d)).filter (· != t1.me) ↔ w = s.me ∨ named w := by
      rw [List.mem_cons, List.mem_filter, State.mem_castMembers, hme]
      by_cases h : w = s.me <;> simp [h, named]
    generalize t1.me :: (s.castMembers (s.x d)).filter (· != t1.me) = l at hi hlist
    obtain ⟨hnext, hmem, hstrands⟩ := t1.castTo_same t (readValues g bs) l
    refine completes_of_finish hi hnext fun u hu => ⟨_, hu, fun w hw => ⟨?filled, ?others⟩, ?rest, hmem, hstrands⟩
    case filled =>
      obtain ⟨k, slot, hk, hkcfg⟩ := t1.coreAt_castTo_mem t (readValues g bs) l ⟨w, (hlist w).2 hw, rfl⟩
      rw [hk]
      exact hfilled slot ((hkcfg t).trans (hcfg w hw))
    case others => exact (t1.coreAt_castTo_same t _ l w.core).2
    case rest => exact fun n hn => t1.coreAt_castTo_other t _ l fun w hw => hn w ((hlist w).1 hw)
  case store =>
    intro hchecks howes hpush hstore
    have helems : elems = (State.tileElems g base (stride false) false).map fun e =>
        (e.2.2, bytesOfNat size (s.core.elem t e.1 e.2.1)) :=
      (map_tileElems g base (stride false) false fun e => (e.2.2, bytesOfNat size (s.core.elem t e.1 e.2.1))).symm
    exact completes_of_finish (congrArg (finish s) (State.tileStore_elems hchecks howes hpush (helems ▸ hstore))) rfl
      fun _ hu => hu
  case push =>
    intro hchecks howes hbase hrow hcol hplain hroom
    refine completes_of_finish (congrArg (finish s) (State.tileStore_push hchecks howes hbase hrow hcol hplain hroom)) rfl
      fun u hu =>
        ⟨_, hu, ⟨Rec.withSlot ((s.core.tile t).truncate 512) s.me.slot, ?queue, fun k hk hlt => ?bits, ?slot⟩, rfl⟩
    case queue => rw [State.claimReg_eq, State.core_withCore, State.core_withCore]; rfl
    case bits => rw [getLsbD_withSlot _ _ hk, BitVec.truncate, BitVec.getLsbD_setWidth, decide_eq_true hlt, Bool.true_and]
    case slot => exact slot_withSlot ..

end Sys2Proof.Machine
end

section
/-! PROOFS. Moves between tiles and vector registers, and compression (R145, R155, R425). -/

namespace Sys2Proof.Machine

theorem field_lt {m : Nat} (w : BitVec m) (lo n : Nat) : field w lo n < 2 ^ n := (w.extractLsb' lo n).isLt

theorem field_mod {m : Nat} (w : BitVec m) (lo n : Nat) : field w lo n % 2 ^ n = field w lo n := Nat.mod_eq_of_lt (field_lt ..)

/-! ## Lanes packed into one number -/

theorem packLanes_lt (w : Nat) (f : Nat → Nat) (n : Nat) : packLanes w f n < 2 ^ (w * n) := by
  induction n with
  | zero => exact Nat.one_pos
  | succ n ih =>
    have hlane : f n % 2 ^ w + 1 ≤ 2 ^ w := Nat.mod_lt _ (Nat.two_pow_pos w)
    calc packLanes w f n + f n % 2 ^ w * 2 ^ (w * n) < (f n % 2 ^ w + 1) * 2 ^ (w * n) := by rw [Nat.succ_mul]; omega
      _ ≤ 2 ^ w * 2 ^ (w * n) := Nat.mul_le_mul_right _ hlane
      _ = 2 ^ (w * (n + 1)) := by rw [← Nat.pow_add, Nat.mul_succ, Nat.add_comm]

theorem packLanes_lane (w : Nat) (f : Nat → Nat) {n q : Nat} (hq : q < n) :
    packLanes w f n / 2 ^ (w * q) % 2 ^ w = f q % 2 ^ w := by
  induction n with
  | zero => cases hq
  | succ n ih =>
    rw [packLanes]
    obtain rfl | hlt := Nat.eq_or_lt_of_le (Nat.le_of_lt_succ hq)
    · rw [Nat.add_mul_div_right _ _ (Nat.two_pow_pos _), Nat.div_eq_of_lt (packLanes_lt ..), Nat.zero_add, Nat.mod_mod]
    · obtain ⟨k, rfl⟩ := Nat.exists_eq_add_of_lt hlt
      have hsplit : 2 ^ (w * (q + k + 1)) = 2 ^ (w * k) * 2 ^ w * 2 ^ (w * q) := by
        rw [← Nat.pow_add, ← Nat.pow_add, Nat.mul_succ, Nat.mul_add,
          show w * q + w * k + w = w * k + w + w * q by omega]
      rw [hsplit, ← Nat.mul_assoc, ← Nat.mul_assoc, Nat.add_mul_div_right _ _ (Nat.two_pow_pos _), Nat.add_mul_mod_self_right,
        ih hlt]

theorem field_packLanes {m : Nat} (w : Nat) (f : Nat → Nat) {n q : Nat} (hfits : w * n ≤ m) (hq : q < n) :
    field (BitVec.ofNat m (packLanes w f n)) (w * q) w = f q % 2 ^ w := by
  have hlt : packLanes w f n < 2 ^ m := Nat.lt_of_lt_of_le (packLanes_lt ..) (Nat.pow_le_pow_right (by omega) hfits)
  rw [field_eq, BitVec.toNat_ofNat, Nat.mod_eq_of_lt hlt, packLanes_lane w f hq]

/-! ## Pairs of vector registers -/

theorem evenOf_ne_oddOf (p : BitVec 4) : evenOf p ≠ oddOf p := by revert p; decide

theorem append_halves (v : BitVec 512) : v.extractLsb' 256 256 ++ v.extractLsb' 0 256 = v := by
  apply BitVec.eq_of_getLsbD_eq
  intro i hi
  rw [BitVec.getLsbD_append]
  by_cases h : i < 256
  · simp [h]
  · have hhigh : i - 256 < 256 := by omega
    have hsum : 256 + (i - 256) = i := by omega
    simp [h, hhigh, hsum]

namespace State

theorem pairBits_setPair (s : State) (p : BitVec 4) (v : BitVec 512) : (s.setPair p v).pairBits p = v := by
  rw [pairBits, setPair, v_setV, if_pos rfl, v_setV, if_neg (evenOf_ne_oddOf p), v_setV, if_pos rfl, append_halves]

theorem v_setPair_other (s : State) {p : BitVec 4} (v : BitVec 512) {x : VReg} (hodd : x ≠ oddOf p) (heven : x ≠ evenOf p) :
    (s.setPair p v).v x = s.v x := by
  rw [setPair, v_setV, if_neg hodd, v_setV, if_neg heven]

end State

/-! ## Into a tile (R145) -/

namespace State

/-- The elements that a move writes: those of the grant whose lanes are active, or all of them under zeroing. -/
def moveElems (s : State) (t : TReg) (p : BitVec 4) (m : MaskMod) (n : Nat) (at_ : Nat → Nat × Nat) :
    List (Nat × Nat × Nat) :=
  (List.range n).filterMap fun q =>
    if (at_ q).1 < cfgRows (s.core.cfg t) ∧ (at_ q).2 < cfgCols (s.core.cfg t) ∧ (s.active m q ∨ zeroing m) then
      some ((at_ q).1, (at_ q).2, if s.active m q then pairLane (s.pairBits p) (cfgSize (s.core.cfg t)) q else 0)
    else none

section
variable {s : State} {t : TReg} {p : BitVec 4} {m : MaskMod} {n : Nat} {at_ : Nat → Nat × Nat}

theorem mem_moveElems {e : Nat × Nat × Nat} : e ∈ s.moveElems t p m n at_ ↔ ∃ q, q < n ∧
    ((at_ q).1 < cfgRows (s.core.cfg t) ∧ (at_ q).2 < cfgCols (s.core.cfg t) ∧ (s.active m q ∨ zeroing m)) ∧
    e = ((at_ q).1, (at_ q).2, if s.active m q then pairLane (s.pairBits p) (cfgSize (s.core.cfg t)) q else 0) := by
  simp only [moveElems, List.mem_filterMap, List.mem_range, Option.ite_none_right_eq_some, Option.some.injEq,
    eq_comm (a := e)]

/-- An element that no lane names stays. -/
theorem imgElem_moveElems_other (hcols : cfgCols (s.core.cfg t) * cfgSize (s.core.cfg t) ≤ 64) {i j : Nat}
    (hj : (j + 1) * cfgSize (s.core.cfg t) ≤ 64) (hno : ∀ q, q < n → at_ q ≠ (i, j)) (img : Image) :
    imgElem (imgWrite img (s.core.cfg t) (s.moveElems t p m n at_)) (cfgSize (s.core.cfg t)) i j =
      imgElem img (cfgSize (s.core.cfg t)) i j := by
  refine imgElem_imgWrite_other hcols hj (fun e he => ?_) img
  obtain ⟨q, hq, -, rfl⟩ := mem_moveElems.1 he
  exact hno q hq

/-- An element that one lane names takes it under the mask. -/
theorem imgElem_moveElems (hrows : cfgRows (s.core.cfg t) ≤ 16) (hcols : cfgCols (s.core.cfg t) * cfgSize (s.core.cfg t) ≤ 64)
    (hinj : ∀ q r, at_ q = at_ r → q = r) {q : Nat} (hq : q < n) (hi : (at_ q).1 < cfgRows (s.core.cfg t))
    (hj : (at_ q).2 < cfgCols (s.core.cfg t)) (img : Image) :
    imgElem (imgWrite img (s.core.cfg t) (s.moveElems t p m n at_)) (cfgSize (s.core.cfg t)) (at_ q).1 (at_ q).2 =
      if s.active m q then pairLane (s.pairBits p) (cfgSize (s.core.cfg t)) q
      else if zeroing m then 0 else imgElem img (cfgSize (s.core.cfg t)) (at_ q).1 (at_ q).2 := by
  by_cases hwrites : s.active m q = true ∨ zeroing m = true
  · have hone : ∀ e ∈ s.moveElems t p m n at_, (e.1, e.2.1) = ((at_ q).1, (at_ q).2) →
        e.2.2 = if s.active m q then pairLane (s.pairBits p) (cfgSize (s.core.cfg t)) q else 0 := fun e he hat => by
      obtain ⟨r, -, -, rfl⟩ := mem_moveElems.1 he
      rw [hinj r q hat]
    rw [imgElem_imgWrite hcols hrows hi hj (mem_moveElems.2 ⟨q, hq, ⟨hi, hj, hwrites⟩, rfl⟩) hone]
    by_cases hactive : s.active m q = true
    · rw [if_pos hactive, if_pos hactive]; exact field_mod ..
    · rw [if_neg hactive, if_neg hactive, if_pos (hwrites.resolve_left hactive), Nat.zero_mod]
  · obtain ⟨hactive, hzero⟩ := not_or.1 hwrites
    rw [if_neg hactive, if_neg hzero]
    refine imgElem_imgWrite_other hcols (col_fits hcols hj) (fun e he hat => ?_) img
    obtain ⟨r, -, ⟨-, -, hwrites'⟩, rfl⟩ := mem_moveElems.1 he
    exact hwrites (hinj r q hat ▸ hwrites')

end

end State

/-- The core after a move into a tile: one that writes no element claims the tile and leaves DIRTY (entry 112). -/
def Core.moved (c : Core) (t : TReg) (slot : Nat) (es : List (Nat × Nat × Nat)) : Core :=
  if es.isEmpty then c.claim t.toNat slot else c.loaded t slot es

theorem Core.tile_moved_same (c : Core) (t : TReg) (slot : Nat) (es : List (Nat × Nat × Nat)) :
    (c.moved t slot es).tile t = imgWrite (c.tile t) (c.cfg t) es := by
  unfold moved
  split
  · next hempty => rw [List.isEmpty_iff.1 hempty]; rfl
  · exact tile_loaded_same ..

theorem Core.moved_other (c : Core) (t : TReg) (slot : Nat) (es : List (Nat × Nat × Nat)) :
    (c.moved t slot es).cfg t = c.cfg t ∧ ∀ q, q ≠ t → (c.moved t slot es).tile q = c.tile q := by
  unfold moved
  split
  · exact ⟨rfl, fun _ _ => rfl⟩
  · exact ⟨rfl, fun q hq => tile_loaded_other _ _ _ _ hq⟩

namespace State

section
variable {s : State} {t : TReg} (hon : cfgOn (s.core.cfg t) = true) (hmay : mayTouch s.core.town t.toNat s.me.slot = true)
  (p : BitVec 4) (m : MaskMod) (n : Nat) (at_ : Nat → Nat × Nat)
include hon hmay

theorem moveIn_ok (hfree : s.core.owesUse (.tile t) = false) :
    s.moveIn t p m n at_ = .ok () (s.withCore (·.moved t s.me.slot (s.moveElems t p m n at_))) := by
  have hmoved : (s.withCore (·.moved t s.me.slot (s.moveElems t p m n at_))) = if (s.moveElems t p m n at_).isEmpty then
      s.claimReg t.toNat else (s.claimReg t.toNat).fillTile s.me.core t (s.moveElems t p m n at_) := by
    unfold Core.moved
    split
    · rfl
    · exact (withCore_withCore s (·.claim t.toNat s.me.slot) (·.filled t _)).symm
  rw [moveIn, touchTile_may hon hmay, hmoved]
  show (s.waitUse [.tile t]).bind _ = _
  rw [waitUse_free hfree]
  rfl

/-! ## Out of a tile (R145) -/

/-- The lanes that a move brings into the pair. -/
def outLanes (s : State) (t : TReg) (p : BitVec 4) (m : MaskMod) (n : Nat) (at_ : Nat → Nat × Nat) (q : Nat) : Nat :=
  if n ≤ q then 0
  else if s.active m q then s.core.elem t (at_ q).1 (at_ q).2
  else if zeroing m then 0 else pairLane (s.pairBits p) (cfgSize (s.core.cfg t)) q

theorem moveOut_ok (hfree : s.core.owesWrite (.tile t) = false) : s.moveOut t p m n at_ = .ok () ((s.claimReg t.toNat).setPair p
    (BitVec.ofNat 512 (packLanes (8 * cfgSize (s.core.cfg t)) (s.outLanes t p m n at_) (64 / cfgSize (s.core.cfg t))))) := by
  rw [moveOut, touchTile_may hon hmay]
  show (s.waitWrite [.tile t]).bind _ = _
  rw [waitWrite_free hfree]
  rfl

end

theorem outLanes_mod (s : State) (t : TReg) (p : BitVec 4) (m : MaskMod) (n : Nat) (at_ : Nat → Nat × Nat) (q : Nat) :
    s.outLanes t p m n at_ q % 2 ^ (8 * cfgSize (s.core.cfg t)) =
      if n ≤ q then 0 else if s.active m q then s.core.elem t (at_ q).1 (at_ q).2 % 2 ^ (8 * cfgSize (s.core.cfg t))
      else if zeroing m then 0 else pairLane (s.pairBits p) (cfgSize (s.core.cfg t)) q := by
  have hlane : pairLane (s.pairBits p) (cfgSize (s.core.cfg t)) q % 2 ^ (8 * cfgSize (s.core.cfg t)) =
    pairLane (s.pairBits p) (cfgSize (s.core.cfg t)) q := field_mod ..
  unfold outLanes
  rw [apply_ite (· % _), apply_ite (· % _), apply_ite (· % _), Nat.zero_mod, hlane]

/-! ## Compression (R155) -/

/-- A tile's storage with the first `rows` rows compressed from another tile. -/
def compImage (c : Core) (t u : TReg) (k n rows : Nat) : Image :=
  (List.range rows).foldl (fun m i => setField m (512 * i) (8 * n) (compRow c u k i)) (c.tile t)

theorem field_compImage (c : Core) (t u : TReg) (k : Nat) {n rows r : Nat} (hn : n ≤ 64) (hrows : rows ≤ 16) (hr : r < rows) :
    field (compImage c t u k n rows) (512 * r) (8 * n) = compRow c u k r % 2 ^ (8 * n) := by
  induction rows with
  | zero => cases hr
  | succ rows ih =>
    have hstep : compImage c t u k n (rows + 1) =
        setField (compImage c t u k n rows) (512 * rows) (8 * n) (compRow c u k rows) := by
      rw [compImage, List.range_succ, List.foldl_append, List.foldl_cons, List.foldl_nil, compImage]
    rw [hstep]
    obtain rfl | hlt := Nat.eq_or_lt_of_le (Nat.le_of_lt_succ hr)
    · exact field_setField_same _ _ _ _ (by omega)
    · rw [field_setField_above _ _ _ _ _ _ (by omega), ih (by omega) hlt]

theorem compress_ok {s : State} {t u : TReg} (hon : cfgOn (s.core.cfg u) = true)
    (hty : compTypes.contains (cfgTy (s.core.cfg u)) = true) (hmayT : mayTouch s.core.town t.toNat s.me.slot = true)
    (hmayU : mayTouch s.core.town u.toNat s.me.slot = true) (hfreeT : s.core.owesUse (.tile t) = false)
    (hfreeU : s.core.owesUse (.tile u) = false) (hbook : s.core.owesWrite (.book 0) = false) (k : Nat) :
    s.compress t u k = .ok () (s.withCore fun c => ((((c.claim u.toNat s.me.slot).claim t.toNat s.me.slot).setTile t
      (compImage s.core t u k (cfgCols (s.core.cfg u) * cfgSize (s.core.cfg u)) (cfgRows (s.core.cfg u)))).setCfg t
        (s.core.cfg u)).mark t.toNat true) := by
  have huse : s.waitUse [.tile t, .tile u] = .ok () s := by simp [waitUse, hfreeT, hfreeU]
  have hwrite : s.waitWrite (if cfgTy (s.core.cfg u) = .cb4 then [.book 0] else []) = .ok () s := by
    split
    · exact waitWrite_free hbook
    · rfl
  rw [compress, touchCfg_on hon]
  dsimp only [Eff.bind]
  rw [hty, if_neg (by simp), show s.touchOwn (tnum t) = _ from touchOwn_may hmayT]
  dsimp only
  rw [show s.touchOwn (tnum u) = _ from touchOwn_may hmayU]
  dsimp only
  rw [huse]
  dsimp only
  rw [hwrite]
  simp only [claimReg_eq, dirty_eq, withCore_withCore]
  rfl

end State

/-- Settles O37: each move by the elements or the lanes that it writes, compression by the rows of the new storage. -/
theorem tileMovesAndCompress : Obligations.TileMovesAndCompress := by
  refine ⟨fun s t r p m => ?moves, fun s t u => ?compresses⟩
  case moves =>
    intro g size pair hon hmay hrows hcols into out
    have hinto (i : Instr) (n : Nat) (at_ : Nat → Nat × Nat) (hi : exec i s = finish s (s.moveIn t p m n at_))
        (hinj : ∀ q r, at_ q = at_ r → q = r) : into i n at_ := by
      intro hfree
      rw [State.moveIn_ok hon hmay p m n at_ hfree] at hi
      obtain ⟨hcfg, hothers⟩ := s.core.moved_other t s.me.slot (s.moveElems t p m n at_)
      refine completes_of_finish hi rfl fun u hu => ⟨_, hu, rfl, ?_⟩
      simp only [State.core_withCore, Core.tile_moved_same]
      exact ⟨hcfg, fun q hq hi hj => State.imgElem_moveElems hrows hcols hinj hq hi hj _,
        fun i j _ hj hno => State.imgElem_moveElems_other hcols hj hno _, hothers⟩
    have hout (i : Instr) (n : Nat) (at_ : Nat → Nat × Nat) (hi : exec i s = finish s (s.moveOut t p m n at_)) :
        out i n at_ := by
      intro hfree
      rw [State.moveOut_ok hon hmay p m n at_ hfree] at hi
      refine completes_of_finish hi (by simp [fallsTo, State.setPair, State.claimReg_eq]) fun u hu =>
        ⟨_, hu, rfl, ?tile, ?lanes, ?regs⟩
      case tile => simp [State.setPair, State.claimReg_eq]
      case lanes =>
        intro q hq
        have hfits : 8 * size * (64 / size) ≤ 512 := by
          rw [Nat.mul_assoc]; exact Nat.mul_le_mul_left 8 (Nat.mul_div_le 64 size)
        exact (congrArg (field · (8 * size * q) (8 * size)) (State.pairBits_setPair ..)).trans
          ((field_packLanes _ _ hfits hq).trans (State.outLanes_mod s t p m n at_ q))
      case regs => exact fun x hodd heven => State.v_setPair_other _ _ hodd heven
    exact ⟨hinto _ 64 _ rfl fun q r h => (Prod.mk.inj h).2, hinto _ 16 _ rfl fun q r h => (Prod.mk.inj h).1,
      hout _ _ _ rfl, hout _ _ _ rfl⟩
  case compresses =>
    intro g n hon hty hmayT hmayU hfreeT hfreeU hbook hrows hn compresses
    have key (i : Instr) (k : Nat) (hi : exec i s = finish s (s.compress t u k)) : compresses i k := by
      rw [State.compress_ok hon hty hmayT hmayU hfreeT hfreeU hbook] at hi
      refine completes_of_finish hi rfl fun w hw => ⟨_, hw, ?_⟩
      simp only [State.core_withCore, Core.cfg_mark, Core.cfg_setCfg, Core.tile_mark, Core.tile_setCfg, Core.tile_setTile,
        if_true, Core.town_mark]
      exact ⟨rfl, rfl, fun r hr => State.field_compImage _ _ _ _ hn hrows hr, fun q hq => if_neg hq,
        townDirty_setDirty _ (tile_lt_twelve t)⟩
    exact ⟨key _ 4 rfl, key _ 8 rfl⟩

end Sys2Proof.Machine
end

section
/-! PROOFS. The save images of registers (R142, R433, R434). -/

namespace Sys2Proof.Machine

/-! ## The traps of U, and of a misaligned image -/

theorem saveReg_U {s : State} (hU : s.strand.mode = .U) (r : BitVec 4) (ea : Word) :
    s.saveReg r ea = .trap 1 s.latch.first 0 := if_pos hU

theorem restoreReg_U {s : State} (hU : s.strand.mode = .U) (r : BitVec 4) (ea : Word) :
    s.restoreReg r ea = .trap 1 s.latch.first 0 := if_pos hU

section
variable {s s1 t : State} {r : BitVec 4} {ea : Word} {ps : List (Word × Machine.Place)} (hmode : s.strand.mode ≠ .U)
include hmode

theorem saveReg_misaligned (h : ea.toNat % 8 ≠ 0) : s.saveReg r ea = .trap 2 ea 0 := (if_neg hmode).trans (if_pos h)

theorem restoreReg_misaligned (h : ea.toNat % 8 ≠ 0) : s.restoreReg r ea = .trap 2 ea 0 := (if_neg hmode).trans (if_pos h)

/-! ## The image written, and read back -/

theorem saveReg_ok (halign : ea.toNat % 8 = 0)
    (hchecks : s.checkEach .store 8 (s.consecutive ea 8 (State.imageWords r)) = .ok ps s1)
    (hfree : s1.core.owesWrite (State.namedReg r) = false)
    (hstore : s1.storeEach MemMod.none (ps.zip ((List.range (State.imageWords r)).map fun i =>
      ((State.imageBytes s1.core r).drop (8 * i)).take 8)) = .ok () t) :
    s.saveReg r ea = .ok () (t.dirty r.toNat false) := by
  rw [State.saveReg, if_neg hmode, if_neg (Decidable.not_not.2 halign), hchecks]
  dsimp only [Eff.bind]
  rw [State.waitWrite_free hfree]
  dsimp only
  rw [hstore]
  rfl

theorem restoreReg_ok {bs : List (List Byte)} (halign : ea.toNat % 8 = 0)
    (hchecks : s.checkEach .load 8 (s.consecutive ea 8 (State.imageWords r)) = .ok ps s1)
    (hfree : s1.core.owesUse (State.namedReg r) = false) (hload : s1.loadEach 8 MemMod.none ps = .ok bs t) :
    s.restoreReg r ea = .ok () ((t.withCore fun c => State.restoreImage c r bs.flatten).dirty r.toNat false) := by
  rw [State.restoreReg, if_neg hmode, if_neg (Decidable.not_not.2 halign), hchecks]
  dsimp only [Eff.bind]
  rw [State.waitUse_free hfree]
  dsimp only
  rw [hload]

end

/-- Settles O39: the traps by the check that fails first, the images by the accesses that move their words. -/
theorem saveAndRestoreRegister : Obligations.SaveAndRestoreRegister := by
  intro s s1 t r b imm ps bs ea n at_ words
  refine ⟨fun hU => ⟨traps_of_finish rfl (saveReg_U hU ..), traps_of_finish rfl (restoreReg_U hU ..)⟩,
    fun hmode h => ⟨traps_of_finish rfl (saveReg_misaligned hmode h), traps_of_finish rfl (restoreReg_misaligned hmode h)⟩,
    fun hmode halign hchecks hfree hstore => ?_, fun hmode halign hchecks hfree hload => ?_⟩
  · exact completes_of_finish (congrArg (finish s) (saveReg_ok hmode halign hchecks hfree hstore)) rfl fun _ hu => hu
  · exact completes_of_finish (congrArg (finish s) (restoreReg_ok hmode halign hchecks hfree hload)) rfl fun _ hu => hu

end Sys2Proof.Machine
end

section
/-! PROOFS. The instructions of the matrix engine: records, claims, and the state of the queue (R149, R152 to R154). -/

namespace Sys2Proof.Machine

/-! ## The fields of a record (R152) -/

theorem field_ofNat {m lo n : Nat} (x : Nat) (h : lo + n ≤ m) : field (BitVec.ofNat m x) lo n = x / 2 ^ lo % 2 ^ n := by
  rw [field_eq, BitVec.toNat_ofNat, ← Nat.shiftRight_eq_div_pow, ← Nat.shiftRight_eq_div_pow]
  apply Nat.eq_of_testBit_eq
  intro i
  simp only [Nat.testBit_mod_two_pow, Nat.testBit_shiftRight]
  by_cases hi : i < n
  · simp [show lo + i < m by omega]
  · simp [hi]

section
variable {kind form : Nat} (hkind : kind < 256) (hform : form < 256) (n : AReg) (ka kb : KReg) (t u : TReg) (xd slot : Nat)
  (scl : Bool) (fpc : Word) (data : V256)
include hkind

theorem kind_make : Rec.kind (Rec.make kind form n ka kb t u xd slot scl fpc data) = kind := by
  rw [Rec.kind, Rec.make, field_ofNat _ (by omega)]; omega

include hform

theorem form_make : Rec.form (Rec.make kind form n ka kb t u xd slot scl fpc data) = form := by
  rw [Rec.form, Rec.make, field_ofNat _ (by omega)]; omega

/-- The accumulator and the two tiles of a record. -/
theorem regs_make : Rec.acc (Rec.make kind form n ka kb t u xd slot scl fpc data) = n ∧
    Rec.ta (Rec.make kind form n ka kb t u xd slot scl fpc data) = t ∧
    Rec.tb (Rec.make kind form n ka kb t u xd slot scl fpc data) = u := by
  have hfield (lo w : Nat) (h : lo + w ≤ 512) := field_ofNat (m := 512) (lo := lo) (n := w)
    (kind + 2 ^ 8 * form + 2 ^ 16 * n.toNat + 2 ^ 18 * ka.toNat + 2 ^ 20 * kb.toNat + 2 ^ 24 * t.toNat + 2 ^ 28 * u.toNat
      + 2 ^ 32 * xd + 2 ^ 37 * slot + 2 ^ 39 * bit scl + 2 ^ 40 * field fpc 0 5 + 2 ^ 48 * 0xFF + 2 ^ 128 * data.toNat) h
  have hn := n.isLt
  have hka := ka.isLt
  have hkb := kb.isLt
  have ht := t.isLt
  have hu := u.isLt
  refine ⟨BitVec.eq_of_toNat_eq ((hfield 16 2 (by omega)).trans ?_), BitVec.eq_of_toNat_eq ((hfield 24 3 (by omega)).trans ?_),
    BitVec.eq_of_toNat_eq ((hfield 28 3 (by omega)).trans ?_)⟩ <;> omega

end

/-! ## The tiles and the accumulator of a record (R153) -/

theorem tyOfCode_code (ty : ETy) : tyOfCode ty.code.toNat = ty := by cases ty <;> rfl

section
variable (t : TReg) (y : ETy)

theorem typed_group_one : (group t 1).map (·, y) = [(t, y)] := by simp [group]

theorem typed_group_two : (group t 2).map (·, y) = [(t, y), (t + 1, y)] := by simp [group, List.range_succ]

theorem typed_group_four : (group t 4).map (·, y) = [(t, y), (t + 1, y), (t + 2, y), (t + 2 + 1, y)] := by
  rw [BitVec.add_assoc]
  simp [group, List.range_succ]

end

theorem tiles_zero (n : AReg) (slot : Nat) (fpc : Word) : Rec.tiles (Rec.make 1 0 n 0 0 0 0 0 slot false fpc 0) = [] := by
  have hkind := kind_make (kind := 1) (form := 0) (by omega) n 0 0 0 0 0 slot false fpc 0
  have hmform : Rec.mform (Rec.make 1 0 n 0 0 0 0 0 slot false fpc 0) = none := by rw [Rec.mform, hkind]; rfl
  simp only [Rec.tiles, hkind, hmform]

section
variable {form : Nat} (hform : form < 256) (n : AReg) (ka kb : KReg) (t u : TReg) (xd slot : Nat) (scl : Bool) (fpc : Word)
  (data : V256)
include hform

/-- A record of the multiplication reads two groups of tiles. -/
theorem tiles_mul {kind : Nat} (hkind : kind = 2 ∨ kind = 3) {f : MForm}
    (hf : (if kind = 2 then mmaForm form else smmaForm form) = some f) :
    Rec.tiles (Rec.make kind form n ka kb t u xd slot scl fpc data) =
      (group t f.tilesA).map (·, f.tyA) ++ (group u f.tilesB).map (·, f.tyB) := by
  have hlt : kind < 256 := by omega
  obtain ⟨-, hta, htb⟩ := regs_make hlt hform n ka kb t u xd slot scl fpc data
  have hmform : Rec.mform (Rec.make kind form n ka kb t u xd slot scl fpc data) = some f := by
    rw [Rec.mform, kind_make hlt, form_make hlt hform]
    obtain rfl | rfl := hkind <;> exact hf
  have hkind' := kind_make (form := form) hlt n ka kb t u xd slot scl fpc data
  obtain rfl | rfl := hkind <;> simp only [Rec.tiles, hkind', hmform, hta, htb]

theorem tiles_drain : Rec.tiles (Rec.make 4 form n ka kb t u xd slot scl fpc data) = [(t, tyOfCode form)] := by
  have hlt : 4 < 256 := by omega
  obtain ⟨-, hta, -⟩ := regs_make hlt hform n ka kb t u xd slot scl fpc data
  simp only [Rec.tiles, kind_make hlt, form_make hlt hform, hta]

theorem tiles_draint :
    Rec.tiles (Rec.make 5 form n ka kb t u xd slot scl fpc data) = [(t, draintTy form), (u, draintTy form)] := by
  have hlt : 5 < 256 := by omega
  obtain ⟨-, hta, htb⟩ := regs_make hlt hform n ka kb t u xd slot scl fpc data
  simp only [Rec.tiles, kind_make hlt, form_make hlt hform, hta, htb]

theorem tiles_drainMx : Rec.tiles (Rec.make 7 form n ka kb t u xd slot scl fpc data) = [(t, .e4)] := by
  have hlt : 7 < 256 := by omega
  obtain ⟨-, hta, -⟩ := regs_make hlt hform n ka kb t u xd slot scl fpc data
  simp only [Rec.tiles, kind_make hlt, hta]

theorem accs_make {kind : Nat} (hkind : kind < 256) (hbook : kind ≠ 6) :
    Rec.accs (Rec.make kind form n ka kb t u xd slot scl fpc data) = [n] := by
  rw [Rec.accs, kind_make hkind, if_neg hbook, (regs_make hkind hform n ka kb t u xd slot scl fpc data).1]

end

/-- The codes of the forms are small. -/
theorem form_lt_of_mform {kind form : Nat} {f : MForm} (h : (if kind = 2 then mmaForm form else smmaForm form) = some f) :
    form < 256 := by
  refine Nat.lt_of_not_le fun hge => ?_
  obtain ⟨k, rfl⟩ := Nat.exists_eq_add_of_le' hge
  split at h <;> cases h

/-! ## The claims of a record's registers -/

/-- The core with registers claimed for a slot, one after another. -/
def Core.claimAll (c : Core) (ks : List Nat) (slot : Nat) : Core := ks.foldl (fun c k => c.claim k slot) c

/-- Claims change TOWN alone; the claimed registers are owned, and so is what was. -/
theorem Core.claimAll_spec (c : Core) (ks : List Nat) (slot : Nat) : ∃ w, c.claimAll ks slot = { c with town := w } ∧
    (∀ j, townOwn c.town j = true → townOwn w j = true) ∧ ∀ k ∈ ks, k < 12 → townOwn w k = true := by
  induction ks generalizing c with
  | nil => exact ⟨c.town, rfl, fun _ h => h, fun _ h => absurd h List.not_mem_nil⟩
  | cons k ks ih =>
    obtain ⟨w, heq, hmono, howned⟩ := ih (c.claim k slot)
    refine ⟨w, heq, fun j hj => hmono j (townOwn_claimed_mono k slot hj), fun j hj hlt => ?_⟩
    obtain rfl | hj := List.mem_cons.1 hj
    · exact hmono j (townOwn_claimed _ _ hlt)
    · exact howned j hj hlt

namespace State

theorem foldl_claimReg (s : State) (ks : List Nat) :
    (ks.foldl claimReg s).me = s.me ∧ (ks.foldl claimReg s).core = s.core.claimAll ks s.me.slot ∧
      ∀ f, (ks.foldl claimReg s).withCore f = s.withCore fun c => f (c.claimAll ks s.me.slot) := by
  induction ks generalizing s with
  | nil => exact ⟨rfl, rfl, fun _ => rfl⟩
  | cons k ks ih =>
    obtain ⟨hme, hcore, hwith⟩ := ih (s.claimReg k)
    refine ⟨hme, hcore.trans ?_, fun f => (hwith f).trans (withCore_withCore s (·.claim k s.me.slot) _)⟩
    rw [claimReg_eq, core_withCore]; rfl

/-- The registers of a record as TOWN numbers them. -/
def recordRegs (tiles : List (TReg × ETy)) (accs : List AReg) : List Nat := (tiles.map fun t => tnum t.1) ++ accs.map anum

section
variable {s : State} {tiles : List (TReg × ETy)} {accs : List AReg}
  (hcfg : ∀ r ∈ tiles, cfgOn (s.core.cfg r.1) = true ∧ cfgTy (s.core.cfg r.1) = r.2)
  (htiles : ∀ r ∈ tiles, mayTouch s.core.town r.1.toNat s.me.slot = true)
  (haccs : ∀ r ∈ accs, mayTouch s.core.town (8 + r.toNat) s.me.slot = true)
include hcfg htiles haccs

theorem touchRecord_ok : s.touchRecord tiles accs = .ok () ((recordRegs tiles accs).foldl claimReg s) := by
  have hcfgs : tiles.find? (fun t => !cfgOn (s.core.cfg t.1) || cfgTy (s.core.cfg t.1) != t.2) = none :=
    List.find?_eq_none.2 fun r hr => by simp [hcfg r hr]
  have htouch : ((tiles.map fun t => tnum t.1) ++ accs.map anum).find? (fun k => !mayTouch s.core.town k s.me.slot) = none := by
    refine List.find?_eq_none.2 fun k hk => ?_
    obtain hk | hk := List.mem_append.1 hk
    · obtain ⟨r, hr, rfl⟩ := List.mem_map.1 hk
      simp [tnum, htiles r hr]
    · obtain ⟨r, hr, rfl⟩ := List.mem_map.1 hk
      simp [anum, haccs r hr]
  simp only [touchRecord, hcfgs, htouch]
  rfl

/-- With room in the queue a record is queued and its registers are claimed (R149). -/
theorem queueRec_ok {r : Rec512} (ht : Rec.tiles r = tiles) (ha : Rec.accs r = accs)
    (hroom : s.core.matrix.queue.length + (if s.core.matrix.run.isSome then 1 else 0) < 16) :
    s.queueRec r = .ok () (s.withCore fun c => (c.claimAll (recordRegs tiles accs) s.me.slot).push ⟨r, false⟩) := by
  obtain ⟨-, hcore, hwith⟩ := s.foldl_claimReg (recordRegs tiles accs)
  obtain ⟨w, hclaims, -, -⟩ := s.core.claimAll_spec (recordRegs tiles accs) s.me.slot
  rw [queueRec, ht, ha, touchRecord_ok hcfg htiles haccs, ← hwith (·.push ⟨r, false⟩)]
  exact pushRec_room (by rw [hcore, hclaims]; exact hroom)

end

theorem pushRec_full {s : State} {m : MRec}
    (h : 16 ≤ s.core.matrix.queue.length + (if s.core.matrix.run.isSome then 1 else 0)) :
    s.pushRec m = .hold s false 0 :=
  if_pos h

/-! ## What `msync` and `mqs` see (R154) -/

theorem queued_eq (c : Core) :
    queued c = (c.matrix.run.toList.map fun r => r.cmd.bits) ++ c.matrix.queue.map MRec.bits := by
  unfold queued
  cases c.matrix.run <;> rfl

theorem length_queued (c : Core) : (queued c).length = c.matrix.queue.length + (if c.matrix.run.isSome then 1 else 0) := by
  unfold queued
  cases c.matrix.run <;> simp

theorem queuedOf_le (c : Core) (slot : Nat) : queuedOf c slot ≤ (queued c).length := List.length_filter_le ..

/-- The word of `mqs`. -/
def queueWord (len mine : Nat) (run held : Bool) : Word := BitVec.ofNat 64 (len + 32 * mine + 1024 * bit run + 2048 * bit held)

theorem queueWord_spec {len mine : Nat} (run held : Bool) (hlen : len ≤ 31) (hmine : mine ≤ len) :
    field (queueWord len mine run held) 0 5 = len ∧ field (queueWord len mine run held) 5 5 = mine ∧
      ((queueWord len mine run held).getLsbD 10 = run ∧ (queueWord len mine run held).getLsbD 11 = held) ∧
      field (queueWord len mine run held) 12 52 = 0 := by
  have hrun : bit run ≤ 1 := by cases run <;> simp [bit]
  have hheld : bit held ≤ 1 := by cases held <;> simp [bit]
  have hbit (b : Bool) : decide (bit b = 1) = b := by cases b <;> rfl
  unfold queueWord
  refine ⟨?_, ?_, ⟨?_, ?_⟩, ?_⟩
  · rw [field_ofNat _ (by omega)]; omega
  · rw [field_ofNat _ (by omega)]; omega
  · rw [BitVec.getLsbD_ofNat, decide_eq_true (by omega), Bool.true_and, Nat.testBit_eq_decide_div_mod_eq,
      show (len + 32 * mine + 1024 * bit run + 2048 * bit held) / 2 ^ 10 % 2 = bit run by omega, hbit]
  · rw [BitVec.getLsbD_ofNat, decide_eq_true (by omega), Bool.true_and, Nat.testBit_eq_decide_div_mod_eq,
      show (len + 32 * mine + 1024 * bit run + 2048 * bit held) / 2 ^ 11 % 2 = bit held by omega, hbit]
  · rw [field_ofNat _ (by omega)]; omega

theorem execMqs_word {s : State} (hphase : s.computePhase = false) {a : XReg} : exec (.mqs a) s = done (s.setX a
    (queueWord (s.core.matrix.queue.length + (if s.core.matrix.run.isSome then 1 else 0)) (queuedOf s.core s.me.slot)
      s.core.matrix.run.isSome ((List.range 4).any fun k => !(vgetN s.core.matrix.held k).isEmpty))) := by
  rw [← length_queued]
  exact if_neg (by rw [hphase]; exact Bool.false_ne_true)

end State

/-- A meaning that holds the strand where it stands. -/
theorem holds_of_finish {i : Instr} {s : State} {bounded : Bool} {sval : Word}
    (h : exec i s = finish s (.hold s bounded sval)) : Holds i s := by
  obtain ⟨y, hheld, hstrand⟩ := strand_holdAt s bounded sval
  exact ⟨_, h, onlyStrand_withStrand s fun t => _, by rw [hstrand]; exact hheld, by rw [hstrand]⟩

/-- Settles O41: a record that names its tiles and its accumulator queues and claims them; the other forms by what they queue,
wait for or read. -/
theorem matrixRecords : Obligations.MatrixRecords := by
  intro s n t u c d ka kb b p ty k2 q len pair queues scales mma
  have hqueues (i : Instr) (kind form : Nat) (tiles : List (TReg × ETy)) (ta tb : TReg) (ka kb : KReg) (xd : XReg) (scl : Bool)
      (data : V256) (hi : exec i s = finish s (s.queueRec
        (Rec.make kind form n ka kb ta tb xd.toNat s.me.slot scl s.strand.csr.fpc data)))
      (hkind : kind < 256 ∧ kind ≠ 6) (hform : form < 256)
      (ht : Rec.tiles (Rec.make kind form n ka kb ta tb xd.toNat s.me.slot scl s.strand.csr.fpc data) = tiles) :
      queues i kind form tiles [n] ta tb ka kb xd scl data := by
    intro hroom hcfg htiles haccs
    have ha := accs_make hform n ka kb ta tb xd.toNat s.me.slot scl s.strand.csr.fpc data hkind.1 hkind.2
    rw [State.queueRec_ok hcfg htiles haccs ht ha hroom] at hi
    obtain ⟨w, hclaims, -, howned⟩ := s.core.claimAll_spec (State.recordRegs tiles [n]) s.me.slot
    refine completes_of_finish hi rfl fun v hv => ⟨_, hv, ?_⟩
    rw [State.core_withCore, hclaims]
    refine ⟨rfl, fun r hr => howned _ ?_ (tile_lt_twelve r.1), fun r hr => howned _ ?_ ?_, rfl, rfl, rfl⟩
    · exact List.mem_append_left _ (List.mem_map_of_mem (f := fun r => tnum r.1) hr)
    · exact List.mem_append_right _ (List.mem_map_of_mem (f := anum) hr)
    · have := r.isLt; omega
  have hmul {i : Instr} {kind form : Nat} {f : MForm} {as bs ts : List (TReg × ETy)} {ka kb : KReg} {xd : XReg}
      (hkind : kind = 2 ∨ kind = 3) (hi : exec i s = finish s (s.queueRec (s.mmaRec kind form n t u xd ka kb)))
      (hf : (if kind = 2 then mmaForm form else smmaForm form) = some f) (has : (group t f.tilesA).map (·, f.tyA) = as)
      (hbs : (group u f.tilesB).map (·, f.tyB) = bs) (hts : as ++ bs = ts) : mma i kind form ts ka kb xd := by
    have hform := form_lt_of_mform hf
    exact hqueues i kind form ts t u ka kb xd _ _ hi (by omega) hform
      (hts ▸ has ▸ hbs ▸ tiles_mul hform n ka kb t u xd.toNat s.me.slot _ _ _ hkind hf)
  have hmma {i : Instr} {form : Nat} {f : MForm} {as bs ts : List (TReg × ETy)} {ka kb : KReg} {xd : XReg} :=
    @hmul i 2 form f as bs ts ka kb xd (.inl rfl)
  have hsmma {i : Instr} {form : Nat} {f : MForm} {as bs ts : List (TReg × ETy)} {ka kb : KReg} {xd : XReg} :=
    @hmul i 3 form f as bs ts ka kb xd (.inr rfl)
  have hmine : State.queuedOf s.core s.me.slot = (((q.run.toList.map fun r => r.cmd.bits) ++ q.queue.map MRec.bits).filter
      fun r => Rec.slot r == s.me.slot).length := by rw [State.queuedOf, State.queued_eq]
  have hle : State.queuedOf s.core s.me.slot ≤ len := Nat.le_trans (State.queuedOf_le ..) (Nat.le_of_eq (State.length_queued _))
  have one := typed_group_one
  have two := typed_group_two
  have four := typed_group_four
  refine ⟨hmma rfl rfl (one ..) (one ..) rfl, hmma rfl rfl (one ..) (one ..) rfl, hmma rfl rfl (one ..) (one ..) rfl,
    hmma rfl rfl (one ..) (one ..) rfl, hmma rfl rfl (one ..) (one ..) rfl, hmma rfl rfl (one ..) (one ..) rfl,
    hmma rfl rfl (one ..) (one ..) rfl, hmma rfl rfl (one ..) (one ..) rfl, hmma rfl rfl (one ..) (one ..) rfl,
    hmma rfl rfl (one ..) (one ..) rfl, hmma rfl rfl (one ..) (two ..) rfl, hmma rfl rfl (one ..) (four ..) rfl,
    hmma rfl rfl (one ..) (one ..) rfl, hmma rfl rfl (one ..) (one ..) rfl, hmma rfl rfl (one ..) (one ..) rfl,
    hmma rfl rfl (one ..) (one ..) rfl, hsmma rfl rfl (two ..) (two ..) rfl, hsmma rfl rfl (two ..) (two ..) rfl,
    hsmma rfl rfl (two ..) (two ..) rfl, hsmma rfl rfl (two ..) (two ..) rfl, ?zero, ?drain, ?draint, ?drainMx, ?notM, ?book,
    ?push, ?full, ?sync, ?waits, ?phase, ?status⟩
  case zero => exact hqueues _ 1 0 [] 0 0 0 0 0 _ _ rfl (by omega) (by omega) (tiles_zero ..)
  case drain =>
    have hform : ty.code.toNat < 256 := Nat.lt_trans ty.code.isLt (by omega)
    exact hqueues _ 4 _ _ t 0 0 0 0 _ _ rfl (by omega) hform ((tiles_drain hform ..).trans (by rw [tyOfCode_code]))
  case draint =>
    have hform : k2.toNat < 256 := Nat.lt_trans k2.isLt (by omega)
    exact hqueues _ 5 _ _ t u 0 0 d _ _ rfl (by omega) hform (tiles_draint hform ..)
  case drainMx => exact fun hM => hqueues _ 7 0 _ t 0 0 0 d _ _ (if_pos hM) (by omega) (by omega) (tiles_drainMx (by omega) ..)
  case notM => exact fun hM => traps_of_exec _ _ _ _ _ (if_neg hM)
  case book => exact fun hroom => does_of_finish _ _ _ (congrArg (finish s) (State.pushRec_room hroom)) rfl
  case push =>
    exact fun hroom => ⟨Rec.withSlot (s.pairBits p) s.me.slot, fun j hj _ => getLsbD_withSlot _ _ hj, slot_withSlot ..,
      does_of_finish _ _ _ (congrArg (finish s) (State.pushRec_room hroom)) rfl⟩
  case full =>
    exact fun hfull => ⟨holds_of_finish (congrArg (finish s) (State.pushRec_full hfull)),
      holds_of_finish (congrArg (finish s) (State.pushRec_full hfull))⟩
  case sync =>
    intro hnone
    exact does_of_finish _ _ _ (congrArg (finish s) (if_pos (by rw [hmine, hnone]; rfl))) rfl
  case waits =>
    intro hsome
    exact holds_of_finish (congrArg (finish s) (if_neg (by rw [hmine]; exact mt List.length_eq_zero_iff.1 hsome)))
  case phase => exact fun hphase => traps_of_exec _ _ _ _ _ (if_pos hphase)
  case status =>
    intro hphase
    have hspec (h : len ≤ 31) :=
      State.queueWord_spec q.run.isSome ((List.range 4).any fun k => !(vgetN q.held k).isEmpty) h hle
    refine ⟨_, does_of_done _ _ _ (State.execMqs_word hphase) (by simp [fallsTo]), fun h => (hspec h).1,
      fun _ h => (hspec h).2.1.trans hmine, fun h => (hspec h).2.2.1, fun h => (hspec h).2.2.2⟩

end Sys2Proof.Machine
end

section
/-! PROOFS. Bit tiles: their bits, the closure by squaring, and their memory forms (R161, R168 to R171, R343). -/

namespace Sys2Proof.Machine

/-! ## Bits and counts (R161, R168 to R170) -/

theorem btBit_eq_field (v : V256) (i j : Nat) : btBit v i j = (field v (16 * i + j) 1).testBit 0 := by
  simp [field, btBit, BitVec.getLsbD]

theorem btBit_btOf (f : Nat → Nat → Bool) {i j : Nat} (hi : i < 16) (hj : j < 16) : btBit (btOf f) i j = f i j := by
  have hlane := field_packLanes (m := 256) 1 (fun k => bit (f (k / 16) (k % 16))) (n := 256) (by omega)
    (show 16 * i + j < 256 by omega)
  rw [Nat.one_mul] at hlane
  rw [btBit_eq_field, btOf, hlane, show (16 * i + j) / 16 = i by omega, show (16 * i + j) % 16 = j by omega]
  cases f i j <;> rfl

theorem btBit_btProduct (a b : V256) {i j : Nat} (hi : i < 16) (hj : j < 16) :
    btBit (btProduct a b) i j = (List.range 16).any fun k => btBit a i k && btBit b k j := btBit_btOf _ hi hj

theorem lane_btCounts (f : Nat → Nat) {i : Nat} (hi : i < 16) (hf : f i ≤ 16) : lane (btCounts f) 16 i = f i :=
  (field_packLanes (m := 256) 16 f (Nat.le_refl 256) hi).trans (Nat.mod_eq_of_lt (by omega))

theorem length_filter_range_le (n : Nat) (p : Nat → Bool) : ((List.range n).filter p).length ≤ n :=
  Nat.le_trans (List.length_filter_le ..) (Nat.le_of_eq List.length_range)

theorem does_setB {i : Instr} {s : State} {d : BReg} {v : V256} (h : exec i s = done (s.setB d v)) : Does i s (s.setB d v) :=
  does_of_done _ _ _ h (by simp [fallsTo])

theorem does_setV {i : Instr} {s : State} {a : VReg} {v : V256} (h : exec i s = done (s.setV a v)) : Does i s (s.setV a v) :=
  does_of_done _ _ _ h (by simp [fallsTo])

/-! ## Paths in a bit tile (R169) -/

/-- The steps from `i` through the nodes of `l` to `j` are all in the tile. -/
def PathOn (v : V256) (i : Nat) (l : List Nat) (j : Nat) : Prop :=
  ∀ k, k ≤ l.length → btBit v ((i :: l).getD k j) ((l ++ [j]).getD k j) = true

/-- A path of one step or more leads from `i` to `j`. -/
def HasPath (v : V256) (i j : Nat) : Prop := ∃ l : List Nat, (∀ k ∈ l, k < 16) ∧ PathOn v i l j

theorem pathOn_nil {v : V256} {i j : Nat} : PathOn v i [] j ↔ btBit v i j = true :=
  ⟨fun h => h 0 (Nat.le_refl 0), fun h _ hk => Nat.le_zero.1 hk ▸ h⟩

theorem pathOn_cons {v : V256} {i a j : Nat} {l : List Nat} :
    PathOn v i (a :: l) j ↔ btBit v i a = true ∧ PathOn v a l j := by
  refine ⟨fun h => ⟨h 0 (Nat.zero_le _), fun k hk => h (k + 1) (Nat.succ_le_succ hk)⟩, fun ⟨hfirst, hrest⟩ k hk => ?_⟩
  cases k with
  | zero => exact hfirst
  | succ k => exact hrest k (Nat.le_of_succ_le_succ hk)

/-- A path is one step, and then nothing or a path. -/
theorem hasPath_iff {v : V256} {i j : Nat} (hj : j < 16) :
    HasPath v i j ↔ ∃ k, k < 16 ∧ btBit v i k = true ∧ (k = j ∨ HasPath v k j) := by
  constructor
  · rintro ⟨l, hl, hpath⟩
    cases l with
    | nil => exact ⟨j, hj, pathOn_nil.1 hpath, .inl rfl⟩
    | cons a l =>
      obtain ⟨ha, hl⟩ := List.forall_mem_cons.1 hl
      obtain ⟨hfirst, hrest⟩ := pathOn_cons.1 hpath
      exact ⟨a, ha, hfirst, .inr ⟨l, hl, hrest⟩⟩
  · rintro ⟨k, hk, hstep, rfl | ⟨l, hl, hpath⟩⟩
    · exact ⟨[], nofun, pathOn_nil.2 hstep⟩
    · exact ⟨k :: l, List.forall_mem_cons.2 ⟨hk, hl⟩, pathOn_cons.2 ⟨hstep, hpath⟩⟩

theorem exists_length_iff_hasPath (v : V256) (i j : Nat) :
    (∃ n, ∃ l : List Nat, l.length = n ∧ (∀ k ∈ l, k < 16) ∧
      ∀ k, k ≤ n → btBit v ((i :: l).getD k j) ((l ++ [j]).getD k j) = true) ↔ HasPath v i j := by
  refine ⟨fun ⟨n, l, hlen, hl, hpath⟩ => ?_, fun ⟨l, hl, hpath⟩ => ⟨l.length, l, rfl, hl, hpath⟩⟩
  subst hlen
  exact ⟨l, hl, hpath⟩

/-! ## What is reached within a number of steps -/

/-- Node `j` is `i`, or at most `n` steps lead to it from `i`. -/
def reached (v : V256) (i : Nat) : Nat → Nat → Bool
  | 0, j => j == i
  | n + 1, j => reached v i n j || (List.range 16).any fun k => reached v i n k && btBit v k j

section
variable {v : V256} {i : Nat}

theorem reached_zero {j : Nat} : reached v i 0 j = true ↔ j = i := beq_iff_eq

theorem any_range_and {n : Nat} {p q : Nat → Bool} :
    ((List.range n).any fun k => p k && q k) = true ↔ ∃ k, k < n ∧ p k = true ∧ q k = true := by
  simp only [List.any_eq_true, List.mem_range, Bool.and_eq_true]

theorem reached_succ {n j : Nat} : reached v i (n + 1) j = true ↔
    reached v i n j = true ∨ ∃ k, k < 16 ∧ reached v i n k = true ∧ btBit v k j = true := by
  rw [reached, Bool.or_eq_true, any_range_and]

theorem reached_mono {m n j : Nat} (hmn : m ≤ n) (h : reached v i m j = true) : reached v i n j = true := by
  induction hmn with
  | refl => exact h
  | step _ ih => exact reached_succ.2 (.inl ih)

theorem reached_one {j : Nat} (hi : i < 16) : reached v i 1 j = true ↔ j = i ∨ btBit v i j = true := by
  rw [reached_succ, reached_zero]
  refine or_congr_right ⟨?_, fun h => ⟨i, hi, reached_zero.2 rfl, h⟩⟩
  rintro ⟨k, -, hk, hstep⟩
  exact reached_zero.1 hk ▸ hstep

theorem reached_add {m n j : Nat} (hj : j < 16) :
    reached v i (m + n) j = true ↔ ∃ k, k < 16 ∧ reached v i m k = true ∧ reached v k n j = true := by
  induction n generalizing j with
  | zero => exact ⟨fun h => ⟨j, hj, h, reached_zero.2 rfl⟩, fun ⟨k, _, hk, h⟩ => reached_zero.1 h ▸ hk⟩
  | succ n ih =>
    rw [← Nat.add_assoc, reached_succ, ih hj]
    constructor
    · rintro (⟨k, hk, hik, hkj⟩ | ⟨l, hl, hil, hstep⟩)
      · exact ⟨k, hk, hik, reached_succ.2 (.inl hkj)⟩
      · obtain ⟨k, hk, hik, hkl⟩ := (ih hl).1 hil
        exact ⟨k, hk, hik, reached_succ.2 (.inr ⟨l, hl, hkl, hstep⟩)⟩
    · rintro ⟨k, hk, hik, hkj⟩
      obtain hkj | ⟨l, hl, hkl, hstep⟩ := reached_succ.1 hkj
      · exact .inl ⟨k, hk, hik, hkj⟩
      · exact .inr ⟨l, hl, (ih hl).2 ⟨k, hk, hik, hkl⟩, hstep⟩

theorem path_of_reached {n j : Nat} (hj : j < 16) (hi : i < 16) (h : reached v i n j = true) : i = j ∨ HasPath v i j := by
  induction n generalizing i with
  | zero => exact .inl (reached_zero.1 h).symm
  | succ n ih =>
    rw [Nat.add_comm, reached_add hj] at h
    obtain ⟨k, hk, hfirst, hrest⟩ := h
    obtain rfl | hstep := (reached_one hi).1 hfirst
    · exact ih hi hrest
    · exact .inr ((hasPath_iff hj).2 ⟨k, hk, hstep, ih hk hrest⟩)

theorem reached_of_pathOn {j : Nat} (hj : j < 16) {l : List Nat} (hi : i < 16) (hl : ∀ k ∈ l, k < 16)
    (h : PathOn v i l j) : reached v i (1 + l.length) j = true := by
  induction l generalizing i with
  | nil => exact (reached_one hi).2 (.inr (pathOn_nil.1 h))
  | cons a l ih =>
    obtain ⟨ha, hl⟩ := List.forall_mem_cons.1 hl
    obtain ⟨hfirst, hrest⟩ := pathOn_cons.1 h
    have htail := ih ha hl hrest
    rw [Nat.add_comm] at htail
    exact (reached_add hj).2 ⟨a, ha, (reached_one hi).2 (.inr hfirst), htail⟩

/-! ## Sixteen steps are enough

While a further step reaches a new node, the nodes reached grow in number; there are 16 of them, and `i` is one. -/

/-- No step from the nodes reached within `m` steps leads to another. -/
def Settled (v : V256) (i m : Nat) : Prop := ∀ j, j < 16 → reached v i (m + 1) j = true → reached v i m j = true

/-- How many nodes `n` steps reach. -/
def reach (v : V256) (i n : Nat) : Nat := ((List.range 16).filter (reached v i n)).length

theorem reached_of_settled {m j : Nat} (h : Settled v i m) (hj : j < 16) (d : Nat) (hd : reached v i (m + d) j = true) :
    reached v i m j = true := by
  induction d generalizing j with
  | zero => exact hd
  | succ d ih =>
    obtain hd | ⟨k, hk, hik, hstep⟩ := reached_succ.1 hd
    · exact ih hj hd
    · exact h j hj (reached_succ.2 (.inr ⟨k, hk, ih hk hik, hstep⟩))

theorem settled_of_reach_le {m : Nat} (h : reach v i (m + 1) ≤ reach v i m) : Settled v i m := by
  intro j hj hnext
  have hsub : (List.range 16).filter (reached v i m) =
      ((List.range 16).filter (reached v i (m + 1))).filter (reached v i m) := by
    rw [List.filter_filter]
    refine List.filter_congr fun k _ => ?_
    cases hk : reached v i m k with
    | false => rfl
    | true => rw [reached_mono (Nat.le_succ m) hk]; rfl
  rw [reach, reach, hsub] at h
  have hall := List.length_filter_eq_length_iff.1 (Nat.le_antisymm (List.length_filter_le ..) h)
  exact hall j (List.mem_filter.2 ⟨List.mem_range.2 hj, hnext⟩)

theorem lt_reach_of_not_settled (hi : i < 16) {m : Nat} (h : ∀ k, k < m → ¬ Settled v i k) : m < reach v i m := by
  induction m with
  | zero => exact List.length_pos_of_mem (List.mem_filter.2 ⟨List.mem_range.2 hi, reached_zero.2 rfl⟩)
  | succ m ih =>
    have hbefore : m < reach v i m := ih fun k hk => h k (Nat.lt_succ_of_lt hk)
    have hgrows : reach v i m < reach v i (m + 1) :=
      Nat.lt_of_not_le fun hle => h m (Nat.lt_succ_self m) (settled_of_reach_le hle)
    omega

theorem exists_settled (hi : i < 16) : ∃ m, m < 16 ∧ Settled v i m := by
  refine Classical.byContradiction fun hnone => ?_
  have hlarge : 16 < reach v i 16 := lt_reach_of_not_settled hi fun k hk hsettled => hnone ⟨k, hk, hsettled⟩
  exact absurd (length_filter_range_le 16 (reached v i 16)) (Nat.not_le_of_lt hlarge)

theorem reached_sixteen_of_reached (hi : i < 16) {n j : Nat} (hj : j < 16) (h : reached v i n j = true) :
    reached v i 16 j = true := by
  obtain ⟨m, hm, hsettled⟩ := exists_settled (v := v) hi
  have hlate : reached v i (m + n) j = true := reached_mono (Nat.le_add_left n m) h
  exact reached_mono (Nat.le_of_lt hm) (reached_of_settled hsettled hj n hlate)

theorem reached_sixteen_iff (hi : i < 16) {j : Nat} (hj : j < 16) : reached v i 16 j = true ↔ i = j ∨ HasPath v i j := by
  refine ⟨path_of_reached hj hi, ?_⟩
  rintro (rfl | ⟨l, hl, hpath⟩)
  · exact reached_mono (Nat.zero_le 16) (reached_zero.2 rfl)
  · exact reached_sixteen_of_reached hi hj (reached_of_pathOn hj hi hl hpath)

end

/-! ## The closure (R169) -/

/-- Tile `w` holds the pairs that `n` steps or fewer of tile `v` join. -/
def HoldsWithin (v w : V256) (n : Nat) : Prop := ∀ i j, i < 16 → j < 16 → (btBit w i j = true ↔ reached v i n j = true)

theorem holdsWithin_one (v : V256) : HoldsWithin v (v ||| btIdentity) 1 := by
  intro i j hi hj
  have hor : btBit (v ||| btIdentity) i j = (btBit v i j || i == j) := by
    rw [← btBit_btOf (fun i j => i == j) hi hj]; exact BitVec.getLsbD_or
  rw [hor, Bool.or_eq_true, beq_iff_eq, reached_one hi]
  exact or_comm.trans (or_congr_left eq_comm)

/-- A product joins the steps of its factors, so a squaring doubles their number. -/
theorem HoldsWithin.btProduct {v a b : V256} {m n : Nat} (ha : HoldsWithin v a m) (hb : HoldsWithin v b n) :
    HoldsWithin v (btProduct a b) (m + n) := by
  intro i j hi hj
  rw [btBit_btProduct _ _ hi hj, any_range_and, reached_add hj]
  exact exists_congr fun k => and_congr_right fun hk => and_congr (ha i k hi hk) (hb k j hk hj)

theorem holdsWithin_btClosure (v : V256) : HoldsWithin v (btClosure v) 16 := by
  have two := (holdsWithin_one v).btProduct (holdsWithin_one v)
  have four := two.btProduct two
  have eight := four.btProduct four
  exact eight.btProduct eight

theorem btBit_btClosure (v : V256) {i j : Nat} (hi : i < 16) (hj : j < 16) :
    btBit (btClosure v) i j = true ↔ i = j ∨ HasPath v i j :=
  (holdsWithin_btClosure v i j hi hj).trans (reached_sixteen_iff hi hj)

/-- One step and then any path is a path of one step or more. -/
theorem btBit_step_btClosure (v : V256) {i j : Nat} (hi : i < 16) (hj : j < 16) :
    btBit (btProduct v (btClosure v)) i j = true ↔ HasPath v i j := by
  rw [btBit_btProduct _ _ hi hj, any_range_and, hasPath_iff hj]
  exact exists_congr fun k => and_congr_right fun hk => and_congr_right fun _ => btBit_btClosure v hk hj

/-! ## Memory forms (R171, R343) -/

theorem bytesOfNat_mod (n v : Nat) : bytesOfNat n (v % 256 ^ n) = bytesOfNat n v := by
  induction n generalizing v with
  | zero => rfl
  | succ n ih =>
    have hhigh : v % 256 ^ (n + 1) / 256 = v / 256 % 256 ^ n := by rw [Nat.pow_succ', Nat.mod_mul_right_div_self]
    have hlow : BitVec.ofNat 8 (v % 256 ^ (n + 1)) = BitVec.ofNat 8 v := by
      apply BitVec.eq_of_toNat_eq
      rw [BitVec.toNat_ofNat, BitVec.toNat_ofNat, Nat.pow_succ', Nat.mod_mul_right_mod]
    rw [bytesOfNat, bytesOfNat, hlow, hhigh, ih]

/-- The bytes of a word of a register are the bytes at its place. -/
theorem bytesAt_word (v : V256) (i : Nat) : bytesAt v (8 * i) 8 = bytesOfNat 8 (v.extractLsb' (64 * i) 64).toNat := by
  rw [BitVec.extractLsb'_toNat, bytesAt, ← Nat.mul_assoc]
  exact (bytesOfNat_mod 8 _).symm

theorem not_isGlobal_of_isOwnLm {va : Word} (h : isOwnLm va = true) : isGlobal va = false := by
  have hlow : va.toNat < 0x1_0000 := of_decide_eq_true h
  exact Bool.and_eq_false_imp.2 fun hlarge => absurd (of_decide_eq_true hlarge) (by omega)

theorem regionPage_of_not_isGlobal {s : State} {va : Word} (h : isGlobal va = false) : s.regionPage va = false := by
  simp [State.regionPage, h]

theorem Eff.bind_eq_ok {α β : Type} {e : Eff α} {f : α → State → Eff β} {b : β} {t : State} (h : e.bind f = .ok b t) :
    ∃ a u, e = .ok a u ∧ f a u = .ok b t := by
  cases e with
  | ok a u => exact ⟨a, u, rfl, h⟩
  | trap => cases h
  | hold => cases h

namespace State

/-- What `btAccess` refuses in a compute phase: a tile that leaves the member's reservation in its own LM (R261). -/
def leavesReservation (s : State) (va : Word) (n : Nat) : Bool := s.computePhase && isOwnLm va && !inReservation s va n

section
variable {s : State} {va : Word}

theorem element_ok_own {k : Access} {both : Bool} {n : Nat} {p : Place} {u : State} (hphase : s.computePhase = true)
    (hown : isOwnLm va = true) (h : s.element k both va n = .ok p u) : u = s ∧ inReservation s va n = true := by
  rw [element, regionPage_of_not_isGlobal (not_isGlobal_of_isOwnLm hown), if_neg Bool.false_ne_true] at h
  split at h
  · cases h
  · rw [place, if_pos hown, hphase, Bool.true_and] at h
    cases hin : inReservation s va n with
    | true => rw [hin, if_neg (by simp)] at h; cases h; exact ⟨rfl, rfl⟩
    | false => rw [hin, if_pos (by rfl)] at h; cases h

theorem inReservation_of_checkEach {k : Access} {n : Nat} (hphase : s.computePhase = true) {as : List Word}
    (hown : ∀ a ∈ as, isOwnLm a = true) : ∀ {ps : List (Word × Place)} {t : State}, s.checkEach k n as = .ok ps t →
      ∀ a ∈ as, inReservation s a n = true := by
  induction as with
  | nil => exact fun _ => nofun
  | cons a as ih =>
    intro ps t h
    obtain ⟨ha, has⟩ := List.forall_mem_cons.1 hown
    obtain ⟨p, u, hfirst, hrest⟩ := Eff.bind_eq_ok h
    obtain ⟨rfl, hin⟩ := element_ok_own hphase ha hfirst
    obtain ⟨_, _, hrest, -⟩ := Eff.bind_eq_ok hrest
    exact List.forall_mem_cons.2 ⟨hin, ih has hrest⟩

/-- Words that may each be accessed lie in the reservation together (R171, R261). -/
theorem leavesReservation_of_checkEach {k : Access} {t : State} {ps : List (Word × Place)} (halign : va.toNat % 32 = 0)
    (h : s.checkEach k 8 [va, va + 8, va + 16, va + 24] = .ok ps t) : s.leavesReservation va 32 = false := by
  cases hphase : s.computePhase with
  | false => rw [leavesReservation, hphase]; rfl
  | true =>
    cases hown : isOwnLm va with
    | false => rw [leavesReservation, hown, Bool.and_false]; rfl
    | true =>
      have hlow : va.toNat < 0x1_0000 := of_decide_eq_true hown
      have hwords : ∀ a ∈ [va, va + 8, va + 16, va + 24], isOwnLm a = true := by
        simp only [List.forall_mem_cons, isOwnLm, decide_eq_true_eq, BitVec.toNat_add]
        refine ⟨hlow, ?_, ?_, ?_, nofun⟩ <;> simp <;> omega
      have hin := inReservation_of_checkEach hphase hwords h
      have hfirst := hin va (by simp)
      have hlast := hin (va + 24) (by simp)
      have h24 : (va + 24).toNat = va.toNat + 24 := by rw [BitVec.toNat_add]; simp; omega
      simp only [inReservation, h24, Bool.and_eq_true, decide_eq_true_eq] at hfirst hlast
      have hwhole : inReservation s va 32 = true := by
        simp only [inReservation, Bool.and_eq_true, decide_eq_true_eq]
        exact ⟨hfirst.1, by omega⟩
      rw [leavesReservation, hwhole, Bool.not_true, Bool.and_false]

theorem btAccess_misaligned (hlocal : isGlobal va = false) (h : va.toNat % 32 ≠ 0) (f : State → Eff Unit) :
    s.btAccess va f = .trap 2 va 0 :=
  (if_neg (by rw [regionPage_of_not_isGlobal hlocal]; exact Bool.false_ne_true)).trans (if_pos h)

theorem btAccess_ok {k : Access} {t : State} {ps : List (Word × Place)} (hregion : s.regionPage va = false)
    (halign : va.toNat % 32 = 0) (h : s.checkEach k 8 [va, va + 8, va + 16, va + 24] = .ok ps t) (f : State → Eff Unit) :
    s.btAccess va f = f s := by
  have hin : (s.computePhase && isOwnLm va && !inReservation s va 32) = false := leavesReservation_of_checkEach halign h
  rw [btAccess, hregion, if_neg Bool.false_ne_true, if_neg (Decidable.not_not.2 halign), hin, if_neg Bool.false_ne_true]

theorem consecutive_words (va : Word) : s.consecutive va 8 4 = [va, va + 8, va + 16, va + 24] := by
  simp [consecutive, List.range_succ]

end

end State

theorem execBtLd_ok {s t : State} {d : BReg} {b : XReg} {imm : BitVec 20} {mm : MemMod} {bs : List (List Byte)}
    (halign : (s.ea b imm).toNat % 32 = 0) (hregion : s.regionPage (s.ea b imm) = false)
    (h : s.loadElems 8 mm [s.ea b imm, s.ea b imm + 8, s.ea b imm + 16, s.ea b imm + 24] = .ok bs t) :
    exec (.btLd d b imm mm) s = finish s (.ok () (t.setB d (BitVec.ofNat 256 (natOfBytes bs.flatten)))) := by
  obtain ⟨ps, u, hchecks, -⟩ := Eff.bind_eq_ok h
  refine congrArg (finish s) ((State.btAccess_ok hregion halign hchecks _).trans ?_)
  rw [State.consecutive_words, h]
  rfl

theorem execBtSt_ok {s t : State} {d : BReg} {b : XReg} {imm : BitVec 20} {mm : MemMod}
    (halign : (s.ea b imm).toNat % 32 = 0) (hregion : s.regionPage (s.ea b imm) = false)
    (h : s.storeElems 8 mm ([s.ea b imm, s.ea b imm + 8, s.ea b imm + 16, s.ea b imm + 24].zip
      ((List.range 4).map fun i => bytesOfNat 8 ((s.b d).extractLsb' (64 * i) 64).toNat)) = .ok () t) :
    exec (.btSt d b imm mm) s = finish s (.ok () t) := by
  obtain ⟨ps, u, hchecks, -⟩ := Eff.bind_eq_ok h
  have hwords : [s.ea b imm, s.ea b imm + 8, s.ea b imm + 16, s.ea b imm + 24].zip
      ((List.range 4).map fun i => bytesOfNat 8 ((s.b d).extractLsb' (64 * i) 64).toNat) =
      (List.range 4).map fun i => (s.ea b imm + BitVec.ofNat 64 (8 * i), bytesAt (s.b d) (8 * i) 8) := by
    simp only [bytesAt_word, ← State.consecutive_words (s := s), State.consecutive, List.zip_map']
  exact congrArg (finish s) ((State.btAccess_ok hregion halign hchecks _).trans (hwords ▸ h))

/-- Settles O33: the results by their bits, the two closures by the paths that squaring reaches, the memory forms by the accesses
of their four words. -/
theorem bitTileForms : Obligations.BitTileForms := by
  refine ⟨?registers, ?memory⟩
  case registers =>
    intro s d p q a x y path writes counts
    have hwrites {ins : Instr} {f : Nat → Nat → Bool} (v : V256) (hi : exec ins s = done (s.setB d v))
        (hbits : ∀ {i j : Nat}, i < 16 → j < 16 → btBit v i j = f i j) : writes ins f :=
      ⟨v, fun _ _ => hbits, does_setB hi⟩
    have hcounts {ins : Instr} {f : Nat → Nat} (hi : exec ins s = done (s.setV a (btCounts f))) (hf : ∀ i, f i ≤ 16) :
        counts ins f :=
      ⟨_, fun i h => lane_btCounts f h (hf i), does_setV hi⟩
    have hpath (i j : Nat) : (∃ n, path n i j) ↔ HasPath (s.b p) i j := exists_length_iff_hasPath _ i j
    refine ⟨hwrites _ rfl fun _ _ => BitVec.getLsbD_and, hwrites _ rfl fun _ _ => BitVec.getLsbD_or,
      hwrites _ rfl fun _ _ => BitVec.getLsbD_xor, hwrites _ rfl ?andn, hwrites _ rfl (btBit_btProduct _ _),
      hwrites _ rfl ?not,
      hwrites _ rfl (btBit_btOf _), hwrites _ rfl (btBit_btOf _), hwrites _ rfl fun _ _ => BitVec.getLsbD_zero,
      ⟨_, fun i j hi hj => (btBit_step_btClosure _ hi hj).trans (hpath i j).symm, does_setB rfl⟩,
      ⟨_, fun i j hi hj => (btBit_btClosure _ hi hj).trans (or_congr_right (hpath i j).symm), does_setB rfl⟩,
      hcounts rfl fun _ => length_filter_range_le .., hcounts rfl fun _ => length_filter_range_le .., does_setV rfl,
      does_setB rfl⟩
    case andn =>
      intro i j hi hj
      have hin : 16 * i + j < 256 := by omega
      simp [btBit, x, y, hin]
    case not =>
      intro i j hi hj
      have hin : 16 * i + j < 256 := by omega
      simp [btBit, x, hin]
  case memory =>
    intro s t d b imm mm bs va words
    refine ⟨fun hlocal h => ?_, fun halign hregion => ?_⟩
    · exact ⟨traps_of_finish rfl (State.btAccess_misaligned hlocal h _),
        traps_of_finish rfl (State.btAccess_misaligned hlocal h _)⟩
    · exact ⟨fun h => completes_of_finish (execBtLd_ok halign hregion h) (by simp [fallsTo]) fun _ hu => hu,
        fun h => completes_of_finish (execBtSt_ok halign hregion h) rfl fun _ hu => hu⟩

end Sys2Proof.Machine
end

section
/-! PROOFS. The outer comparisons of two tiles (R163 to R167, R393). -/

namespace Sys2Proof.Machine

namespace State

/-! ## The elements compared, and their flags (R164, R167) -/

/-- The 16 elements of row 0 of a tile. -/
def firstRow (c : Core) (t : TReg) : List Nat := (List.range 16).map (c.elem t 0)

theorem getD_firstRow (c : Core) (t : TReg) {i : Nat} (hi : i < 16) : (firstRow c t).getD i 0 = c.elem t 0 i := by
  simp [firstRow, List.getD_eq_getElem?_getD, hi]

/-- The relations that raise NV, and do so for a signalling NaN only. -/
def ORel.quiet : ORel → Bool
  | .rel _ | .unord | .ord => true
  | .teq | .tlt | .tle | .tltx | .tgtx => false

theorem orelFlags_eq (r : ORel) (ty : ETy) (xs : List Nat) : orelFlags r ty xs =
    if r.quiet && (!ty.isInt && xs.any fun x => ((tyFmt ty).decode x).isSNaN) then fNV else 0 := by cases r <;> rfl

/-- A signalling NaN stands in row 0 of one of the two tiles. -/
def anySNaN (ty : ETy) (c : Core) (t u : TReg) : Bool := !ty.isInt && (List.range 16).any fun i =>
  ((tyFmt ty).decode (c.elem t 0 i)).isSNaN || ((tyFmt ty).decode (c.elem u 0 i)).isSNaN

theorem any_or {α : Type} (p q : α → Bool) (l : List α) : (l.any fun a => p a || q a) = (l.any p || l.any q) := by
  induction l with
  | nil => rfl
  | cons a l ih => simp only [List.any_cons, ih]; ac_rfl

theorem orelFlags_firstRow (r : ORel) (ty : ETy) (c : Core) (t u : TReg) :
    orelFlags r ty (firstRow c t ++ firstRow c u) = if r.quiet && anySNaN ty c t u then fNV else 0 := by
  have hany : ((firstRow c t ++ firstRow c u).any fun x => ((tyFmt ty).decode x).isSNaN) = (List.range 16).any fun i =>
      ((tyFmt ty).decode (c.elem t 0 i)).isSNaN || ((tyFmt ty).decode (c.elem u 0 i)).isSNaN := by
    rw [List.any_append, firstRow, firstRow, List.any_map, List.any_map, any_or]; rfl
  rw [orelFlags_eq, hany, anySNaN]

/-! ## The comparison (R163 to R166) -/

/-- The bit tile that a relation of two rows makes. -/
def compared (s : State) (r : ORel) (t u : TReg) : V256 :=
  btOf fun i j => orel r (cfgTy (s.core.cfg t)) s.env ((firstRow s.core t).getD i 0) ((firstRow s.core u).getD j 0) i j

theorem getLsbD_compared (s : State) (r : ORel) (t u : TReg) {i j : Nat} (hi : i < 16) (hj : j < 16) :
    (s.compared r t u).getLsbD (16 * i + j) =
      orel r (cfgTy (s.core.cfg t)) s.env (s.core.elem t 0 i) (s.core.elem u 0 j) i j := by
  refine (btBit_btOf _ hi hj).trans ?_
  rw [getD_firstRow _ _ hi, getD_firstRow _ _ hj]

/-- Both tiles claimed: only TOWN of the core changes. -/
def claimBoth (s : State) (t u : TReg) : State := s.withCore fun c => (c.claim t.toNat s.me.slot).claim u.toNat s.me.slot

theorem claimReg_claimReg (s : State) (t u : TReg) : (s.claimReg t.toNat).claimReg u.toNat = s.claimBoth t u :=
  withCore_withCore s (·.claim t.toNat s.me.slot) (·.claim u.toNat s.me.slot)

theorem tile_claimBoth (s : State) (t u q : TReg) : (s.claimBoth t u).core.tile q = s.core.tile q := by
  rw [claimBoth, core_withCore, Core.tile_claim, Core.tile_claim]

theorem firstRow_claimBoth (s : State) (t u q : TReg) : firstRow (s.claimBoth t u).core q = firstRow s.core q := by
  rw [claimBoth, core_withCore]; rfl

theorem waitWrite_both {s : State} {q r : MReg} (hq : s.core.owesWrite q = false) (hr : s.core.owesWrite r = false) :
    s.waitWrite [q, r] = .ok () s := by
  simp [waitWrite, hq, hr]

/-! ## Flags (R125) -/

@[simp] theorem strand_raise (s : State) (fl : Word) :
    (s.raise fl).strand = s.strand.modCsr fun c => { c with fflags := c.fflags ||| fl } := strand_withStrand ..

theorem env_raise (s : State) (fl : Word) : (s.raise fl).env = s.env := by rw [env, strand_raise]; rfl

theorem b_raise (s : State) (fl : Word) (q : BReg) : (s.raise fl).b q = s.b q := by rw [b, strand_raise]; rfl

theorem x_raise (s : State) (fl : Word) (q : XReg) : (s.raise fl).x q = s.x q := by rw [x_eq_getX, strand_raise]; rfl

theorem fflags_raise_setB (s : State) (fl : Word) (bd : BReg) (v : V256) :
    ((s.raise fl).setB bd v).strand.csr.fflags = s.strand.csr.fflags ||| fl := by
  rw [setB, strand_withStrand, strand_raise]; rfl

theorem flagged_quiet {s : State} {fl : Word} (h : fl &&& s.te = 0) (f : State → State) :
    s.flagged fl f = .ok () (f (s.raise fl)) := if_neg (Decidable.not_not.2 h)

theorem flagged_enabled {s : State} {fl : Word} (h : fl &&& s.te ≠ 0) (f : State → State) :
    s.flagged fl f = .trap 16 (fl &&& s.te) fl := if_pos h

/-! ## A comparison whose checks pass -/

theorem outerCmp_eq {s : State} {t u : TReg} (hton : cfgOn (s.core.cfg t) = true) (huon : cfgOn (s.core.cfg u) = true)
    (hsame : cfgTy (s.core.cfg u) = cfgTy (s.core.cfg t)) (hty : cfgTy (s.core.cfg t) ≠ .cb4)
    (htmay : mayTouch s.core.town t.toNat s.me.slot = true) (humay : mayTouch s.core.town u.toNat s.me.slot = true)
    (htfree : s.core.owesWrite (.tile t) = false) (hufree : s.core.owesWrite (.tile u) = false) (r : ORel) (bd : BReg) :
    s.outerCmp r bd t u = (s.claimBoth t u).flagged
      (if r.quiet && anySNaN (cfgTy (s.core.cfg t)) s.core t u then fNV else 0) fun m => m.setB bd (s.compared r t u) := by
  unfold outerCmp
  rw [touchCfg_on hton]
  dsimp only [Eff.bind]
  rw [touchCfg_on huon]
  dsimp only
  rw [if_neg (Decidable.not_not.2 hsame), if_neg hty, show s.touchOwn (tnum t) = _ from touchOwn_may htmay]
  dsimp only
  rw [show s.touchOwn (tnum u) = _ from touchOwn_may humay]
  dsimp only
  rw [waitWrite_both htfree hufree]
  dsimp only
  rw [show (s.claimReg (tnum t)).claimReg (tnum u) = _ from claimReg_claimReg s t u]
  show (s.claimBoth t u).flagged
    (orelFlags r _ (firstRow (s.claimBoth t u).core t ++ firstRow (s.claimBoth t u).core u)) (fun m => m.setB bd
      (btOf fun i j => orel r _ m.env ((firstRow (s.claimBoth t u).core t).getD i 0)
        ((firstRow (s.claimBoth t u).core u).getD j 0) i j)) = _
  rw [firstRow_claimBoth, firstRow_claimBoth, orelFlags_firstRow]
  simp only [flagged, env_raise]
  rfl

end State

/-- Settles O38: with every check passed a comparison raises its flags and writes its bits, or traps where FPC.TE enables NV. -/
theorem outerComparisons : Obligations.OuterComparisons := by
  intro s bd t u ty x y hton huon hsame hty htmay humay htfree hufree snan compares
  have hcompares {i : Instr} {r : State.ORel} {quiet : Bool} (hi : exec i s = finish s (s.outerCmp r bd t u))
      (hquiet : r.quiet = quiet) : compares i r quiet := by
    subst hquiet
    unfold compares
    intro fl
    replace hi : exec i s = finish s ((s.claimBoth t u).flagged fl fun m => m.setB bd (s.compared r t u)) :=
      hi.trans (congrArg (finish s) (State.outerCmp_eq hton huon hsame hty htmay humay htfree hufree r bd))
    refine ⟨fun hclear => ⟨_, fun i j => State.getLsbD_compared s r t u, ?_⟩, fun htraps => ?_⟩
    · rw [State.flagged_quiet (show fl &&& (s.claimBoth t u).te = 0 from hclear)] at hi
      exact completes_of_finish hi (by simp [fallsTo, State.claimBoth]) fun w hw => ⟨_, hw,
        fun q => by rw [State.b_setB, State.b_raise]; rfl, State.fflags_raise_setB .., State.tile_claimBoth s t u, rfl,
        fun q => by rw [State.x_setB, State.x_raise]; rfl⟩
    · rw [State.flagged_enabled (show fl &&& (s.claimBoth t u).te ≠ 0 from htraps)] at hi
      exact traps_of_exec _ _ _ _ _ hi
  exact ⟨hcompares rfl rfl, hcompares rfl rfl, hcompares rfl rfl, hcompares rfl rfl, hcompares rfl rfl, hcompares rfl rfl,
    hcompares rfl rfl, hcompares rfl rfl, hcompares rfl rfl, hcompares rfl rfl, hcompares rfl rfl, hcompares rfl rfl,
    hcompares rfl rfl⟩

end Sys2Proof.Machine
end

section
/-! PROOFS. Named barriers and channels (R206 to R209, R213 to R217): their statements fail in a state that lists its strands
out of the order of their keys. -/

namespace Sys2Proof.Machine

/-! ## What a completed instruction leaves of the strand's wait -/

/-- The wait of the executing strand once an instruction has completed. -/
def syncAfter (i : Instr) (s : State) : Option Sync :=
  match exec i s with
  | .next t => some t.strand.sync
  | _ => none

theorem Completes.of_syncAfter {i : Instr} {s : State} {P : State → Prop} (h : Completes i s P) :
    ∃ t, P t ∧ syncAfter i s = some t.strand.sync := by
  obtain ⟨t, ht, hp⟩ := h
  exact ⟨t, hp, by rw [syncAfter, ht]⟩

theorem Retires.token_eq {m t : State} {nxt : Word} (h : Retires m t nxt) : t.strand.sync.token = m.strand.sync.token := by
  rw [h.sync]

theorem Retires.held_eq {m t : State} {nxt : Word} (h : Retires m t nxt) : t.strand.sync.held = false := by
  rw [h.sync]

/-! ## The counterexample -/

/-- The strand of core 1, and before it in the list, out of key order, one of the same rank on core 256, in another field. A
message to that rank is in flight from a core of the first field: with the strand of core 256 first it goes through no mesh
(`State.meshTo`). A write of the executing strand puts its new value in front (`setK` stops at the first key above its own), and
from then on the message goes over the mesh to core 1, where the instruction's own message has to wait behind it. -/
def fallingKeys (src : Nat) : State :=
  let s := State.reset.placeCode [0]
  { s.setBar 0 0 ⟨1, 1, 0, false, 1, []⟩ with
    me := ⟨1, 0⟩
    strands := [(1024, s.strand), (4, s.strand)]
    launches := s.launches.map fun l => { l with kd := { l.kd with chans := [(1, false)] } }
    flights := [⟨⟨src, 0⟩, .chan s.strand.rankOf s.strand.rankOf 0 0, false⟩] }

/-- Refutes O43: the last arrival at a barrier of core 0 sends the release of its phase to core 1 behind the message in flight, so
`bar.arr` leaves its token without the release. The state lists its strands out of key order. -/
theorem not_barrierForms : ¬ Obligations.BarrierForms := by
  intro h
  obtain ⟨-, -, ⟨harr, -⟩, -⟩ := h (fallingKeys 0) 0 0 (by decide +kernel) (by decide +kernel) (by decide +kernel)
    (by decide +kernel) rfl (by decide +kernel) (by decide +kernel) (by decide +kernel)
  obtain ⟨t, ⟨m, hm, -, htoken⟩, hsync⟩ := (harr (by decide +kernel) (by decide +kernel)).of_syncAfter
  have hstuck : (syncAfter (.barArr 0) (fallingKeys 0)).map Sync.token = some (some ⟨0, false, false, 1, true⟩) := by
    decide +kernel
  rw [hsync, Option.map_some, hm.token_eq, htoken] at hstuck
  exact absurd hstuck (by decide +kernel)

/-- Refutes O45: a `send` of the strand to its own rank waits behind the message in flight, so it holds although the receiver has a
free slot. The state lists its strands out of key order. -/
theorem not_channelForms : ¬ Obligations.ChannelForms := by
  intro h
  obtain ⟨hsend, -⟩ := h (fallingKeys 1) 0 0 0 0 1 (by decide +kernel) (by decide +kernel)
  obtain ⟨r, hr⟩ := Option.isSome_iff_exists.1 (show ((fallingKeys 1).ofRank ⟨1, 0, 0⟩).isSome = true by decide +kernel)
  obtain ⟨hroom, -⟩ := hsend (by decide +kernel) (by decide +kernel) (by decide +kernel) (by decide +kernel) (by decide +kernel)
    (by decide +kernel) rfl (by decide +kernel) r hr
  obtain ⟨t, ⟨m, r', hm, -⟩, hsync⟩ := (hroom (by decide +kernel) (by decide +kernel)).of_syncAfter
  have hstuck : (syncAfter (.send 0 0) (fallingKeys 1)).map Sync.held = some true := by decide +kernel
  rw [hsync, Option.map_some, hm.held_eq] at hstuck
  exact absurd hstuck (by decide)

end Sys2Proof.Machine
end

section
/-! PROOFS. The queue registers (R218, R400). -/

namespace Sys2Proof.Machine

/-- An instruction that holds in `u`, where the strand stands as it did, completes with the strand held and what `u` has. -/
theorem completes_held {i : Instr} {s u : State} {bounded : Bool} {sval : Word} {P : State → Prop}
    (h : exec i s = finish s (.hold u bounded sval)) (hpc : u.strand.pc = s.strand.pc) (hx : u.strand.x = s.strand.x)
    (hp : ∀ t, t.core = u.core → t.mem = u.mem → P t) :
    Completes i s fun t => t.strand.sync.held = true ∧ t.strand.pc = s.strand.pc ∧ P t ∧ ∀ r, t.x r = s.x r := by
  obtain ⟨y, hheld, hstrand⟩ := strand_holdAt u bounded sval
  exact ⟨_, h, by rw [hstrand]; exact hheld, by rw [hstrand]; exact hpc, hp _ rfl rfl, State.x_congr (by rw [hstrand]; exact hx)⟩

namespace State

section
variable {s : State} {q : QReg} {w : Bool}

/-- Outside a region and a compute phase nothing stops a queue or channel instruction (R235, R261). -/
theorem open_ok (hregion : s.strand.inRegion = false) (hphase : s.computePhase = false) : s.open_ = .ok () s := by
  simp [open_, outside, notStep, guardTrap, Eff.bind, hregion, hphase]

theorem qTurn_of_first (h : ∀ p, ((vgetN s.core.qWait q.toNat).find? fun p => p.2 == w) = some p → p.1 = s.me.slot) :
    s.qTurn q w = true := by
  unfold qTurn
  split
  next p hp => exact beq_iff_eq.2 (h p hp)
  next => rfl

/-- A core whose queue register `q` holds `l`, the strand in slot `k` waiting there no longer. -/
def left (c : Core) (q : QReg) (l : List Word) (k : Nat) (w : Bool) : Core :=
  { c with q := vsetN c.q q.toNat l, qWait := vsetN c.qWait q.toNat ((vgetN c.qWait q.toNat).erase (k, w)) }

theorem qServed_setQ (s : State) (q : QReg) (l : List Word) (w : Bool) :
    (s.setQ q l).qServed q w = s.withCore fun c => left c q l s.me.slot w :=
  withCore_withCore ..

theorem qBlock_eq (s : State) (q : QReg) (w : Bool) : ∃ (u : State) (v : Word), s.qBlock q w = .hold u true v ∧
    u.strand.pc = s.strand.pc ∧ u.strand.x = s.strand.x ∧ u.core.q = s.core.q := by
  refine ⟨_, _, rfl, ?_, ?_, ?_⟩ <;> simp [modSync, Strand.modSync]

end

end State

section
variable {s : State} {q : QReg} (hregion : s.strand.inRegion = false) (hphase : s.computePhase = false)
include hregion hphase

/-- A strand blocks at a queue register: it holds, and the register keeps its entries. -/
theorem completes_qBlock {i : Instr} {w : Bool} {f : Unit → State → Eff Unit} (hi : exec i s = finish s (s.open_.bind f))
    (hf : f () s = s.qBlock q w) : Completes i s fun t => t.strand.sync.held = true ∧ t.strand.pc = s.strand.pc ∧
      vgetN t.core.q q.toNat = vgetN s.core.q q.toNat ∧ ∀ r, t.x r = s.x r := by
  obtain ⟨u, v, hblock, hpc, hx, hq⟩ := s.qBlock_eq q w
  refine completes_held (u := u) (bounded := true) (sval := v) ?_ hpc hx fun t hcore _ => by rw [hcore, hq]
  rw [hi, State.open_ok hregion hphase, ← hblock, ← hf]
  rfl

/-- A queue or channel instruction ends in the state that its part after the checks answers. -/
theorem exec_of_open {i : Instr} {m : State} {f : Unit → State → Eff Unit} (hi : exec i s = finish s (s.open_.bind f))
    (hf : f () s = .ok () m) : exec i s = finish s (.ok () m) := by
  rw [hi, State.open_ok hregion hphase, ← hf]
  rfl

theorem does_qw {a : XReg} (hroom : (vgetN s.core.q q.toNat).length < 4) (hturn : s.qTurn q true = true) :
    Does (.qw a q) s (s.withCore fun c => State.left c q (vgetN s.core.q q.toNat ++ [s.x a]) s.me.slot true) := by
  refine does_of_finish _ _ _ (exec_of_open hregion hphase rfl ?_) rfl
  rw [← State.qServed_setQ]
  exact if_pos (by rw [hturn, Bool.and_true]; exact decide_eq_true hroom)

theorem does_qr {a : XReg} {v : Word} {l : List Word} (hold : vgetN s.core.q q.toNat = v :: l)
    (hturn : s.qTurn q false = true) :
    Does (.qr a q) s ((s.withCore fun c => State.left c q l s.me.slot false).setX a v) := by
  refine does_of_finish _ _ _ (exec_of_open hregion hphase rfl ?_) (by simp [fallsTo])
  simp only [State.qOf, hold, hturn, State.qServed_setQ]

theorem completes_qtr {a d : XReg} {v : Word} {l : List Word} (hold : vgetN s.core.q q.toNat = v :: l) :
    Completes (.qtr a q d) s fun t => ∃ m : State, Retires m t (fallsTo s) ∧ vgetN m.core.q q.toNat = l ∧ m.mem = s.mem ∧
      ∀ r, m.x r = if r = 0 then 0 else if r = a then v else if r = d then 1 else s.x r := by
  refine completes_of_finish (m := ((s.setQ q l).setX d 1).setX a v) (exec_of_open hregion hphase rfl ?_)
    (by simp [fallsTo, State.setQ]) fun t ht => ⟨_, ht, ?_, rfl, fun r => ?_⟩
  · simp only [State.qOf, hold]
  · simp [State.setQ, vgetN_vsetN_same]
  · simp only [State.x_setX, State.setQ, State.x_withCore]
    split <;> rfl

theorem does_qtr_empty {a d : XReg} (hold : vgetN s.core.q q.toNat = []) : Does (.qtr a q d) s (s.setX d 0) := by
  refine does_of_finish _ _ _ (exec_of_open hregion hphase rfl ?_) (by simp [fallsTo])
  simp only [State.qOf, hold]

end

end Sys2Proof.Machine
end

section
/-! PROOFS. Bytes and numbers in memory, and what a write at the home slices changes of a state (R2, R185). -/

namespace Sys2Proof.Machine

/-! ## Numbers in memory (R2) -/

theorem natOfBytes_bytesOfNat (n v : Nat) : natOfBytes (bytesOfNat n v) = v % 256 ^ n := by
  induction n generalizing v with
  | zero => simp [bytesOfNat, natOfBytes, Nat.mod_one]
  | succ n ih => rw [Nat.pow_succ', Nat.mod_mul, bytesOfNat, natOfBytes, ih, BitVec.toNat_ofNat]

theorem length_bytesOfNat (n v : Nat) : (bytesOfNat n v).length = n := by
  induction n generalizing v with
  | zero => rfl
  | succ n ih => rw [bytesOfNat, List.length_cons, ih]

namespace Memory

theorem writeCells_append (m : Memory) (cs ds : List Host.Cell) : m.writeCells (cs ++ ds) = (m.writeCells cs).writeCells ds := by
  induction cs generalizing m with
  | nil => rfl
  | cons c cs ih => exact ih _

theorem writeCells_cellsAt (m : Memory) (a : Nat) (bs : List Byte) : m.writeCells (cellsAt a bs) = m.writeN a bs := by
  induction bs generalizing m a with
  | nil => rfl
  | cons b bs ih => exact ih _ _

theorem nat_congr {m m' : Memory} {a n : Nat} (h : ∀ j, a ≤ j → j < a + n → m.read j = m'.read j) :
    m.nat a n = m'.nat a n := by
  unfold nat
  congr 1
  induction n generalizing a with
  | zero => rfl
  | succ n ih =>
    rw [readN, readN, h a (Nat.le_refl a) (by omega), ih fun j hj hlt => h j (by omega) (by omega)]

theorem readN_writeN {m : Memory} (hm : m.wf = true) (a : Nat) (bs : List Byte) : (m.writeN a bs).readN a bs.length = bs := by
  induction bs generalizing m a with
  | nil => rfl
  | cons b bs ih =>
    rw [List.length_cons, readN, read_writeN hm, writeN, ih (wf_write a b hm), if_pos (by simp)]
    simp

/-- A number read where it was written. -/
theorem nat_writeN_same {m : Memory} (hm : m.wf = true) (a n v : Nat) : (m.writeN a (bytesOfNat n v)).nat a n = v % 256 ^ n := by
  have h := readN_writeN hm a (bytesOfNat n v)
  rw [length_bytesOfNat] at h
  rw [nat, h, natOfBytes_bytesOfNat]

theorem read_writeN_other {m : Memory} (hm : m.wf = true) {a n v p : Nat} (h : p < a ∨ a + n ≤ p) :
    (m.writeN a (bytesOfNat n v)).read p = m.read p := by
  rw [read_writeN hm, length_bytesOfNat, if_neg (by omega)]

end Memory

/-! ## A write at the home slices (R185) -/

namespace State

section
variable {γ : Type} (π : Strand → γ)
  (hπ : ∀ (p : Strand) (r : Region) (w : Option Watch), π { p with region := r, sync := { p.sync with watch := w } } = π p)
include hπ

theorem strandAt_markClaims (s : State) (hit : Nat → Bool) (w : Sid) : π ((s.markClaims hit).strandAt w) = π (s.strandAt w) := by
  have h := getK_map Strand.reset (fun _ p => ({ p with region := { p.region with reads := p.region.reads.map fun r =>
    if (r.claimed && hit r.line) = true then { r with marked := true } else r } } : Strand)) (fun _ => rfl) w.key s.strands
  exact (congrArg π h).trans (hπ _ _ _)

theorem strandAt_wakeAll (s : State) (hit : Target → Bool) (w : Sid) : π ((s.wakeAll hit).strandAt w) = π (s.strandAt w) := by
  have h := getK_map Strand.reset (fun _ p => p.modSync fun y =>
    match y.watch with
    | some u =>
      if hit u.place ∧ !u.sat ∧ waitCond u.cond (s.watchedWord u.place u.word) u.val then
        { y with watch := some { u with sat := true, tag := s.tagAt u.place } }
      else y
    | none => y) (fun _ => rfl) w.key s.strands
  refine (congrArg π h).trans ?_
  unfold Strand.modSync
  dsimp only
  split
  · split
    · exact hπ _ _ _
    · rfl
  · rfl

/-- What a write at the slices leaves of a strand: all but its region's marks and its watch. -/
theorem strandAt_sliceWrite (s : State) (cells : List Host.Cell) (tag : Option Tag) (w : Sid) :
    π ((s.sliceWrite cells tag).strandAt w) = π (s.strandAt w) :=
  (foldl_leaves (fun u : State => π (u.strandAt w)) _ (fun u _ => strandAt_wakeAll π hπ u _ w) _ _).trans
    (strandAt_markClaims π hπ _ _ w)

end

theorem mem_sliceWrite (s : State) (cells : List Host.Cell) (tag : Option Tag) :
    (s.sliceWrite cells tag).mem = s.mem.writeCells cells :=
  (foldl_leaves State.mem (fun u n => u.wake (.line (n * 32))) (fun _ _ => rfl) _ _).trans rfl

theorem me_sliceWrite (s : State) (cells : List Host.Cell) (tag : Option Tag) : (s.sliceWrite cells tag).me = s.me :=
  (foldl_leaves State.me (fun u n => u.wake (.line (n * 32))) (fun _ _ => rfl) _ _).trans rfl

theorem latch_sliceWrite (s : State) (cells : List Host.Cell) (tag : Option Tag) : (s.sliceWrite cells tag).latch = s.latch :=
  (foldl_leaves State.latch (fun u n => u.wake (.line (n * 32))) (fun _ _ => rfl) _ _).trans rfl

theorem parked_sliceWrite (s : State) (cells : List Host.Cell) (tag : Option Tag) : (s.sliceWrite cells tag).parked = s.parked :=
  (foldl_leaves State.parked (fun u n => u.wake (.line (n * 32))) (fun _ _ => rfl) _ _).trans rfl

theorem strand_sliceWrite (s : State) (cells : List Host.Cell) (tag : Option Tag) : ∃ (r : Region) (w : Option Watch),
    (s.sliceWrite cells tag).strand = { s.strand with region := r, sync := { s.strand.sync with watch := w } } := by
  have h := strandAt_sliceWrite (fun p => ({ p with region := Region.reset, sync := { p.sync with watch := none } } : Strand))
    (fun _ _ _ => rfl) s cells tag s.me
  have hstrand : (s.sliceWrite cells tag).strand = (s.sliceWrite cells tag).strandAt s.me := by rw [strand, me_sliceWrite]
  rw [← hstrand] at h
  generalize (s.sliceWrite cells tag).strand = u at h
  exact ⟨u.region, u.sync.watch,
    congrArg (fun p : Strand => { p with region := u.region, sync := { p.sync with watch := u.sync.watch } }) h⟩

end State

end Sys2Proof.Machine
end

section
/-! PROOFS. The slice queues (R221, R222, R421). -/

namespace Sys2Proof.Machine

/-! ## Lines that no core holds and nothing in flight touches (R188) -/

/-- `t` is `s` but for its cores and its flights: the core of `w` buffers nothing, every flight is performed, and an L1 holds no
line that it does not hold in `s`. -/
structure Undisturbed (w : Sid) (s t : State) : Prop where
  rest : t = { s with cores := t.cores, flights := t.flights }
  wbuf : (t.coreAt w.core).wbuf = []
  done : ∀ f ∈ t.flights, f.done = true
  l1   : ∀ line, s.l1Find w.core line = none → t.l1Find w.core line = none

/-- A core whose buffer, and whose L1, has given up a line. -/
def Core.drained (c : Core) (line : Nat) : Core := { c with wbuf := c.wbuf.filter fun l => !(l.line == line) }
def Core.dropped (c : Core) (line : Nat) : Core := { c with l1 := c.l1.filter fun k => k.line != line }

namespace State

theorem performAll_done {s : State} (h : ∀ f ∈ s.flights, f.done = true) (p : Flight → Bool) : s.performAll p = s := by
  refine foldl_fixed _ fun n _ => ?_
  split
  next =>
    unfold performAt
    split
    next => rfl
    next f hf => rw [h f (List.mem_of_getElem? hf)]; rfl
  next => rfl

theorem settleLine_done {s : State} (h : ∀ f ∈ s.flights, f.done = true) (w : Sid) (line : Nat) :
    s.settleLine w line = (false, s) := by
  have hnone : s.flights.any (s.seesWrite w line) = false :=
    List.any_eq_false.2 fun f hf => by simp [seesWrite, h f hf]
  rw [settleLine, performAll_done h, hnone]

theorem settleOwn_done {s : State} (h : ∀ f ∈ s.flights, f.done = true) (w : Sid) : s.settleOwn w = (false, s) := by
  unfold settleOwn
  dsimp only
  rw [performAll_done h]
  refine Prod.ext (List.any_eq_false.2 fun f hf => ?_) rfl
  rw [h f hf]
  cases f.msg <;> simp

theorem writeBack_none {s : State} {core line : Nat} (h : s.l1Find core line = none) : s.writeBack core line = s := by
  rw [writeBack, h]

theorem drainW_empty {s : State} {core : Nat} (h : (s.coreAt core).wbuf = []) (line : Nat) :
    s.drainW core (fun e => e.line == line) = s.modCore core (·.drained line) := by
  rw [drainW, h]; rfl

theorem dropLine_none {s : State} {core line : Nat} (h : s.l1Find core line = none) :
    s.dropLine core line = s.modCore (s.l1Core core line) (·.dropped line) := by
  unfold dropLine
  rw [writeBack_none (s := s.atOnce) h]
  rfl

end State

namespace Undisturbed

variable {w : Sid} {s t : State}

theorem refl (hw : (s.coreAt w.core).wbuf = []) (hf : ∀ f ∈ s.flights, f.done = true) : Undisturbed w s s :=
  ⟨rfl, hw, hf, fun _ h => h⟩

theorem modCore (h : Undisturbed w s t) (n : Nat) {f : Core → Core} (hwbuf : ∀ c : Core, c.wbuf = [] → (f c).wbuf = [])
    (hl1 : ∀ c : Core, ∀ k ∈ (f c).l1, k ∈ c.l1) : Undisturbed w s (t.modCore n f) := by
  obtain ⟨hrest, hw, hf, hline⟩ := h
  refine ⟨?_, ?_, hf, fun line hnone => ?_⟩
  · exact congrArg (fun u : State => u.modCore n f) hrest
  · rw [State.coreAt_modCore]
    split
    next h => exact hwbuf _ (h ▸ hw)
    next => exact hw
  · have h := List.find?_eq_none.1 (hline line hnone)
    refine List.find?_eq_none.2 fun k hk => h k ?_
    change k ∈ ((t.modCore n f).coreAt (t.l1Core w.core line)).l1 at hk
    rw [State.coreAt_modCore] at hk
    split at hk
    next h => rw [h]; exact hl1 _ k hk
    next => exact hk

theorem received (h : Undisturbed w s t) (core line : Nat) : Undisturbed w s (t.received core line) := by
  obtain ⟨hrest, hw, hf, hline⟩ := h
  refine ⟨congrArg (fun u : State => { u with flights := (t.received core line).flights }) hrest, hw, fun f hmem => ?_, hline⟩
  obtain ⟨g, hg, rfl⟩ := List.mem_map.1 hmem
  obtain ⟨k, hk, rfl⟩ := List.mem_map.1 hg
  have hdone := hf k hk
  grind

/-- A line that no core holds is looked at in vain: nothing waits, and nothing changes but what the core keeps of it. -/
theorem sqLine (h : Undisturbed w s t) {a : Nat} (hline : s.l1Find w.core (a / 32) = none) :
    ∃ u, State.sqLine w (false, t) a = (false, u) ∧ Undisturbed w s u := by
  have hdrain := h.modCore w.core (f := (·.drained (a / 32))) (fun c hc => by simp [Core.drained, hc]) fun _ _ hk => hk
  have hdrop := hdrain.modCore ((t.modCore w.core (·.drained (a / 32))).l1Core w.core (a / 32)) (f := (·.dropped (a / 32)))
    (fun _ hc => hc) fun _ _ hk => (List.mem_filter.1 hk).1
  refine ⟨_, ?_, hdrop.received w.core (a / 32)⟩
  unfold State.sqLine
  dsimp only
  rw [State.drainW_empty h.wbuf, State.dropLine_none (hdrain.l1 _ hline), State.settleLine_done hdrop.done]
  rfl

theorem foldl_sqLine {as : List Nat} (hlines : ∀ a ∈ as, s.l1Find w.core (a / 32) = none) (h : Undisturbed w s t) :
    ∃ u, as.foldl (State.sqLine w) (false, t) = (false, u) ∧ Undisturbed w s u := by
  induction as generalizing t with
  | nil => exact ⟨t, rfl, h⟩
  | cons a as ih =>
    obtain ⟨u, hu, hquiet⟩ := h.sqLine (hlines a List.mem_cons_self)
    rw [List.foldl_cons, hu]
    exact ih (fun b hb => hlines b (List.mem_cons_of_mem _ hb)) hquiet

theorem mem_eq (h : Undisturbed w s t) : t.mem = s.mem := (congrArg State.mem h.rest).trans rfl
theorem me_eq (h : Undisturbed w s t) : t.me = s.me := (congrArg State.me h.rest).trans rfl
theorem strands_eq (h : Undisturbed w s t) : t.strands = s.strands := (congrArg State.strands h.rest).trans rfl
theorem latch_eq (h : Undisturbed w s t) : t.latch = s.latch := (congrArg State.latch h.rest).trans rfl
theorem blocked_eq (h : Undisturbed w s t) : t.blocked = s.blocked := (congrArg State.blocked h.rest).trans rfl
theorem parked_eq (h : Undisturbed w s t) : t.parked = s.parked := (congrArg State.parked h.rest).trans rfl
theorem strand_eq (h : Undisturbed w s t) : t.strand = s.strand := by rw [State.strand, State.strandAt, h.me_eq, h.strands_eq]; rfl
theorem lineBad_eq (h : Undisturbed w s t) (line : Nat) : t.lineBad line = s.lineBad line := by rw [h.rest]; rfl

end Undisturbed

/-! ## A well-formed descriptor at its slice (R222) -/

/-- The places of a queue that an operation looks at: its descriptor, its tail, its next entries (R222). -/
def queuePlaces (pa : Nat) (e : SqDesc) : List Nat :=
  [pa, ringAt pa e e.tail] ++ (List.range 4).map fun i => ringAt pa e (e.head + i)

/-- A well-formed descriptor `e` of which the core of the executing strand holds no line, with nothing in flight: no line of the
queue is in error or held, and no dequeue is parked there. -/
structure QueueReady (s : State) (pa room : Nat) (e : SqDesc) : Prop where
  wf    : s.mem.wf = true
  desc  : sqDesc s.mem pa room = some e
  alone : ∀ p ∈ s.parked, p.desc ≠ pa ∧ p.who ≠ s.me
  wbuf  : s.core.wbuf = []
  done  : ∀ f ∈ s.flights, f.done = true
  lines : ∀ p ∈ queuePlaces pa e, s.l1Find s.me.core (p / 32) = none ∧ s.lineBad (p / 32) = false ∧
    s.blockedBy (.line (p / 32 * 32)) true = false

namespace QueueReady

variable {s t : State} {pa room : Nat} {e : SqDesc}

theorem mem_desc : pa ∈ queuePlaces pa e := List.mem_cons_self

theorem mem_head : ringAt pa e e.head ∈ queuePlaces pa e :=
  List.mem_append_right _ (List.mem_map.2 ⟨0, by simp, rfl⟩)

/-- Looking at the descriptor: it is found, and what the strand goes on with is as quiet. -/
theorem sqLook (h : QueueReady s pa room e) : ∃ t, s.sqLook s.me pa room = (false, some e, t) ∧ Undisturbed s.me s t := by
  have hnone (a : Nat) (ha : a ∈ queuePlaces pa e) : s.l1Find s.me.core (a / 32) = none := (h.lines a ha).1
  obtain ⟨u, hu, hmid⟩ := (Undisturbed.refl h.wbuf h.done).sqLine (hnone pa mem_desc)
  obtain ⟨t, ht, hquiet⟩ := hmid.foldl_sqLine (as := ringAt pa e e.tail :: State.sqNext pa 4 e) fun a ha =>
    hnone a (List.mem_cons_of_mem _ ha)
  refine ⟨t, ?_, hquiet⟩
  have hdesc : sqDesc u.mem pa room = some e := by rw [hmid.mem_eq, h.desc]
  rw [State.sqLook, hu]
  dsimp only
  rw [hdesc]
  dsimp only
  rw [ht]

theorem undisturbed (h : QueueReady s pa room e) (hq : Undisturbed s.me s t) : QueueReady t pa room e := by
  obtain ⟨hwf, hdesc, halone, -, -, hlines⟩ := h
  refine ⟨hq.mem_eq ▸ hwf, hq.mem_eq ▸ hdesc, ?_, ?_, hq.done, fun p hp => ?_⟩
  · rw [hq.parked_eq, hq.me_eq]; exact halone
  · rw [State.core, hq.me_eq]; exact hq.wbuf
  · obtain ⟨hl1, hbad, hheld⟩ := hlines p hp
    refine ⟨?_, (hq.lineBad_eq _).trans hbad, ?_⟩
    · rw [hq.me_eq]; exact hq.l1 _ hl1
    · rw [State.blockedBy, hq.blocked_eq, hq.me_eq]; exact hheld

theorem sqHeldUp (h : QueueReady s pa room e) {as : List Nat} (has : ∀ a ∈ as, a ∈ queuePlaces pa e) :
    s.sqHeldUp s.me as = false := by
  refine List.any_eq_false.2 fun a ha => ?_
  rw [Bool.not_eq_true, ← (h.lines a (has a ha)).2.2]
  simp only [State.blockedBy, Bool.true_or, Bool.and_true]
  rfl

end QueueReady

/-! ## Plain operations (R222, R421) -/

section
variable {s : State} {mm : MemMod} (horder : mm.order = .plain)
include horder

theorem acquires_plain : MemMod.acquires mm = false := by simp [MemMod.acquires, horder]
theorem releases_plain : MemMod.releases mm = false := by simp [MemMod.releases, horder]

namespace State

theorem sqBefore_plain : s.sqBefore mm = .ok () s := by
  simp [sqBefore, horder, releaseFirst, releases_plain horder]

/-- A plain operation on a queue of this module, its descriptor on a page other than type S, with nothing in flight. -/
theorem sqRun_own {va : Word} {l : Loc} {room : Nat} {u : State} {own : Loc → Nat → MemMod → State → Eff Unit}
    {peer : Word → State → State} (hplace : s.sqPlace va = .ok (l, room) u) (hty : l.ty ≠ 3)
    (hprov : u.provisional u.me = false) (hown : u.isOwn l = true) (hdone : ∀ f ∈ u.flights, f.done = true) :
    s.sqRun va mm own peer = own l room mm u := by
  have hmm : effective l mm = mm := by
    unfold effective
    split
    next => obtain ⟨scope, order, hint⟩ := mm; cases horder; rfl
    next => rfl
  have hordered : u.ordered l = .ok () u := by
    unfold ordered
    rw [settleOwn_done hdone]
    split <;> rfl
  rw [sqRun, hplace]
  simp only [Eff.bind, hmm, hprov, hown, fenced, if_pos hty, hordered, Bool.false_eq_true, if_false, Bool.not_true]

end State
end

namespace State

/-! ## Parked dequeues (R222) -/

theorem serveParked_append (s : State) (pa : Nat) {l : List Parked} (l' : List Parked) (h : ∀ p ∈ l, p.desc ≠ pa) :
    s.serveParked pa (l ++ l') = s.serveParked pa l' := by
  induction l with
  | nil => rfl
  | cons p l ih =>
    rw [List.cons_append, serveParked, if_pos (h p List.mem_cons_self), ih fun p hp => h p (List.mem_cons_of_mem _ hp)]

theorem serveParked_none (s : State) (pa : Nat) {l : List Parked} (h : ∀ p ∈ l, p.desc ≠ pa) : s.serveParked pa l = s := by
  rw [← List.append_nil l, serveParked_append s pa [] h, serveParked]

/-! ## `sqenq` -/

section
variable {s : State} {l : Loc} {room : Nat} {e : SqDesc} {mm : MemMod} (h : QueueReady s l.pa room e)
include h

theorem enqueue_full (hfull : e.count = 2 ^ e.lcap) (v va : Word) : s.enqueue l room v va mm = .trap 14 (errVal 6 va) 0 := by
  obtain ⟨t, ht, -⟩ := h.sqLook
  rw [enqueue, ht]
  exact if_pos hfull

/-- The bytes that an entry `v` writes at the tail of a queue: its place in the ring, and TAIL. -/
def entryCells (pa : Nat) (e : SqDesc) (v : Word) : List Host.Cell :=
  cellsAt (ringAt pa e e.tail) (bytesOfNat 8 v.toNat) ++ cellsAt (pa + 24) (bytesOfNat 8 (e.tail + 1))

theorem enqueue_room (horder : mm.order = .plain) (hroom : e.count < 2 ^ e.lcap) (v va : Word) :
    ∃ t, Undisturbed s.me s t ∧ s.enqueue l room v va mm = .ok () (t.unblock.sliceWrite (entryCells l.pa e v) none) := by
  obtain ⟨t, ht, hq⟩ := h.sqLook
  have hready := h.undisturbed hq
  have hbad : t.lineBad (ringAt l.pa e e.tail / 32) = false := (hready.lines _ (by simp [queuePlaces])).2.1
  have hheld : t.sqHeldUp s.me [l.pa, ringAt l.pa e e.tail] = false := by
    rw [← hq.me_eq]; exact hready.sqHeldUp fun a ha => List.mem_append_left _ ha
  refine ⟨t, hq, ?_⟩
  rw [enqueue, ht]
  simp only [if_neg (Nat.ne_of_lt hroom), hbad, hq.me_eq, hheld, sqBefore_plain horder, acquires_plain horder,
    releases_plain horder, Eff.bind, Bool.false_eq_true, if_false, sqPut]
  rw [serveParked_none]
  · rfl
  · rw [parked_sliceWrite]
    exact fun p hp => (hready.alone p hp).1

end

/-! ## `sqdeq` -/

theorem sqHeldUp_unblock {s : State} {w : Sid} {as : List Nat} (h : s.sqHeldUp w as = false) : s.unblock.sqHeldUp w as = false :=
  List.any_eq_false.2 fun a ha hany => List.any_eq_false.1 h a ha (by
    obtain ⟨q, hq, hheld⟩ := List.any_eq_true.1 hany
    exact List.any_eq_true.2 ⟨q, (List.mem_filter.1 hq).1, hheld⟩)

/-- The request of the executing strand that `sqdeq` parks at a descriptor, without a release (R222). -/
def myRequest (s : State) (pa room : Nat) : Parked := ⟨pa, s.me, none, none, room, s.rankAt s.me⟩

/-- The executing strand's request stands parked behind those that stood there. -/
def parks (s : State) (pa room : Nat) : State := { s.unblock with parked := s.parked ++ [s.myRequest pa room] }

/-- The entry at the head of a queue, as the slice takes it for the strand. -/
def headEntry (s : State) (pa room : Nat) (e : SqDesc) : SqEntry :=
  ⟨pa, room, ringAt pa e e.head, BitVec.ofNat 64 (s.mem.nat (ringAt pa e e.head) 8)⟩

/-- The slice has taken the entry at the head for the strand: HEAD counts it, and the request is gone. -/
def served (s : State) (pa room : Nat) (e : SqDesc) : State :=
  ({ s with parked := s.parked.erase (s.myRequest pa room), blocked := s.blocked.erase (lineOf pa, s.me, false) }.sliceWrite
    (cellsAt (pa + 16) (bytesOfNat 8 (e.head + 1))) none).modStrand s.me fun t =>
      t.modSync fun y => { y with sqHeld := y.sqHeld ++ [s.headEntry pa room e] }

section
variable {s : State} {pa room : Nat} {e : SqDesc} (hdesc : sqDesc s.mem pa room = some e)
include hdesc

theorem serveParked_empty (hempty : e.count = 0) : s.serveParked pa [s.myRequest pa room] = s := by
  rw [serveParked, if_neg (fun h => h rfl)]
  simp only [myRequest, hdesc, hempty]
  rfl

theorem serveParked_head (hsome : e.count ≠ 0) (hbad : s.lineBad (pa / 32) = false)
    (hring : s.lineBad (ringAt pa e e.head / 32) = false) (hheld : s.sqHeldUp s.me [pa] = false) :
    s.serveParked pa [s.myRequest pa room] = s.served pa room e := by
  rw [serveParked, if_neg (fun h => h rfl)]
  simp only [myRequest, hdesc]
  simp [sqNext, hbad, hring, hheld, hsome, serveParked, sqTake, served, myRequest, headEntry]

end

section
variable {s : State} {l : Loc} {room : Nat} {e : SqDesc} {mm : MemMod} (h : QueueReady s l.pa room e)
  (horder : mm.order = .plain) (hheld : s.strand.sync.sqHeld = [])
include h horder hheld

/-- With no entry taken for it before, the strand parks its request at the slice (R202, R222). -/
theorem dequeue_parks (a : XReg) (va : Word) :
    ∃ t, Undisturbed s.me s t ∧ QueueReady t l.pa room e ∧
      s.dequeue a l room va mm = (t.parks l.pa room).dequeued a l va mm := by
  obtain ⟨t, ht, hq⟩ := h.sqLook
  have hready := h.undisturbed hq
  have hnone : s.heldEntry l.pa = none := by rw [heldEntry, hheld]; rfl
  have hbad : t.lineBad (ringAt l.pa e e.head / 32) = false := (hready.lines _ QueueReady.mem_head).2.1
  have hmine : (t.parked.any fun p => p.who == s.me && p.q.isNone) = false :=
    List.any_eq_false.2 fun p hp => by simp [hq.me_eq ▸ (hready.alone p hp).2]
  have hup : t.sqHeldUp s.me [l.pa] = false := by
    rw [← hq.me_eq]; exact hready.sqHeldUp fun a ha => List.mem_singleton.1 ha ▸ QueueReady.mem_desc
  refine ⟨t, hq, hready, ?_⟩
  rw [dequeue, hnone]
  dsimp only
  rw [ht]
  simp only [hbad, hmine, hup, hq.me_eq, sqBefore_plain horder, releases_plain horder, Eff.bind, Bool.and_false,
    Bool.false_eq_true, if_false]
  rfl

end

section
variable {t : State} {pa room : Nat} {e : SqDesc} (h : QueueReady t pa room e)
include h

theorem serveParked_parks : (t.parks pa room).serveParked pa (t.parks pa room).parked =
    (t.parks pa room).serveParked pa [(t.parks pa room).myRequest pa room] :=
  serveParked_append _ pa _ fun p hp => (h.alone p hp).1

theorem serveParked_parks_head (hsome : e.count ≠ 0) :
    (t.parks pa room).serveParked pa (t.parks pa room).parked = (t.parks pa room).served pa room e := by
  have hbad (p : Nat) (hp : p ∈ queuePlaces pa e) : (t.parks pa room).lineBad (p / 32) = false := (h.lines p hp).2.1
  rw [serveParked_parks h]
  exact serveParked_head h.desc hsome (hbad pa QueueReady.mem_desc) (hbad _ QueueReady.mem_head)
    (sqHeldUp_unblock (h.sqHeldUp fun a ha => List.mem_singleton.1 ha ▸ QueueReady.mem_desc))

end

/-- The executing strand has taken an entry that a slice held for it into X[a]. -/
def withEntry (s : State) (a : XReg) (v : SqEntry) : State := (s.modSync fun y => { y with sqHeld := y.sqHeld.erase v }).setX a v.val

theorem strand_modStrand_me {s : State} {w : Sid} (h : s.me = w) (f : Strand → Strand) : (s.modStrand w f).strand = f s.strand := by
  subst h
  exact strand_withStrand s f

/-- What the slice's service leaves of the executing strand: all but its region's marks, its watch and the entry it has gained. -/
theorem strand_served (s : State) (pa room : Nat) (e : SqDesc) : ∃ (r : Region) (w : Option Watch), (s.served pa room e).strand =
    { s.strand with
      region := r, sync := { s.strand.sync with watch := w, sqHeld := s.strand.sync.sqHeld ++ [s.headEntry pa room e] } } := by
  obtain ⟨r, w, hstrand⟩ := strand_sliceWrite
    { s with parked := s.parked.erase (s.myRequest pa room), blocked := s.blocked.erase (lineOf pa, s.me, false) }
    (cellsAt (pa + 16) (bytesOfNat 8 (e.head + 1))) none
  refine ⟨r, w, ?_⟩
  rw [served, strand_modStrand_me (me_sliceWrite ..), hstrand]
  rfl

theorem mem_served (s : State) (pa room : Nat) (e : SqDesc) :
    (s.served pa room e).mem = s.mem.writeCells (cellsAt (pa + 16) (bytesOfNat 8 (e.head + 1))) := mem_sliceWrite ..

theorem latch_served (s : State) (pa room : Nat) (e : SqDesc) : (s.served pa room e).latch = s.latch := latch_sliceWrite ..

section
variable {t : State} {l : Loc} {room : Nat} {e : SqDesc} {mm : MemMod} (h : QueueReady t l.pa room e)
  (horder : mm.order = .plain) (hheld : t.strand.sync.sqHeld = [])
include h hheld

theorem dequeued_empty (hempty : e.count = 0) (a : XReg) (va : Word) :
    (t.parks l.pa room).dequeued a l va mm = (t.parks l.pa room).holdFor (.deq l.pa) va := by
  rw [dequeued, serveParked_parks h, serveParked_empty (s := t.parks l.pa room) h.desc hempty, heldEntry]
  change (match t.strand.sync.sqHeld.find? _ with | some v => _ | none => _) = _
  rw [hheld]
  rfl

include horder in
theorem dequeued_head (hsome : e.count ≠ 0) (a : XReg) (va : Word) :
    (t.parks l.pa room).dequeued a l va mm =
      .ok () (((t.parks l.pa room).served l.pa room e).withEntry a (t.headEntry l.pa room e)) := by
  have hentry : ((t.parks l.pa room).served l.pa room e).heldEntry l.pa = some (t.headEntry l.pa room e) := by
    obtain ⟨r, w, hstrand⟩ := strand_served (t.parks l.pa room) l.pa room e
    rw [heldEntry, hstrand]
    change ((t.strand.sync.sqHeld ++ [t.headEntry l.pa room e]).find? _) = _
    rw [hheld]
    exact List.find?_cons_of_pos (beq_self_eq_true _)
  rw [dequeued, serveParked_parks_head h hsome, hentry]
  simp only [takeEntry, sqAcquire, acquires_plain horder]
  rfl

end

end State

/-! ## What the queue's memory holds afterwards (R221) -/

section
variable {mem : Memory} (hwf : mem.wf = true)
include hwf

/-- The entry and TAIL after an enqueue, and every other byte. -/
theorem mem_entryCells (pa : Nat) (e : SqDesc) (v : Word) :
    (mem.writeCells (State.entryCells pa e v)).nat (ringAt pa e e.tail) 8 = v.toNat ∧
    (mem.writeCells (State.entryCells pa e v)).nat (pa + 24) 8 = (e.tail + 1) % 2 ^ 64 ∧
    ∀ p, (p < ringAt pa e e.tail ∨ ringAt pa e e.tail + 8 ≤ p) → (p < pa + 24 ∨ pa + 32 ≤ p) →
      (mem.writeCells (State.entryCells pa e v)).read p = mem.read p := by
  have hring : pa + 32 ≤ ringAt pa e e.tail := Nat.le_add_right ..
  have hentry := Memory.wf_writeN (bytesOfNat 8 v.toNat) (ringAt pa e e.tail) hwf
  rw [State.entryCells, Memory.writeCells_append, Memory.writeCells_cellsAt, Memory.writeCells_cellsAt]
  refine ⟨?_, Memory.nat_writeN_same hentry .., fun p hp hp' => ?_⟩
  · rw [Memory.nat_congr fun j hj _ => Memory.read_writeN_other hentry (.inr (by omega)), Memory.nat_writeN_same hwf]
    exact Nat.mod_eq_of_lt v.isLt
  · rw [Memory.read_writeN_other hentry hp', Memory.read_writeN_other hwf hp]

/-- HEAD after a dequeue, and every other byte. -/
theorem mem_head (pa : Nat) (e : SqDesc) :
    (mem.writeCells (cellsAt (pa + 16) (bytesOfNat 8 (e.head + 1)))).nat (pa + 16) 8 = (e.head + 1) % 2 ^ 64 ∧
    ∀ p, p < pa + 16 ∨ pa + 24 ≤ p → (mem.writeCells (cellsAt (pa + 16) (bytesOfNat 8 (e.head + 1)))).read p = mem.read p := by
  rw [Memory.writeCells_cellsAt]
  exact ⟨Memory.nat_writeN_same hwf .., fun p hp => Memory.read_writeN_other hwf hp⟩

end

/-! ## The forms -/

theorem fallsTo_congr {s t : State} (hlatch : t.latch = s.latch) (hpc : t.strand.pc = s.strand.pc) : fallsTo t = fallsTo s := by
  unfold fallsTo State.after State.pcf
  rw [hlatch, hpc]

section
variable {s u : State} {l : Loc} {room : Nat} {e : SqDesc} (h : QueueReady u l.pa room e)
  (hmem : u.mem = s.mem) (hstrand : u.strand = s.strand)
include h hmem hstrand

theorem completes_enqueue {i : Instr} {mm : MemMod} {v va : Word} (hlatch : u.latch = s.latch) (horder : mm.order = .plain)
    (hi : exec i s = finish s (u.enqueue l room v va mm)) (hroom : e.count < 2 ^ e.lcap) :
    Completes i s fun t => ∃ m : State, Retires m t (fallsTo s) ∧
      m.mem.nat (ringAt l.pa e e.tail) 8 = v.toNat ∧ m.mem.nat (l.pa + 24) 8 = (e.tail + 1) % 2 ^ 64 ∧
      (∀ p, (p < ringAt l.pa e e.tail ∨ ringAt l.pa e e.tail + 8 ≤ p) → (p < l.pa + 24 ∨ l.pa + 32 ≤ p) →
        m.mem.read p = s.mem.read p) ∧ ∀ r, m.x r = s.x r := by
  obtain ⟨t, hq, hput⟩ := State.enqueue_room h horder hroom v va
  obtain ⟨r, w, hafter⟩ := State.strand_sliceWrite t.unblock (State.entryCells l.pa e v) none
  have hkept : t.unblock.strand = s.strand := hq.strand_eq.trans hstrand
  have hmem' : (t.unblock.sliceWrite (State.entryCells l.pa e v) none).mem = s.mem.writeCells (State.entryCells l.pa e v) := by
    rw [State.mem_sliceWrite, ← hmem, ← hq.mem_eq]; rfl
  obtain ⟨hentry, htail, hothers⟩ := mem_entryCells (hmem ▸ h.wf) l.pa e v
  refine completes_of_finish (hi.trans (congrArg (finish s) hput)) (fallsTo_congr ?_ ?_) fun m hm =>
    ⟨_, hm, by rw [hmem', hentry], by rw [hmem', htail], by rw [hmem']; exact hothers, State.x_congr ?_⟩
  · rw [State.latch_sliceWrite, ← hlatch, ← hq.latch_eq]; rfl
  · rw [hafter, hkept]
  · rw [hafter, hkept]

theorem completes_dequeue_empty {i : Instr} {a : XReg} {mm : MemMod} {va : Word} (horder : mm.order = .plain)
    (hi : exec i s = finish s (u.dequeue a l room va mm)) (hheld : s.strand.sync.sqHeld = []) (hempty : e.count = 0) :
    Completes i s fun t => t.strand.sync.held = true ∧ t.strand.pc = s.strand.pc ∧ t.mem = s.mem ∧ ∀ r, t.x r = s.x r := by
  obtain ⟨t, hq, hready, hparks⟩ := State.dequeue_parks h horder (hstrand ▸ hheld) a va
  have hkept : (t.parks l.pa room).strand = s.strand := hq.strand_eq.trans hstrand
  rw [hparks, State.dequeued_empty hready (hkept ▸ hheld) hempty] at hi
  have hwait : ((t.parks l.pa room).modSync fun y => { y with what := .deq l.pa }).strand =
      s.strand.modSync fun y => { y with what := .deq l.pa } := by
    rw [State.modSync, State.strand_withStrand, hkept]
  refine completes_held hi ?_ ?_ fun m _ hm => ?_
  · rw [hwait]; rfl
  · rw [hwait]; rfl
  · rw [hm, ← hmem, ← hq.mem_eq]; rfl

theorem completes_dequeue_head {i : Instr} {a : XReg} {mm : MemMod} {va : Word} (hlatch : u.latch = s.latch)
    (horder : mm.order = .plain)
    (hi : exec i s = finish s (u.dequeue a l room va mm)) (hheld : s.strand.sync.sqHeld = []) (hsome : e.count ≠ 0) :
    Completes i s fun t => ∃ m : State, Retires m t (fallsTo s) ∧ m.mem.nat (l.pa + 16) 8 = (e.head + 1) % 2 ^ 64 ∧
      (∀ p, p < l.pa + 16 ∨ l.pa + 24 ≤ p → m.mem.read p = s.mem.read p) ∧
      ∀ r, m.x r = if r = 0 then 0 else if r = a then BitVec.ofNat 64 (s.mem.nat (ringAt l.pa e e.head) 8) else s.x r := by
  obtain ⟨t, hq, hready, hparks⟩ := State.dequeue_parks h horder (hstrand ▸ hheld) a va
  have hkept : (t.parks l.pa room).strand = s.strand := hq.strand_eq.trans hstrand
  obtain ⟨r, w, hserved⟩ := State.strand_served (t.parks l.pa room) l.pa room e
  have hmem' : ((t.parks l.pa room).served l.pa room e).mem =
      s.mem.writeCells (cellsAt (l.pa + 16) (bytesOfNat 8 (e.head + 1))) := by
    rw [State.mem_served, ← hmem, ← hq.mem_eq]; rfl
  obtain ⟨hhead, hothers⟩ := mem_head (hmem ▸ h.wf) l.pa e
  rw [hparks, State.dequeued_head hready horder (hkept ▸ hheld) hsome] at hi
  refine completes_of_finish hi (fallsTo_congr ?_ ?_) fun m hm =>
    ⟨_, hm, ?_, fun p hp => ?_, fun q => ?_⟩
  · exact (State.latch_served ..).trans (hq.latch_eq.trans hlatch)
  · simp [State.withEntry, State.setX, State.modSync, Strand.modSync, hserved, hkept]
  · exact (congrArg (Memory.nat · _ _) hmem').trans hhead
  · exact (congrArg (Memory.read · _) hmem').trans (hothers p hp)
  · have hx : (((t.parks l.pa room).served l.pa room e).modSync fun y =>
        { y with sqHeld := y.sqHeld.erase (t.headEntry l.pa room e) }).x q = s.x q := by
      refine State.x_congr ?_ q
      rw [State.modSync, State.strand_withStrand, hserved, hkept]
      rfl
    rw [State.withEntry, State.x_setX, hx, State.headEntry, hq.mem_eq, hmem]

end

/-- Settles O46: the registers by what stands in them; the slice queues, where looking at the descriptor's lines disturbs nothing, by
the write that the entry or HEAD makes. -/
theorem queueForms : Obligations.QueueForms := by
  intro s a b d q imm mm old turns leaves blocks
  refine ⟨fun hregion hphase => ?_, fun l room u e hcanon hplace horder hty hme hmem hstrand hlatch _ _ hprov hown hdesc halone hwbuf
    hdone hlines => ?_⟩
  · refine ⟨fun hroom hturn => does_qw hregion hphase hroom (State.qTurn_of_first hturn), fun hfull => ?_,
      fun v l hold hturn => does_qr hregion hphase hold (State.qTurn_of_first hturn), fun hempty => ?_,
      fun v l hold => completes_qtr hregion hphase hold, fun hempty => does_qtr_empty hregion hphase hempty⟩
    · refine completes_qBlock hregion hphase rfl (if_neg fun h => ?_)
      have := of_decide_eq_true (Bool.and_eq_true_iff.1 h).1
      exact absurd hfull (Nat.not_le_of_lt this)
    · refine completes_qBlock hregion hphase (w := false) rfl ?_
      simp only [State.qOf, show vgetN s.core.q q.toNat = [] from hempty]
  · have hready : QueueReady u l.pa room e :=
      ⟨hmem ▸ hcanon.1, hmem ▸ hdesc, hme ▸ halone, hwbuf, hdone, hlines⟩
    have henq : exec (.sqenq a b imm mm) s = finish s (u.enqueue l room (s.x a) (s.ea b imm) mm) :=
      congrArg (finish s) (State.sqRun_own horder hplace hty hprov hown hdone)
    have hdeq : exec (.sqdeq a b imm mm) s = finish s (u.dequeue a l room (s.ea b imm) mm) :=
      congrArg (finish s) (State.sqRun_own horder hplace hty hprov hown hdone)
    refine ⟨completes_enqueue hready hmem hstrand hlatch horder henq, fun hfull => ⟨_,
      traps_of_finish henq (State.enqueue_full hready hfull _ _), ?_⟩,
      fun hheld hsome => completes_dequeue_head hready hmem hstrand hlatch horder hdeq hheld hsome,
      fun hheld hempty => completes_dequeue_empty hready hmem hstrand horder hdeq hheld hempty⟩
    rw [State.errVal, BitVec.toNat_ofNat]
    omega

end Sys2Proof.Machine
end
